-- ==== Sys2Proof/Word.lean ====
section
/-! DEFINITION. The word types of the W1 and their plainest arithmetic: a register word (R622), a byte of package
memory, an accord as stored (R114), and the named bit fields of a register word. -/

namespace Sys2Proof

/-- A register word: 64 bits (17_register_reference.md, first sentence). -/
abbrev Word := BitVec 64

/-- A byte of package memory, a scratchpad or a cluster memory. -/
abbrev Byte := BitVec 8

/-- The stored image of one accord entry: 640 bits (R114). -/
abbrev AccWord := BitVec 640

/-- A context ID: 12 bits (R285, R319). -/
abbrev CtxId := BitVec 12

/-- A location code: 16 bits (R54). -/
abbrev Loc := BitVec 16

/-- A field of a register word: bits [hi:lo], as the field tables write them. -/
structure Fld where
  hi : Nat
  lo : Nat
  deriving DecidableEq, Repr

/-- The width of a field in bits. -/
def Fld.width (f : Fld) : Nat := f.hi + 1 - f.lo

/-- The value a field holds in a word. -/
def Fld.get (f : Fld) (w : Word) : Nat := w.toNat / 2 ^ f.lo % 2 ^ f.width

/-- The word with the field set to `n` modulo the field's range, every other bit unchanged. -/
def Fld.put (f : Fld) (w : Word) (n : Nat) : Word :=
  BitVec.ofNat 64 (w.toNat - f.get w * 2 ^ f.lo + n % 2 ^ f.width * 2 ^ f.lo)

/-- The bits a field covers, as a mask. -/
def Fld.mask (f : Fld) : Nat := (2 ^ f.width - 1) * 2 ^ f.lo

/-- The all-ones word that a failed read returns (R100, R316, R412, R623). -/
def allOnes : Word := BitVec.ofNat 64 0xFFFFFFFFFFFFFFFF

/-- Bits [hi:lo] of a natural number read as a bit string. -/
def natBits (n hi lo : Nat) : Nat := n / 2 ^ lo % 2 ^ (hi + 1 - lo)

/-- Bit `i` of a natural number read as a bit string. -/
def natBit (n i : Nat) : Bool := n / 2 ^ i % 2 == 1

/-- One for true, zero for false. -/
def bitNat (b : Bool) : Nat := if b then 1 else 0

/-- ⌈a / b⌉ for b > 0. -/
def ceilDiv' (a b : Nat) : Nat := (a + b - 1) / b

/-- The value of `n` read as a signed number of `w` bits. -/
def signedOf (w n : Nat) : Int :=
  if 2 ^ (w - 1) ≤ n % 2 ^ w then (n % 2 ^ w : Int) - 2 ^ w else (n % 2 ^ w : Int)

/-- A signed number as its two's complement pattern of `w` bits. -/
def patternOf (w : Nat) (i : Int) : Nat := (i % (2 ^ w : Int)).toNat

end Sys2Proof
end

