-- ==== Sys2Proof/Syntax.lean ====
section
/-! DEFINITION. The commands the W1 takes: one constructor of `Instr` for each row of the spec's command table
(spec/opcode_table.json), with the row's operands. What a command's operands are is this model's reading of its rule:
the block it acts on by its physical number (R48 to R53), the agent that makes a register write (R637), what an event
outside the block supplies (a measured power, the end of a training, the bytes that arrive), and times that the spec
gives as measured (R636, R652). -/

namespace Sys2Proof.Machine

/-- The page kinds of R625. -/
inductive Page where
  | pkg | time | sec | host | coh | xlt | pcie | fix | die | hbm | opt | rgn | clu | dma | unit | arr | vec | acc
  deriving DecidableEq, Repr

/-- An agent that makes register accesses carrying SYS (R630, R637, R408): a server core, a keeper core, the warden core
of a region, or the outside host of an endpoint port through BAR0. -/
inductive Agent where
  | server (core : Fin 64)
  | keeper (core : Fin 2)
  | warden (region : Fin 32)
  | pcieHost (port : Fin 4)
  deriving DecidableEq, Repr

/-- One register write: its agent, the byte offset in the register space and the word written (R630, R634). -/
structure RegWrite where
  agent : Agent
  ofs : BitVec 32
  value : Word
  deriving DecidableEq, Repr

/-- A move of the power manager: a region and the clock code it is to run at (R4, R40). -/
structure ClkMove where
  region : Fin 32
  code : Fin 64
  deriving DecidableEq, Repr

/-- A telemetry sample: VIN_36 in mV, the input current in 10 mA, the mean power of the latest 10 µs in W, the rails,
and the clock moves the power manager makes on it (R653 to R656). -/
structure PowerSample where
  mv : BitVec 16
  curr : BitVec 16
  nowW : BitVec 16
  mJ : BitVec 32
  rails : List (Fin 16 × BitVec 48)
  moves : List ClkMove
  deriving DecidableEq, Repr

/-- One temperature sample of every sensor group of R657, in °C: the 32 region sensors, the host die's sensors, the
stacks and the optical engines. -/
structure TempSample where
  regions : List (Fin 32 × BitVec 8)
  host : List (BitVec 8)
  hbm : List (Fin 16 × BitVec 8)
  engines : List (BitVec 8)
  moves : List ClkMove
  deriving DecidableEq, Repr

/-- The sensor groups that have a thermal trip (R657). -/
inductive TripSensor where
  | computeDie | hostDie | stack
  deriving DecidableEq, Repr

/-- The causes of a power-fail stop (R652, R653): VIN_36 at a level in mV, a regulator output out of its band, or a
regulator's over-current. -/
inductive PowerFault where
  | vin (mv : BitVec 16)
  | regulator
  | overCurrent
  deriving DecidableEq, Repr

/-- A write to RGN.DVFS: its agent, its region and its word (R36, R641). -/
structure DvfsWrite where
  agent : Agent
  region : Fin 32
  value : Word
  deriving DecidableEq, Repr

/-- What starts a cold reset (R533, R569). -/
inductive ColdCause where
  | powerOn | resetN | i3c | rstCtl
  deriving DecidableEq, Repr

/-- What starts a package reset (R546, R569). -/
inductive WarmCause where
  | rstCtl | i3c | escalation
  deriving DecidableEq, Repr

/-- The end of a cold-reset step (R536), with what the step found or supplied. -/
inductive ColdStepEnd where
  | c1
  | c2
  | c3
  | c4
  | c5 (stack : Fin 16)
  | c6
  | c7 (failed : List Loc)
  | c8 (stack : Fin 16) (passed : Bool)
  | c9 (fetched : Option (List Byte))
  | c10
  | c11
  deriving DecidableEq, Repr

/-- The end of a package-reset step (R546). -/
inductive WarmStepEnd where
  | w2 | w3 | w4 | w5
  deriving DecidableEq, Repr

/-- A block that a partial or package reset resets (R533). -/
inductive ResetBlock where
  | unit (u : Fin 1024)
  | cluster (c : Fin 128)
  | region (r : Fin 32)
  | package
  deriving DecidableEq, Repr

/-- A fault of a context: the context, the status and the location code of the faulting block (R289, R290). -/
structure CtxFault where
  ctx : CtxId
  status : BitVec 8
  loc : Loc
  deriving DecidableEq, Repr

/-- A write to a random-number key slot: K0 to K3, or CFG (R134, R135). -/
inductive KeyWrite where
  | key (k : Fin 4) (value : Word)
  | cfg (value : Word)
  deriving DecidableEq, Repr

/-- The conditions that R277 times. -/
inductive WaitKind where
  | head (q : Fin 128)
  | decision (q : Fin 128)
  | credit (line : Fin 32)
  deriving DecidableEq, Repr

/-- A credit line by name: package, flat unit and line (R265, R270). -/
structure LineName where
  pkg : BitVec 12
  unit : Fin 1024
  line : Fin 32
  deriving DecidableEq, Repr

/-- The accesses of R325. -/
inductive AccessKind where
  | read | write | atomic | fetch
  deriving DecidableEq, Repr

/-- The requesters that park (R341, R418) and the walk each waits for. -/
inductive Requester where
  | channel (cluster : Fin 128) (ch : Fin 16)
  | fetch (u : Fin 1024) (q : Fin 128)
  | control (u : Fin 1024) (q : Fin 128)
  | pcie (port : Fin 4) (idx : Nat)
  | slot (k : Fin 32)
  deriving DecidableEq, Repr

/-- A line of package memory: its physical address divided by 128 (R361). -/
abbrev LineNo := BitVec 45

/-- The request types of R370 that a home may refuse. -/
inductive CohKind where
  | rdS | rdX | upg | ownNoData | rdCur | wrLine | wrPart | atom
  deriving DecidableEq, Repr

/-- The atomic operations of R382. -/
inductive AtomOp where
  | swap | add | and | or | xor | min | max | minu | maxu | cas
  deriving DecidableEq, Repr

/-- A request that arrives at a home (R370, R376, R380): the agent, the line, the port it comes through (R378), the
context it carries (none: SYS), the written bytes and their mask, the atomic, and the age it carries. -/
structure CohReq where
  agent : Fin 128
  line : LineNo
  port : Fin 11
  ctx : Option CtxId
  data : BitVec 1024
  mask : BitVec 128
  op : AtomOp
  ofs : Fin 128
  size : Fin 17
  cmp : BitVec 128
  aged : Option Word
  deriving DecidableEq, Repr

/-- The modes of a server core's hart that an access may be made in (R395, R396). -/
inductive HartMode where
  | m | hs | u | vs | vu
  deriving DecidableEq, Repr

/-- The kinds of memory access of a core. -/
inductive CoreOp where
  | load | fetch
  | store (data : List Byte)
  | amo (op : AtomOp) (data : BitVec 128) (cmp : BitVec 128)
  deriving DecidableEq, Repr

/-- An access of a server core, after its own RVA23 translation: core, mode, operation, physical address, size and
whether its page is cacheable (R393 to R397). -/
structure CoreAccess where
  core : Fin 64
  mode : HartMode
  op : CoreOp
  pa : BitVec 52
  size : Fin 129
  cacheable : Bool
  deriving DecidableEq, Repr

/-- A keeper or warden core, and an access it makes (R398, R545, R630). -/
structure FwAccess where
  core : Fin 2 ⊕ Fin 32
  op : CoreOp
  pa : BitVec 52
  size : Fin 129
  deriving DecidableEq, Repr

/-- An inbound PCIe request at a port (R412 to R418). -/
inductive PcieOp where
  | read (len : Fin 4097)
  | write (data : List Byte)
  | atomic (op : AtomOp) (size : Fin 17) (data : BitVec 128) (cmp : BitVec 128)
  deriving DecidableEq, Repr

/-- An inbound memory request: the port, the requester ID, the address and the operation. -/
structure PcieReq where
  port : Fin 4
  bdf : BitVec 16
  addr : BitVec 64
  op : PcieOp
  deriving DecidableEq, Repr

/-- The port events of R422 that lose unacknowledged requests. -/
inductive PcieDown where
  | linkDown | hotReset | perst | flr | bmeClear
  deriving DecidableEq, Repr

/-- An access to an ECAM window (R407): its agent, its port, the window offset, its size, the data of a write, and what the
addressed device answers to its configuration reads, first word first (missing: no answer). -/
structure EcamAccess where
  agent : Agent
  port : Fin 4
  ofs : BitVec 28
  size : Fin 9
  write : Option Word
  answers : List (BitVec 32)
  deriving DecidableEq, Repr

/-- A configuration request of an outside host: the offset of its doubleword, and the data of a write. -/
structure CfgReq where
  ofs : BitVec 12
  write : Option (BitVec 32)
  deriving DecidableEq, Repr

/-- A frame as it arrives on a port (R437, R438): its code words' data bits, link word first, and the bits inverted in
each on the way (R444). -/
structure FrameIn where
  words : List Word
  flips : List (BitVec 72)
  deriving DecidableEq, Repr

/-- A page walk that ends (R322, R326, R341): the requester, the context, the address and the access. -/
structure WalkReq where
  who : Requester
  ctx : CtxId
  va : BitVec 48
  access : AccessKind
  deriving DecidableEq, Repr

end Sys2Proof.Machine

namespace Sys2Proof

open Sys2Proof.Machine

/-- The commands: one constructor for each row of the command table, in the table's order. -/
inductive Instr where
  /-- REGISTER_WRITE (R634): A register write to a field with no behaviour of its own is applied field by field, including guarded-field, FW-agent and collision handling. -/
  | registerWrite (writes : List RegWrite)
  /-- DVFS_REQUEST (R36): A write to RGN.DVFS requests a region clock and/or voltage, which is clamped, checked against range and adjacency, and accepted or refused as a whole. -/
  | dvfsRequest (writes : List DvfsWrite)
  /-- DVFS_DONE (R39): an accepted clock or voltage change completes, and any request held while BUSY is then evaluated. -/
  | dvfsDone (r : Fin 32)
  /-- POWER_SAMPLE (R4): each power measurement is compared with the mean limit and ceiling, and the power manager lowers region clocks in R40 steps when a limit is broken. -/
  | powerSample (p : PowerSample)
  /-- EXCURSION_EXPIRY (R4): an excursion above TDP that reaches 1 ms makes the power manager lower region clocks. -/
  | excursionExpiry (moves : List ClkMove)
  /-- THERMAL_LIMIT (R658): A die sensor above THERM_SET makes the power manager lower region clocks and hold core groups at 2.2 GHz. -/
  | thermalLimit (t : TempSample)
  /-- THERMAL_TRIP (R659): A sensor at its thermal trip stops every agent, switches off the rails and asserts THERMTRIP_N. -/
  | thermalTrip (g : TripSensor) (tempC : BitVec 8)
  /-- POWER_FAIL (R652): VIN_36 out of range beyond its time limits, or a regulator fault, causes a power-fail stop. -/
  | powerFail (f : PowerFault) (us : BitVec 32)
  /-- VIN_IN_RANGE (R533): VIN_36 entering its operating range starts a cold reset. -/
  | vinInRange (straps : Fin 4)
  /-- RESET_N_ASSERT (R666): RESET_N held low for at least 1 µs starts a cold reset and holds step C1. -/
  | resetNAssert (ns : BitVec 32)
  /-- RESET_N_RELEASE (R666): the rising edge of RESET_N ends the hold of step C1. -/
  | resetNRelease
  /-- COLD_RESET (R536): A cold reset stops every agent without drydown and starts steps C1 to C11. -/
  | coldReset (cause : ColdCause)
  /-- COLD_RESET_STEP_END (R536): A cold-reset step ends and each step whose predecessors have all ended begins. -/
  | coldResetStepEnd (e : ColdStepEnd)
  /-- RST_CTL_COLD (R533): A PKG.RST_CTL write with KIND 3 requests a cold reset. -/
  | rstCtlCold (a : Agent)
  /-- RST_CTL_PACKAGE (R546): A PKG.RST_CTL write with KIND 2 requests a package reset. -/
  | rstCtlPackage (a : Agent)
  /-- RST_CTL_PARTITION (R566): A PKG.RST_CTL write with KIND 1 requests a partition reset of one region. -/
  | rstCtlPartition (a : Agent) (r : Fin 32)
  /-- UNIT_RESET (R566): an RGN.RST_CTL write with KIND 0 requests a reset of one unit. -/
  | unitReset (a : Agent) (r : Fin 32) (c : Fin 4) (u : Fin 8)
  /-- CLUSTER_RESET (R566): an RGN.RST_CTL write with KIND 1 requests a reset of one cluster. -/
  | clusterReset (a : Agent) (r : Fin 32) (c : Fin 4)
  /-- PACKAGE_RESET (R546): A package reset starts drydown of the whole package and steps W1 to W5. -/
  | packageReset (cause : WarmCause)
  /-- PACKAGE_RESET_STEP_END (R546): A package-reset step ends and the steps that follow it begin. -/
  | packageResetStepEnd (e : WarmStepEnd)
  /-- DRYDOWN_END (R564): the drain of traffic sent out of a reset block ends and the reset proceeds to its final state. -/
  | drydownEnd (b : ResetBlock)
  /-- DRYDOWN_TIMEOUT (R565): A drydown not ended within 1 ms escalates a partial reset to a package reset, or lets a package reset proceed with DRAIN_LOST. -/
  | drydownTimeout (b : ResetBlock)
  /-- RESET_COMPLETE (R566): A partial reset completes, leaving its block in its post-reset state, and sets RST_DONE. -/
  | resetComplete (b : ResetBlock)
  /-- AVAILABILITY_EVENT (R62): A block failure at run time clears its bit and its dependents' bits, increments GEN, writes LAST_LOC and LAST_CAUSE, and sets AVAIL_CHG. -/
  | availabilityEvent (locs : List Loc)
  /-- AVAIL_RETIRE (R65): A write to AVAIL_RETIRE withdraws a unit, cluster, region or server core, or logs RETIRE_IGNORED. -/
  | availRetire (a : Agent) (loc : Loc)
  /-- BLOCK_FAILED (R64): A failure of a block with no availability bit raises a FATAL BLOCK_FAILED record and leaves the map unchanged. -/
  | blockFailed (loc : Loc)
  /-- TIME_TICK (R70): on each time-base tick the cadence counter advances by TIME.RATE. -/
  | timeTick
  /-- REF_LOST (R75): REF10M_IN showing no edge for 500 ns sets HOLDOVER and REF_LOST and switches to the internal oscillator. -/
  | refLost
  /-- REF_RELOCK (R75): A returning reference is relocked without stepping the counter, setting REF_LOCK and clearing HOLDOVER. -/
  | refRelock
  /-- PPS_EDGE (R76): A rising edge on PPS_IN is judged against the previous valid edge or candidate, stamped into PPS_TS when valid, and may apply a pending SET. -/
  | ppsEdge
  /-- PPS_TIMEOUT (R76): no valid PPS edge for 1.5 s clears PPS_VALID. -/
  | ppsTimeout
  /-- TIME_SET (R78): A firmware write to TIME.SET arms a counter load at the next valid PPS edge, or is refused while an anchor stream is armed. -/
  | timeSet (a : Agent) (value : Word)
  /-- SET_TIMEOUT (R78): A pending SET with no valid edge within 1.5 s is cancelled and sets SET_REFUSED. -/
  | setTimeout
  /-- ANCHOR_FIRE (R86): an anchor entry falls due, its ring entry is read and checked, and its token is delivered to the target queue or skipped. -/
  | anchorFire (stream : Fin 64)
  /-- ANCHOR_TOKEN_DELIVER (R88): an anchor token waiting at the time base for queue room enters its target queue when room frees. -/
  | anchorTokenDeliver (stream : Fin 64)
  /-- ANCHOR_ARM (R92): setting ASTRn_CFG.ARM starts the stream at HEAD, firing already-due entries as late tokens. -/
  | anchorArm (a : Agent) (stream : Fin 64) (cfg : Word)
  /-- ANCHOR_DISARM (R92): clearing ASTRn_CFG.ARM stops the stream after any token it is delivering. -/
  | anchorDisarm (a : Agent) (stream : Fin 64) (cfg : Word)
  /-- ANCHOR_TAIL_WRITE (R94): A driver write to ASTRn_TAIL appends entries, or is ignored with ANCHOR_REJECT when it would overfill the ring. -/
  | anchorTailWrite (a : Agent) (stream : Fin 64) (tail : BitVec 17)
  /-- THROTTLE_ASSERT (R95): A recognised assertion of THROTTLE_N puts every array at quarter issue and updates THR_CNT and THR_LAST. -/
  | throttleAssert
  /-- THROTTLE_RELEASE (R97): deassertion of THROTTLE_N ends the accumulation of THR_NS and starts the recovery to full issue. -/
  | throttleRelease
  /-- THROTTLE_HALF_ISSUE (R97): 100 ns after deassertion the arrays return to half issue. -/
  | throttleHalfIssue
  /-- THROTTLE_FULL_ISSUE (R97): 200 ns after deassertion the arrays return to full issue. -/
  | throttleFullIssue
  /-- KEY_SLOT_WRITE (R135): A write to RKEYn_K0-K3 or RKEYn_CFG loads key material or binding, or is ignored with KEYSLOT_LOCKED while VALID is 1. -/
  | keySlotWrite (a : Agent) (slot : Fin 64) (w : KeyWrite)
  /-- QUEUE_TAIL_WRITE (R257): A write to Qq_PTR.TAIL appends entries to a command or task queue, or is ignored and sets TAIL_REJECT. -/
  | queueTailWrite (a : Agent) (u : Fin 1024) (q : Fin 128) (tail : BitVec 16)
  /-- RING_FETCH (R341): the local sequencer fetches a ring entry or task block entry under the queue's context, parking on NOT_PRESENT. -/
  | ringFetch (u : Fin 1024) (q : Fin 128)
  /-- COMMAND_ISSUE (R275): A head command whose waits are met, and whose engine, channel and send buffer allow it, issues and takes its wait entries. -/
  | commandIssue (u : Fin 1024) (q : Fin 128)
  /-- WAIT_TIMEOUT (R277): an unmet wait, a stop at a decision point or a credit wait lasting beyond WAIT_LIMIT faults the context. -/
  | waitTimeout (u : Fin 1024) (w : WaitKind)
  /-- COMMAND_COMPLETE (R263): A command completes once with status and detail, frees its consumed wait entries and produces its completion token. -/
  | commandComplete (u : Fin 1024) (q : Fin 128) (seq : BitVec 20)
  /-- TOKEN_SEND (R270): A token or message waiting in the send buffer leaves the unit when its credit line holds a credit. -/
  | tokenSend (u : Fin 1024) (line : Fin 32)
  /-- MESSAGE_DELIVER (R274): A token or message arrives at its destination queue and is appended, or is refused and its credit returned with a status. -/
  | messageDeliver (lines : List LineName)
  /-- CREDIT_ARRIVE (R270): A returned or granted credit reaches its credit line and is added, saturated with CRL_OVF, or discarded on an invalid line. -/
  | creditArrive (u : Fin 1024) (line : Fin 32)
  /-- NOP (R279): the NOP command completes one cycle after issue. -/
  | nop (u : Fin 1024) (q : Fin 128)
  /-- SEND (R279): the SEND command sends its payload as a MSG entry through DONE_LINE and completes when it is delivered or refused. -/
  | send (u : Fin 1024) (q : Fin 128)
  /-- MARK (R279): the MARK command adds VALUE to a 64-bit progress word as an atomic at its home. -/
  | mark (u : Fin 1024) (q : Fin 128)
  /-- GRANT (R271): the GRANT command moves COUNT entries of a queue to granted and sends COUNT credits to the named line. -/
  | grant (u : Fin 1024) (q : Fin 128)
  /-- FLAG (R280): the FLAG command writes VALUE to an address only after every write of every earlier command of its queue is visible. -/
  | flag (u : Fin 1024) (q : Fin 128)
  /-- RESIDE (R279): the RESIDE command records a tensor tag for a scratchpad range or a cluster memory window. -/
  | reside (u : Fin 1024) (q : Fin 128)
  /-- MMA (R172): the MMA command is validated, claims its slots and runs its passes through the matrix array into the accord entries. -/
  | mma (u : Fin 1024) (q : Fin 128) (cyc : Nat)
  /-- SLOT_TOKEN_CLAIM (R161): A waiting command takes the ownership tokens of all its named accumulator slots in one cycle once they are free. -/
  | slotTokenClaim (u : Fin 1024) (q : Fin 128) (cyc : Nat)
  /-- ACC_HAZARD_TIMEOUT (R165): A command that has waited for slot tokens beyond UNIT.WDOG.LIMIT faults its context. -/
  | accHazardTimeout (u : Fin 1024) (q : Fin 128) (cyc : Nat)
  /-- ARRAY_COMMAND_COMPLETE (R149): an MMA or CONV releases its slot tokens and produces its completion token after its last pass flushes. -/
  | arrayCommandComplete (u : Fin 1024) (q : Fin 128) (cyc : Nat)
  /-- ACC_CLEAR (R175): the ACC_CLEAR command sets all entries of the named slots to FINITE zero. -/
  | accClear (u : Fin 1024) (q : Fin 128) (cyc : Nat)
  /-- ACC_SPILL (R175): the ACC_SPILL command writes the named slots to a scratchpad image. -/
  | accSpill (u : Fin 1024) (q : Fin 128) (cyc : Nat)
  /-- ACC_FILL (R175): the ACC_FILL command loads the named slots from a scratchpad image. -/
  | accFill (u : Fin 1024) (q : Fin 128) (cyc : Nat)
  /-- ACC_MERGE (R221): the ACC_MERGE command adds a scratchpad image into the named slots. -/
  | accMerge (u : Fin 1024) (q : Fin 128) (cyc : Nat)
  /-- ACC_ENGINE_DONE (R175): the accumulator engine finishes a command's last named slot and takes up its next command. -/
  | accEngineDone (u : Fin 1024) (q : Fin 128) (cyc : Nat)
  /-- DRAIN (R198): the DRAIN command is checked and reads accord entries through scale, bias, activation and conversion into the scratchpad. -/
  | drain (u : Fin 1024) (q : Fin 128) (cyc : Nat)
  /-- DRAIN_COMPLETE (R194): A DRAIN's last output is written and its completion token follows one cycle later. -/
  | drainComplete (u : Fin 1024) (q : Fin 128) (cyc : Nat)
  /-- VEC_RUN (R215): the VEC_RUN command runs a lane program over a shape of elements in batches, with reductions. -/
  | vecRun (u : Fin 1024) (q : Fin 128)
  /-- SOFTMAX (R217): the SOFTMAX command computes row-wise soft maxima with fixed masked and special cases. -/
  | softmax (u : Fin 1024) (q : Fin 128)
  /-- CONV (R239): the CONV command is checked and runs one group of matrix passes per executed filter tap into the accord entries. -/
  | conv (u : Fin 1024) (q : Fin 128) (cyc : Nat)
  /-- POOL (R245): the POOL command computes maximum or average pooling on the vector engine. -/
  | pool (u : Fin 1024) (q : Fin 128)
  /-- REGROUP (R250): the REGROUP command copies elements between layouts in space-to-depth or depth-to-space order. -/
  | regroup (u : Fin 1024) (q : Fin 128)
  /-- VEC_COMMAND_BEGIN (R216): A vector-engine command begins after its predecessor's last write and is checked against its program and table as they then stand. -/
  | vecCommandBegin (u : Fin 1024) (q : Fin 128) (cyc : Nat)
  /-- VEC_COMMAND_COMPLETE (R216): A vector-engine command writes its last byte and produces its completion token. -/
  | vecCommandComplete (u : Fin 1024) (q : Fin 128) (cyc : Nat)
  /-- ARR_CNT_CLR (R179): writing ARR.CTL.CNT_CLR zeroes the array counters. -/
  | arrCntClr (a : Agent) (u : Fin 1024)
  /-- ACC_CNT_CLR (R181): writing ACC.CTL.CNT_CLR zeroes the accumulator hazard and error counters. -/
  | accCntClr (a : Agent) (u : Fin 1024)
  /-- VEC_CNT_CLR (R224): writing VEC.CTL.CNT_CLR zeroes the vector and drain counters. -/
  | vecCntClr (a : Agent) (u : Fin 1024)
  /-- CLU_CNT_CLR (R646): writing CLU.CTL.CNT_CLR zeroes the cluster TLB counters. -/
  | cluCntClr (a : Agent) (c : Fin 128)
  /-- DMA_CNT_CLR (R648): writing DMA.CTL.CNT_CLR zeroes the atomizer counters. -/
  | dmaCntClr (a : Agent) (c : Fin 128)
  /-- START (R286): the CTX_CMD START moves a FREE context to RUNNING, or is refused. -/
  | start (a : Agent) (ctx : CtxId)
  /-- PREEMPT (R292): the CTX_CMD PREEMPT sets REST_REQ on the context's units and moves it to PREEMPTING. -/
  | preempt (a : Agent) (ctx : CtxId)
  /-- RESUME (R299): the CTX_CMD RESUME restores the saved ranges and queue images and moves the context to RESUMING. -/
  | resume (a : Agent) (ctx : CtxId)
  /-- KILL (R289): the CTX_CMD KILL tears the context down with CAUSE ABORTED. -/
  | kill (a : Agent) (ctx : CtxId)
  /-- RELEASE (R286): the CTX_CMD RELEASE moves a DOWN context to FREE. -/
  | release (a : Agent) (ctx : CtxId)
  /-- CONTEXT_FAULT (R289): A fault of a context begins its teardown, stopping all its outgoing traffic, engines, queues, lines, TLB entries, granules, streams and key slots. -/
  | contextFault (faults : List CtxFault)
  /-- TEARDOWN_COMPLETE (R289): teardown completes, the context entry becomes DOWN with CAUSE and LOC, and CTX_DOWN and a record are raised. -/
  | teardownComplete (ctx : CtxId)
  /-- RESIDENCY_CHANGE (R287): the warden makes another context resident on a unit, clearing its scratchpad, accumulator memory and tags. -/
  | residencyChange (u : Fin 1024)
  /-- UNIT_AT_REST (R293): A unit whose queues of the context have stopped at one rest point reaches rest and sets AT_REST. -/
  | unitAtRest (u : Fin 1024)
  /-- PREEMPT_SAVE (R295): when every unit is at rest the wardens save queue images, credit lines, tags and listed live ranges. -/
  | preemptSave (ctx : CtxId) (u : Fin 1024)
  /-- PREEMPT_SAVE_DONE (R286): every unit has been saved and the context becomes PREEMPTED. -/
  | preemptSaveDone (ctx : CtxId)
  /-- PREEMPT_TIMEOUT (R298): A context not saved within PREEMPT_LIMIT is returned to RUNNING with RESULT 2. -/
  | preemptTimeout (ctx : CtxId)
  /-- RESUME_DONE (R299): every unit has been restored and the context returns to RUNNING. -/
  | resumeDone (ctx : CtxId)
  /-- DEADLINE_CHECK (R301): the lead region's monitor acts on a DEADLINE_CHECK anchor, projects the finish and writes a verdict to every unit. -/
  | deadlineCheck (r : Fin 32) (u : Fin 32) (q : Fin 128)
  /-- DLM_ENABLE (R301): setting RGN.DLM_CFG.EN starts the deadline monitor and clears the units' verdicts. -/
  | dlmEnable (a : Agent) (r : Fin 32) (cfg : Word)
  /-- DECISION_RESUME (R303): A queue stopped at a decision point resumes when a verdict for that point arrives, switching to its fallback on a switch verdict. -/
  | decisionResume (u : Fin 1024) (q : Fin 128)
  /-- TASK_PLACE (R306): the warden places the TASK entry at the head of a task queue on the best-scoring candidate queue and frees it. -/
  | taskPlace (u : Fin 1024) (q : Fin 128)
  /-- TLOAD (R307): A write to UNIT.TLOAD1 loads a command block into an empty queue, or is refused with TLOAD_REJECT. -/
  | tload (a : Agent) (u : Fin 1024) (value : Word)
  /-- DMA_COPY (R351): the DMA_COPY command is checked and holds an atomizer channel while it moves bytes in pieces. -/
  | dmaCopy (u : Fin 1024) (q : Fin 128)
  /-- PREFETCH (R358): the PREFETCH command loads translations and region cache lines for a buffer range, skipping not-present pages. -/
  | prefetch (u : Fin 1024) (q : Fin 128)
  /-- DMA_PIECE (R352): the atomizer translates, checks and writes the next piece of a DMA_COPY, parking or failing as the piece requires. -/
  | dmaPiece (c : Fin 128) (ch : Fin 16)
  /-- WALK_COMPLETE (R326): A page walk ends with a translation, a NOT_PRESENT fault record or a fatal cause that faults the context. -/
  | walkComplete (ws : List WalkReq)
  /-- FQ_LATCH_DRAIN (R342): A fault record held in a requester's latch enters the fault queue as space frees. -/
  | fqLatchDrain (die : Fin 5)
  /-- FQ_RESOLVE_RETRY (R343): A write of FQ_RESOLVE with FAIL 0 makes every parked request of the queue walk again. -/
  | fqResolveRetry (a : Agent) (die : Fin 5) (qid : BitVec 17)
  /-- FQ_RESOLVE_FAIL (R343): A write of FQ_RESOLVE with FAIL 1 faults the queue's context with TRANSLATION. -/
  | fqResolveFail (a : Agent) (die : Fin 5) (qid : BitVec 17)
  /-- GOT_SYNC (R334): A write of GOT_SYNC drops cached owner entries, writes back and invalidates cached lines and drops group maps. -/
  | gotSync (a : Agent) (value : Word)
  /-- GOT_SYNC_DONE (R676): the owner table sync completes, clearing GOT_BUSY and setting SYNC_DONE. -/
  | gotSyncDone
  /-- TLB_INV (R338): A write of TLB_INV starts the invalidation of matching translations in every TLB and walk cache. -/
  | tlbInv (a : Agent) (value : Word)
  /-- TLB_INV_DONE (R676): the invalidation completes once no matching entry remains and matching requests are performed, clearing TLB_BUSY. -/
  | tlbInvDone
  /-- RD_S (R373): A home accepts or refuses an RD_S read-shared request and snoops or supplies data. -/
  | rdS (r : CohReq) (rivals : List (CohKind × CohReq))
  /-- RD_X (R373): A home accepts or refuses an RD_X read-for-ownership request. -/
  | rdX (r : CohReq) (rivals : List (CohKind × CohReq))
  /-- UPG (R373): A home accepts or refuses an UPG upgrade request, serving it as RD_X if the presence bit was cleared. -/
  | upg (r : CohReq) (rivals : List (CohKind × CohReq))
  /-- OWN_NODATA (R373): A home grants ownership of a whole line without data after invalidating other copies. -/
  | ownNodata (r : CohReq) (rivals : List (CohKind × CohReq))
  /-- RD_CUR (R373): A home serves an uncached read with current data and keeps no copy. -/
  | rdCur (r : CohReq) (rivals : List (CohKind × CohReq))
  /-- WR_LINE (R373): A home performs an uncached or PCIe full-line write after invalidating copies. -/
  | wrLine (r : CohReq) (rivals : List (CohKind × CohReq))
  /-- WR_PART (R373): A home performs a masked write after recalling and merging any dirty copy. -/
  | wrPart (r : CohReq) (rivals : List (CohKind × CohReq))
  /-- ATOM (R382): A home executes an atomic in its atomic unit once the line is uncached and returns the old value. -/
  | atom (r : CohReq) (rivals : List (CohKind × CohReq))
  /-- WB (R375): A home accepts a write-back in any state, writes memory and answers WB_ACK. -/
  | wb (agent : Fin 64) (line : LineNo)
  /-- CLEAN_EVICT (R375): A home accepts a clean eviction notice, removes the sender and answers WB_ACK. -/
  | cleanEvict (agent : Fin 64) (line : LineNo)
  /-- SNP_S (R371): A cache answers a share-and-forward snoop by the row of its line state. -/
  | snpS (agent : Fin 64) (line : LineNo)
  /-- SNP_X (R371): A cache answers an invalidate-and-forward snoop by the row of its line state. -/
  | snpX (agent : Fin 64) (line : LineNo)
  /-- SNP_INV (R371): A cache answers an invalidate snoop without forwarding data. -/
  | snpInv (agent : Fin 64) (line : LineNo)
  /-- SNP_CUR (R371): A cache owning a line sends current data to the home and keeps its state. -/
  | snpCur (agent : Fin 64) (line : LineNo)
  /-- SNOOP_ANSWER (R379): A home receives a snoop answer, including WB_INFLIGHT, and completes or continues its transaction. -/
  | snoopAnswer (agent : Fin 64) (line : LineNo)
  /-- COH_DATA_GRANT (R374): A requester receives data and its grant and sends CMP_ACK. -/
  | cohDataGrant (agent : Fin 128) (line : LineNo)
  /-- CMP_ACK (R374): A home receives CMP_ACK, ends the transaction and serves any aged requests for the line. -/
  | cmpAck (agent : Fin 128) (line : LineNo)
  /-- WB_ACK (R367): A cache receives WB_ACK and its line in W moves to I, letting waiting local accesses proceed. -/
  | wbAck (agent : Fin 64) (line : LineNo)
  /-- NACK (R380): A requester receives a negative acknowledgement and schedules its retry. -/
  | nack (agent : Fin 128) (line : LineNo)
  /-- NACK_RETRY (R380): A requester's retry wait expires and it sends the request again, aged after the 16th NACK. -/
  | nackRetry (agent : Fin 128) (line : LineNo)
  /-- ARBITER_FORWARD (R385): in arbiter mode the package bus arbiter forwards the next waiting request for a line once the previous transaction has ended. -/
  | arbiterForward
  /-- COH_MODE_WRITE (R386): A write of COH.CTL.MODE starts a mode change, refusing new requests with MODE_SWITCH. -/
  | cohModeWrite (a : Agent) (mode : Bool)
  /-- MODE_SWITCH_DONE (R386): once every transaction has ended the new coherence mode applies and SWITCHING clears. -/
  | modeSwitchDone
  /-- DIR_INIT (R388): A write of COH.DIR_INIT with GO rebuilds one controller's directory in arbiter mode. -/
  | dirInit (a : Agent) (die : Fin 4) (home : Fin 4)
  /-- DIR_INIT_DONE (R388): the directory rebuild completes and DIR_BUSY clears. -/
  | dirInitDone (die : Fin 4) (home : Fin 4)
  /-- SERVER_CORE_ACCESS (R396): A server-core memory access carries SYS or the hart's bound context and faults precisely when it fails its checks. -/
  | serverCoreAccess (x : CoreAccess)
  /-- SCTXBIND_WRITE (R395): A write of the sctxbind CSR sets the context carried by later U, VS and VU accesses. -/
  | sctxbindWrite (core : Fin 64) (mode : HartMode) (value : Word)
  /-- CGRP_CLK (R392): A write of HOST.CGRP_CLK changes core-group clocks or sets CLK_REFUSED for a bad code. -/
  | cgrpClk (a : Agent) (value : Word)
  /-- CGRP_CLK_DONE (R427): A core-group clock change completes and CLK_BUSY clears. -/
  | cgrpClkDone
  /-- CORE_RUN (R542): A write of HOST.CORE_RUN releases server cores at CORE_VEC or holds them in reset. -/
  | coreRun (a : Agent) (value : Word)
  /-- INTERRUPT_MESSAGE (R399): A page's interrupt condition becoming or remaining true after a write sends one message as its route entry directs, or drops it with IRT_ERR. -/
  | interruptMessage (page : Page) (inst : Fin 1024)
  /-- PCIE_INBOUND_REQUEST (R416): an inbound PCIe request is bound to a context, translated in pieces and performed, rejected or parked. -/
  | pcieInboundRequest (r : PcieReq)
  /-- PCIE_PARK_TIMEOUT (R418): an inbound request parked beyond PARK_LIMIT is ended as with FAIL 1 and sets PARK. -/
  | pcieParkTimeout (port : Fin 4) (idx : Nat)
  /-- PCIE_WRITE_ACK (R421): an outbound write is performed when the port's data link layer acknowledges it. -/
  | pcieWriteAck (port : Fin 4)
  /-- PCIE_READ_COMPLETION (R421): an outbound read completion arrives, including the zero-length reads that release a waiting FLAG. -/
  | pcieReadCompletion (port : Fin 4) (data : List Byte)
  /-- PCIE_CPL_TIMEOUT (R422): an outbound read with no completion within CPL_TIMEOUT ends in error and its command completes HOST_LOST. -/
  | pcieCplTimeout (port : Fin 4)
  /-- PCIE_LINK_DOWN (R422): A link-down, hot or secondary bus reset, PERST, FLR or Bus Master Enable clear discards unacknowledged writes and completes affected commands HOST_LOST. -/
  | pcieLinkDown (port : Fin 4) (cause : PcieDown)
  /-- PCIE_RECOVERY (R422): A link recovery ending in L0 replays unacknowledged TLPs with nothing lost. -/
  | pcieRecovery (port : Fin 4)
  /-- PCIE_LINK_UP (R429): A port's link comes up, applying BAR2 size and setting LINK_UP. -/
  | pcieLinkUp (port : Fin 4) (rate : Fin 8) (width : Fin 8) (flit : Bool)
  /-- HL_RELEASE (R425): A write of HOST.HL_RELEASE returns a queue in STATE 5 to issuing at its HEAD. -/
  | hlRelease (a : Agent) (qid : BitVec 17)
  /-- SBR (R429): writing 1 to PCIE.CTL.SBR issues a secondary bus reset on a root port. -/
  | sbr (a : Agent) (port : Fin 4)
  /-- ECAM_ACCESS (R407): an access to a port's ECAM window becomes a configuration request, returning all ones when no device answers. -/
  | ecamAccess (x : EcamAccess)
  /-- MBOX_WRITE (R427): A BAR0 write to a mailbox register stores the data and sets MBOX. -/
  | mboxWrite (port : Fin 4) (idx : Fin 32) (value : Word)
  /-- HEATER_ADJUST (R432): every 10 µs the shell adjusts each ring heater to hold its resonance on its channel. -/
  | heaterAdjust (port : Fin 8) (codes : List (BitVec 16))
  /-- LOCK_LOSS (R432): A ring off channel by more than 8 GHz for 100 µs loses lock, sets RECOVERY and puts its port into recovery. -/
  | lockLoss (port : Fin 8) (ring : Fin 32)
  /-- TRAINING_DONE (R433): calibration, lock and word alignment complete and the port enters LINKED, full or degraded. -/
  | trainingDone (port : Fin 8) (lanesTx : BitVec 16) (lanesRx : BitVec 16) (codes : List (BitVec 16)) (margin : Word)
  /-- OPT_EN (R455): setting OPT.CTL.EN starts training, and clearing it sends the port DOWN. -/
  | optEn (a : Agent) (port : Fin 8) (en : Bool)
  /-- RETRAIN (R453): writing OPT.CTL.RETRAIN in DATA starts recovery. -/
  | retrain (a : Agent) (port : Fin 8)
  /-- LINK_RECOVERED (R453): A port back in DATA within 1 ms of entering recovery resumes replay from the peer's ACK. -/
  | linkRecovered (port : Fin 8) (ack : Option (BitVec 14))
  /-- RECOVERY_TIMEOUT (R454): A port in recovery for more than 1 ms enters DOWN, discarding unacknowledged frames. -/
  | recoveryTimeout (port : Fin 8)
  /-- IDLE (R438): an IDLE frame's link word delivers acknowledgements, NAKs and buffer credits. -/
  | idle (port : Fin 8) (f : FrameIn)
  /-- MSG (R449): A MSG frame is delivered to its destination queue, forwarded, or refused with a CREDIT frame. -/
  | msg (port : Fin 8) (f : FrameIn)
  /-- CREDIT (R449): A CREDIT frame adds credits to a line or returns a refused message's credit with its status. -/
  | credit (port : Fin 8) (f : FrameIn)
  /-- HELLO (R456): A HELLO frame updates peer identity and cadence candidates and moves the port between LINKED, HELD and DATA. -/
  | hello (port : Fin 8) (f : FrameIn)
  /-- CAD_REQ (R460): A CAD_REQ frame is answered with a CAD_RSP carrying stamps and the responder's offset. -/
  | cadReq (port : Fin 8) (f : FrameIn)
  /-- CAD_RSP (R460): A CAD_RSP frame lets a follower compute its offset from the source, or a joining package step its counter. -/
  | cadRsp (port : Fin 8) (f : FrameIn)
  /-- FRAME_SEND (R443): A ready frame is sent when the transmitter holds a buffer credit of its virtual channel. -/
  | frameSend (port : Fin 8) (vc : Fin 3) (sender : Option CtxId)
  /-- ACK_TIMER (R445): A receiver acknowledges when 64 frames or 100 ns have passed since its last acknowledgement. -/
  | ackTimer (port : Fin 8)
  /-- HELLO_TIMER (R459): every 100 µs a port in LINKED, DATA or HELD sends HELLO. -/
  | helloTimer (port : Fin 8)
  /-- CANDIDATE_EXPIRY (R459): A neighbour's advertised candidate not heard for 1 ms is dropped and the best candidate recomputed. -/
  | candidateExpiry (port : Fin 8)
  /-- CAD_REQ_TIMER (R460): every 1 ms a follower sends CAD_REQ on its upstream port. -/
  | cadReqTimer
  /-- SLOT_ARM (R465): A write of 1 to SLOTn_CFG.ARM arms a ring slot in WAIT_STEP or is refused with an ERR code. -/
  | slotArm (a : Agent) (die : Fin 4) (slot : Fin 8) (cfg : Word)
  /-- SLOT_DISARM (R469): A write of 0 to ARM disarms the slot the next time it is in WAIT_STEP. -/
  | slotDisarm (a : Agent) (die : Fin 4) (slot : Fin 8)
  /-- READY_POLL (R481): every 100 ns a waiting slot reads its transfer's ready word and starts round 0 when it equals the current KEY. -/
  | readyPoll (die : Fin 4) (slot : Fin 8)
  /-- CHUNK_RECEIVE (R483): A slot takes a chunk entry from its chunk queue, discards it as stale or checks it and applies the hop, owner or all-gather step. -/
  | chunkReceive (die : Fin 4) (slot : Fin 8)
  /-- CHUNK_SEND (R468): A slot sends a chunk entry as a MSG on SEND_LINE, setting BROKEN if it is refused. -/
  | chunkSend (die : Fin 4) (slot : Fin 8)
  /-- STEP_START (R488): A slot consumes a STEP_START anchor, takes its KEY and enters REDUCE at transfer 0. -/
  | stepStart (die : Fin 4) (slot : Fin 8)
  /-- WINDOW_OPEN (R488): A slot consumes a WINDOW_OPEN anchor and opens the named phase. -/
  | windowOpen (die : Fin 4) (slot : Fin 8)
  /-- WINDOW_CLOSE (R488): A slot consumes a WINDOW_CLOSE anchor, counting LATE or issuing REPEAT at the leader. -/
  | windowClose (die : Fin 4) (slot : Fin 8)
  /-- SEAL_REQ (R490): A seal slot sends, forwards or receives back a SEAL_REQ once its ring and followers have finished REDUCE. -/
  | sealReq (die : Fin 4) (slot : Fin 8)
  /-- VERDICT_SEAL (R491): A VERDICT SEAL makes the seal slot and its followers write seal records, send seal tokens, flip PAR and enter GATHER. -/
  | verdictSeal (die : Fin 4) (slot : Fin 8)
  /-- VERDICT_REPEAT (R492): A VERDICT REPEAT makes the seal slot and its followers abandon the attempt, write seal records and return to WAIT_STEP. -/
  | verdictRepeat (die : Fin 4) (slot : Fin 8)
  /-- SNAPSHOT_OPEN (R509): A slot acts on a SNAPSHOT_OPEN anchor by checking its table, zeroing markers and opening the snapshot, or skipping it. -/
  | snapshotOpen (die : Fin 4) (slot : Fin 8)
  /-- SNAPSHOT_CLOSE (R514): A SNAPSHOT_CLOSE anchor abandons the snapshot's incomplete images. -/
  | snapshotClose (die : Fin 4) (slot : Fin 8)
  /-- TRICKLE_SEND (R511): in a cycle with no chunk to send, a slot sends its next trickle entry to its buddies and writes it to image 0. -/
  | trickleSend (die : Fin 4) (slot : Fin 8)
  /-- SNAP_ENTRY_RECEIVE (R512): A trickle or fill entry in SNAP_LQ is written into image 1 or 2, or discarded as stale. -/
  | snapEntryReceive (die : Fin 4) (slot : Fin 8)
  /-- IMAGE_COMPLETE (R513): an image whose capture and state entries are performed gets its VALID marker, and the snapshot closes when all are complete. -/
  | imageComplete (die : Fin 4) (slot : Fin 8) (image : Fin 3)
  /-- DIGEST (R519): the SNAPn_OP DIGEST computes the SHA-512 digest of an image into SNAPn_DIG0-7. -/
  | digest (a : Agent) (die : Fin 4) (slot : Fin 8) (op : Word)
  /-- FILL_SEND (R520): the SNAPn_OP FILL_SEND sends an image and its marker on a credit line. -/
  | fillSend (a : Agent) (die : Fin 4) (slot : Fin 8) (op : Word)
  /-- FILL_RECV (R521): the SNAPn_OP FILL_RECV receives a fill from a package into an image and writes its marker. -/
  | fillRecv (a : Agent) (die : Fin 4) (slot : Fin 8) (op : Word)
  /-- RESTORE (R522): the SNAPn_OP RESTORE verifies image 0 against the digest and writes its parameters, state and PAR back. -/
  | restore (a : Agent) (die : Fin 4) (slot : Fin 8) (op : Word)
  /-- STORE (R524): the SNAPn_OP STORE copies an image and its marker to the storage buffer when licensed. -/
  | store (a : Agent) (die : Fin 4) (slot : Fin 8) (op : Word)
  /-- ABORT (R523): the SNAPn_OP ABORT ends the operation in progress with RESULT ABORTED. -/
  | abort (a : Agent) (die : Fin 4) (slot : Fin 8) (op : Word)
  /-- SNAP_OP_DONE (R518): A snapshot operation ends with its RESULT, clearing BUSY and setting OP_DONE. -/
  | snapOpDone (die : Fin 4) (slot : Fin 8)
  /-- SNAP_OP_TIMEOUT (R520): A fill that sees no credit or entry for SNAPn_LIMIT ends with RESULT TIMEOUT. -/
  | snapOpTimeout (die : Fin 4) (slot : Fin 8)
  /-- FIX_STORE_WRITE (R551): A write to a fixative store register is ignored, merged, refused by rate, acknowledged unchanged or queued for programming. -/
  | fixStoreWrite (a : Agent) (idx : Fin 4096) (value : Word)
  /-- FIX_PROGRAM_DONE (R553): A changing store write finishes programming, increments wear and may set WORN or WEAR_HIGH. -/
  | fixProgramDone (bank : Fin 16)
  /-- WARDEN_RUN (R607): A write of 1 to RGN.CTL.WARDEN_RUN releases the warden at FW_BASE if the verified image matches, or is ignored. -/
  | wardenRun (a : Agent) (r : Fin 32)
  /-- IMAGE_VERIFY (R606): A write of SEC.VERIFY_CMD with GO starts the verification of a warden or security engine image. -/
  | imageVerify (a : Agent) (cmd : Word)
  /-- VERIFY_DONE (R606): an image verification ends, writing VERIFY_STS and updating WARDEN_OK or the running security engine image. -/
  | verifyDone
  /-- SCRUB_READ (R583): the patrol scrub reads the next word of its stack, writing back a corrected word or raising SCRUB_UE. -/
  | scrubRead (stack : Fin 16)
  /-- ERR_REC_CLEAR (R586): writing 1 to ERR_REC0.VALID clears all four words of a page's error record window. -/
  | errRecClear (a : Agent) (page : Page) (inst : Fin 1024)
  /-- INJ_WRITE (R593): A write of a page's INJ register arms error injection on a detector, or is ignored as a whole. -/
  | injWrite (a : Agent) (page : Page) (inst : Fin 1024) (value : Word)
  /-- D2D_FLIT_RECEIVE (R584): A die-to-die flit is received, corrected or discarded with replay from the transmitter. -/
  | d2dFlitReceive (link : Fin 8) (far : Bool) (ctx : Option CtxId) (flipped : BitVec 72)
  /-- LINK_RETRAIN (R584): A die-to-die link whose flit has been replayed 8 times retrains and resumes replay. -/
  | linkRetrain (link : Fin 8)
  /-- LINK_DEAD (R585): A die-to-die link that fails three retrainings is declared dead, with D2D_DEAD and a FATAL record. -/
  | linkDead (link : Fin 8)
  /-- COLD (R663): the I3C COLD command starts a cold reset. -/
  | cold
  /-- WARM (R663): the I3C WARM command starts a package reset. -/
  | warm
  /-- OFF_PREP (R663): the I3C OFF_PREP command drains the package, completes store programming and switches off to SAFE_OFF. -/
  | offPrep
  /-- CAP_W (R656): A write of the management target's CAP_W sets the power cap that the power manager applies within 100 µs. -/
  | capW (value : BitVec 16) (moves : List ClkMove)
  /-- ENTDAA (R660): the I3C ENTDAA or SETDASA command assigns the management target's dynamic address. -/
  | entdaa (addr : BitVec 7)
  /-- GET_VERSION (R618): the SPDM responder answers GET_VERSION. -/
  | getVersion
  /-- GET_CAPABILITIES (R618): the SPDM responder answers GET_CAPABILITIES. -/
  | getCapabilities
  /-- NEGOTIATE_ALGORITHMS (R618): the SPDM responder answers NEGOTIATE_ALGORITHMS. -/
  | negotiateAlgorithms (ed25519 : Bool) (sha512 : Bool)
  /-- GET_DIGESTS (R618): the SPDM responder answers GET_DIGESTS. -/
  | getDigests
  /-- GET_CERTIFICATE (R619): the SPDM responder returns the slot 0 certificate chain, or an error while the identity is FAULT. -/
  | getCertificate (slot : BitVec 8) (ofs : BitVec 16) (len : BitVec 16)
  /-- CHALLENGE (R619): the SPDM responder signs a CHALLENGE response with the identity key, or answers with an error while the identity is FAULT. -/
  | challenge (slot : BitVec 8) (nonce : BitVec 256)
  /-- GET_MEASUREMENTS (R618): the SPDM responder returns measurement blocks 1 to 7, signed when requested. -/
  | getMeasurements (op : BitVec 8) (signed : Bool)
  /-- SPDM_UNSUPPORTED_REQUEST (R618): any SPDM request not listed is answered with ERROR UnsupportedRequest. -/
  | spdmUnsupportedRequest
  /-- BYPASS (R668): the test access port instruction BYPASS selects the bypass register. -/
  | bypass
  /-- IDCODE (R668): the test access port instruction IDCODE returns 0x1010_1C3D. -/
  | idcode
  /-- SAMPLE_PRELOAD (R668): the test access port instruction SAMPLE/PRELOAD samples or preloads the boundary scan register. -/
  | samplePreload (pins : List Bool) (preload : List Bool)
  /-- EXTEST (R668): the test access port instruction EXTEST drives pins from the boundary scan register. -/
  | extest
  /-- HIGHZ (R668): the test access port instruction HIGHZ places outputs in high impedance. -/
  | highz
  /-- CLAMP (R668): the test access port instruction CLAMP holds outputs from the boundary scan register with bypass selected. -/
  | clamp
  /-- HBM_HOT (R592): A stack temperature sample above HBM.SAFE.TMAX_C halves the stack's request rate and sets HOT, and a sample 5 °C cooler restores it. -/
  | hbmHot (stack : Fin 16) (tempC : BitVec 8)
  /-- IMAGE_OFFER (R544): while BOOT_FAIL is 1, the board management controller offers a new keeper image and the boot ROM fetches and verifies it. -/
  | imageOffer (image : Option (List Byte))
  /-- PCIE_CONFIG_REQUEST (R410): an outside host's configuration request to an endpoint port reads the identity fields or writes the configuration space, including Bus Master Enable and MSI-X enable. -/
  | pcieConfigRequest (port : Fin 4) (r : CfgReq)
  /-- PERST_HOLD_EXPIRY (R539): 100 ms after C1 ends, the hold on root ports' PCIEq_PERST_N lapses and each pin follows PCIE.CTL.PERST_OUT. -/
  | perstHoldExpiry
  /-- D2D_RETRAIN_DONE (R584): A die-to-die link that retrains successfully returns to service and resumes replay with nothing lost or reordered. -/
  | d2dRetrainDone (link : Fin 8)
  /-- KEEPER_WARDEN_ACCESS (R398): A keeper or warden core memory or register access carries SYS, and it raises a precise access-fault exception on an uncorrectable word or an illegal register-space access. -/
  | keeperWardenAccess (x : FwAccess)
  deriving DecidableEq, Repr

end Sys2Proof
end

