-- ==== Sys2Proof/Decode.lean ====
section
/-! DEFINITION. The commands that a word spells: the command table gives no row any bits, so there is none. -/

namespace Sys2Proof

/-- The command that a word of `nbits` bits spells by the table: every row's list of fields is empty, so no word spells
one. -/
def decodeTableWord (_nbits _w : Nat) : Option Instr := none

end Sys2Proof
end

