-- ==== Sys2Proof/Config.lean ====
section
/-! DEFINITION. What an implementation fixes and the spec leaves open: the free values, as constants without a body.
Nothing can evaluate them, so a claim about the model holds whatever they are. -/

namespace Sys2Proof

/-- A free byte, by the index of its use: a byte the spec calls undefined (R290, R356). -/
opaque Config.freeByte : Nat → Byte

/-- A free word, by the index of its use: a value the spec does not state. -/
opaque Config.freeWord : Nat → Word

/-- How far a compute die's replica of the cadence counter is from the host die's (R74), by die and time-base tick; the spec
bounds the difference and does not state it. -/
opaque Config.replicaOfs : Nat → Nat → Nat

/-- One less than the credits of an on-package path (R21, R24), by source, destination and traffic class: fixed by hardware,
and not stated. -/
opaque Config.pathDepth : Nat → Nat → Nat → Nat

/-- The directory set that a line maps to (R368, R369): 16 ways each; the spec does not give the mapping. -/
opaque Config.dirSet : Nat → Nat

/-- The set of a cache that a line maps to (R362), by cache and line; the spec does not give the mapping. Caches 0 to 63 are
those of the directory agents; core c's L1 instruction, L1 data and L2 caches are 64 + 4c, 65 + 4c and 66 + 4c. -/
opaque Config.cacheSet : Nat → Nat → Nat

/-- The public keys of the keeper boot ROM (R600): 0 VENDOR_TEST, 1 VENDOR_FW, 2 VENDOR_LIC, as little-endian numbers. -/
opaque Config.vendorKey : Nat → BitVec 256

/-- The 4,096 bits the entropy source gives (R610), by the index of the use. -/
opaque Config.entropy : Nat → BitVec 4096

/-- The SHA-512 digest of the keeper boot ROM (R616). -/
opaque Config.romDigest : BitVec 512

/-- The SHA-512 digest of the vendor attestation root (R618). -/
opaque Config.rootDigest : BitVec 512

end Sys2Proof
end

