-- ==== Sys2Proof/Machine/Sparse.lean ====
section
/-! DEFINITION. Sparse data by key: a list of key and value pairs in one canonical form (strictly rising keys, no entry
equal to what an unlisted key reads as). Package memory, the scratchpads, the accumulator memories and the register file
are all held so; the four operations stand here once. -/

namespace Sys2Proof.Machine

/-- What a key reads as: its entry, else the default `d`. -/
def Sparse.get {κ α : Type} [DecidableEq κ] (d : α) : List (κ × α) → κ → α
  | [], _ => d
  | (k, v) :: m, q => if q = k then v else Sparse.get d m q

/-- The entries with a key removed. -/
def Sparse.drop {κ α : Type} [DecidableEq κ] : List (κ × α) → κ → List (κ × α)
  | [], _ => []
  | (k, v) :: m, q => if q = k then Sparse.drop m q else (k, v) :: Sparse.drop m q

/-- An entry put in its place in the order that `ord` gives the keys. -/
def Sparse.insert {κ α : Type} (ord : κ → Nat) : List (κ × α) → κ → α → List (κ × α)
  | [], q, x => [(q, x)]
  | (k, v) :: m, q, x => if ord q < ord k then (q, x) :: (k, v) :: m else (k, v) :: Sparse.insert ord m q x

/-- A write: the key now reads `x`. Writing what an unlisted key reads as removes the entry. -/
def Sparse.set {κ α : Type} [DecidableEq κ] [DecidableEq α] (ord : κ → Nat) (d : α) (m : List (κ × α)) (q : κ) (x : α) :
    List (κ × α) :=
  if x = d then Sparse.drop m q else Sparse.insert ord (Sparse.drop m q) q x

/-- The canonical form: strictly rising keys, and no entry equal to what its key reads as unlisted. -/
def Sparse.wf {κ α : Type} [DecidableEq α] (ord : κ → Nat) (d : κ → α) : List (κ × α) → Bool
  | [] => true
  | (k, v) :: m => (v != d k) && m.all (fun e => ord k < ord e.1) && Sparse.wf ord d m

/-! ## Ordering a list of events of one cycle -/

/-- A value put before the first one it may stand before. -/
def insertBy {α : Type} (le : α → α → Bool) (x : α) : List α → List α
  | [] => [x]
  | y :: l => if le x y then x :: y :: l else y :: insertBy le x l

/-- A list in the order `le`; equal values keep their order. -/
def sortBy {α : Type} (le : α → α → Bool) : List α → List α
  | [] => []
  | x :: l => insertBy le x (sortBy le l)

end Sys2Proof.Machine
end

