-- ==== Sys2Proof/Machine/Regs.lean ====
section
/-! DEFINITION. The register map of 17_register_reference.md: every page (R625), every register of R626 and R649, its
offset, its fields with their access codes and reset values. The field tables are those of the chapters R649 names;
each register's docstring cites the rule that holds its table. A reset value written "loaded at reset" in the spec is
named in assumption log 4. -/

namespace Sys2Proof.Machine

/-- The registers of R626 (shared by every page) and of R649. -/
inductive RegName where
  | id | cap | ctl | sts | irqSts | irqEn | errRec | inj | safe | pkgAvailUnit | pkgAvailClu | pkgAvailMisc
  | pkgAvailCore | pkgAvailGen | pkgAvailRetire | pkgCtxTbl | pkgCtxCmd | pkgCtxCmdSts | pkgPreemptLimit | pkgPartMap
  | pkgPartCur | pkgRstCtl | pkgRstSts | pkgRstCause | pkgElogBase | pkgElogCfg | pkgElogHead | pkgElogTail
  | pkgElogLost | pkgVin | pkgPwr | pkgPwrPeak | pkgEnergy | pkgExc | pkgTemp | pkgThermSet | pkgBmcCap | pkgRail
  | timeNow | timeEpoch | timePpsTs | timeRate | timeAlignOfs | timeSet | timeThrCnt | timeThrNs | timeThrLast
  | timeAstrBase | timeAstrCfg | timeAstrTail | timeAstrHead | secVerifyHdr | secVerifyPay | secVerifyCmd
  | secVerifySts | secWardenOk | secLicSts | secMlogSel | secMlogInfo | secMlogDig | secRkeyCfg | secRkeyK
  | hostIrtBase | hostCgrpClk | hostHlRelease | hostCoreRun | hostCoreVec | hostMbox | cohPortPrio | cohDirInit
  | cohArbCnt | cohArbQocc | cohNackCnt | cohAgedCnt | cohRecallCnt | cohWbifCnt | cohAtomCnt | cohDirOcc
  | cohBcastCnt | xltFqBase | xltFqHead | xltFqTail | xltFqOvf | xltFqResolve | xltLastFatal | xltWalks | xltGotBase
  | xltGrpBase | xltGotSync | xltTlbInvVa | xltTlbInv | xltSyncSts | pciePortCfg | pcieLinkSts | pcieOutBase
  | pcieDtBase | pcieEpBar2 | pcieEpVa | pcieParkLimit | pcieCplTimeout | pcieLinkEvt | pcieInReject | fixWrites
  | fixHourCnt | fixLastWorn | fixStore | fixWear | dieSlotCfg | dieSlotRing | dieSlotTbl | dieSlotSeal
  | dieSlotSealmask | dieSlotSts | dieSlotKey | dieSlotCnt | dieSnapCfg | dieSnapPeers | dieSnapTbl | dieSnapSts
  | dieSnapOp | dieSnapOpsts | dieSnapLimit | dieSnapDig | hbmScrubCfg | hbmScrubSts | hbmCeCnt | optPeer | optLambda
  | optMargin | optAsym | optLinkCnt | optDropCnt | optFrameCnt | optRtt | optHcal | optFabCfg | optFabSts | optRt
  | rgnDvfs | rgnDvfsCur | rgnRstCtl | rgnRstSts | rgnFwBase | rgnDlmCfg | rgnDlmAddr | rgnDlmPrevT | rgnDlmPrevM
  | rgnDlmProj | rgnDlmLast | cluWin | cluTlbLookup | cluTlbMiss | dmaCh | dmaBytes | dmaPieces | dmaParkCnt
  | dmaMoveCyc | unitWdog | unitRes | unitVerdict | unitTload0 | unitTload1 | unitTag | unitQBase | unitQCfg
  | unitQPtr | unitCrl | arrPassCnt | arrRowCnt | arrFeedCyc | arrGapCyc | arrThrCyc | arrMaskedCnt | vecElemCnt
  | vecBusyCyc | vecStallCyc | vecSupprCnt | vecDrainEnt | vecDrainCyc | accOwn | accHazWaitCyc | accHazWaitMax
  | accCeCnt
  deriving DecidableEq, Repr

/-- One register of the machine: its page kind, the page's instance number (R625), its name, and its index in a
repeated group (0 where the register is not repeated). -/
structure Reg where
  page : Page
  inst : Nat
  name : RegName
  idx : Nat
  deriving DecidableEq, Repr

/-- The access codes of the field tables: RO, RW, W1C, WO, FW, RWP, and the store registers' own (R551). -/
inductive Acc where
  | ro | rw | w1c | wo | fw | rwp | st
  deriving DecidableEq, Repr

/-- One row of a field table: the bits, the access code and the reset value. -/
structure FieldSpec where
  fld : Fld
  acc : Acc
  reset : Nat
  deriving DecidableEq, Repr

/-- Where a register lies in its page: entry `k` of a repeated group lies at
`ofs + strideA * (k / cntB) + strideB * (k % cntB)`, for k below `cntA * cntB`. -/
structure Place where
  name : RegName
  ofs : Nat
  strideA : Nat
  cntA : Nat
  strideB : Nat
  cntB : Nat
  deriving DecidableEq, Repr

/-- The number of instances of a page (R625). -/
def Page.count : Page → Nat
  | .pkg => 1
  | .time => 1
  | .sec => 1
  | .host => 1
  | .coh => 5
  | .xlt => 5
  | .pcie => 4
  | .fix => 1
  | .die => 4
  | .hbm => 16
  | .opt => 8
  | .rgn => 32
  | .clu => 128
  | .dma => 128
  | .unit => 1024
  | .arr => 1024
  | .vec => 1024
  | .acc => 1024

/-- ID.TYPE of a page (R629). -/
def Page.typeCode : Page → Nat
  | .pkg => 0x01
  | .time => 0x02
  | .sec => 0x04
  | .host => 0x07
  | .coh => 0x05
  | .xlt => 0x06
  | .pcie => 0x08
  | .fix => 0x03
  | .die => 0x09
  | .hbm => 0x0A
  | .opt => 0x0B
  | .rgn => 0x0C
  | .clu => 0x0D
  | .dma => 0x12
  | .unit => 0x0E
  | .arr => 0x0F
  | .vec => 0x10
  | .acc => 0x11

/-- CAP.SAFE: the pages with SAFE fields (R592, R627). -/
def Page.hasSafe : Page → Bool
  | .pkg => true
  | .time => false
  | .sec => false
  | .host => false
  | .coh => false
  | .xlt => false
  | .pcie => false
  | .fix => true
  | .die => false
  | .hbm => true
  | .opt => true
  | .rgn => true
  | .clu => false
  | .dma => false
  | .unit => true
  | .arr => false
  | .vec => false
  | .acc => false

/-- CAP.INJ: the pages with detectors (R594, R627); the COH pages only on compute dies. -/
def Page.hasInj (p : Page) (inst : Nat) : Bool :=
  match p with
  | .pkg => false
  | .time => false
  | .sec => true
  | .host => true
  | .coh => inst != 4
  | .xlt => true
  | .pcie => true
  | .fix => true
  | .die => true
  | .hbm => true
  | .opt => false
  | .rgn => true
  | .clu => true
  | .dma => false
  | .unit => true
  | .arr => false
  | .vec => true
  | .acc => true

/-- The base of compute die `d`'s block in the register space, D of R625 less 0xF_0000_0000. -/
def dieBlock (d : Nat) : Nat := 0x100000 + d * 0x80000

/-- The offset of a page in the register space (R625; the space begins at 0xF_0000_0000). -/
def Page.base (p : Page) (i : Nat) : Nat :=
  match p with
  | .pkg => 0
  | .time => 0x1000
  | .sec => 0x2000
  | .host => 0x3000
  | .coh => if i == 4 then 0x4000 else dieBlock i + 0x1000
  | .xlt => if i == 4 then 0x5000 else dieBlock i + 0x2000
  | .pcie => 0x8000 + 0x1000 * i
  | .fix => 0x10000
  | .die => dieBlock i
  | .hbm => dieBlock (i / 4) + 0x4000 + 0x1000 * (i % 4)
  | .opt => dieBlock (i / 2) + 0x8000 + 0x1000 * (i % 2)
  | .rgn => dieBlock (i / 8) + 0x10000 + 0x1000 * (i % 8)
  | .clu => dieBlock (i / 32) + 0x20000 + 0x1000 * (i % 32)
  | .dma => dieBlock (i / 32) + 0x40000 + 0x1000 * (i % 32)
  | .unit => 0x400000 + 0x4000 * i
  | .arr => 0x401000 + 0x4000 * i
  | .vec => 0x402000 + 0x4000 * i
  | .acc => 0x403000 + 0x4000 * i

end Sys2Proof.Machine

namespace Sys2Proof.Machine.F

/-- PKG.cap.PART_CODE (R640). -/
abbrev pkgCap_PART_CODE : Fld := ⟨3, 0⟩
/-- PKG.cap.CLK_CAP_MHZ (R640). -/
abbrev pkgCap_CLK_CAP_MHZ : Fld := ⟨15, 4⟩
/-- PKG.cap.TDP_W (R640). -/
abbrev pkgCap_TDP_W : Fld := ⟨31, 16⟩
/-- PKG.cap.EXC_W (R640). -/
abbrev pkgCap_EXC_W : Fld := ⟨47, 32⟩
/-- PKG.cap.INJ_SAFE (R640). -/
abbrev pkgCap_INJ_SAFE : Fld := ⟨61, 60⟩
/-- PKG.ctl.READY (R569). -/
abbrev pkgCtl_READY : Fld := ⟨0, 0⟩
/-- PKG.sts.CAP_CLAMP (R640, R569, R597, R655). -/
abbrev pkgSts_CAP_CLAMP : Fld := ⟨0, 0⟩
/-- PKG.sts.MEM_DEGRADED (R640, R569, R597, R655). -/
abbrev pkgSts_MEM_DEGRADED : Fld := ⟨1, 1⟩
/-- PKG.sts.PWR_LIMIT (R640, R569, R597, R655). -/
abbrev pkgSts_PWR_LIMIT : Fld := ⟨2, 2⟩
/-- PKG.sts.MAP_VALID (R640, R569, R597, R655). -/
abbrev pkgSts_MAP_VALID : Fld := ⟨4, 4⟩
/-- PKG.sts.DIR_READY (R640, R569, R597, R655). -/
abbrev pkgSts_DIR_READY : Fld := ⟨5, 5⟩
/-- PKG.sts.BOOT_FAIL (R640, R569, R597, R655). -/
abbrev pkgSts_BOOT_FAIL : Fld := ⟨6, 6⟩
/-- PKG.sts.D2D_DEAD (R640, R569, R597, R655). -/
abbrev pkgSts_D2D_DEAD : Fld := ⟨7, 7⟩
/-- PKG.sts.VIN_LOW (R640, R569, R597, R655). -/
abbrev pkgSts_VIN_LOW : Fld := ⟨8, 8⟩
/-- PKG.irqSts.AVAIL_CHG (R640, R569, R597, R628). -/
abbrev pkgIrqSts_AVAIL_CHG : Fld := ⟨0, 0⟩
/-- PKG.irqSts.CTX_DOWN (R640, R569, R597, R628). -/
abbrev pkgIrqSts_CTX_DOWN : Fld := ⟨1, 1⟩
/-- PKG.irqSts.CTX_DONE (R640, R569, R597, R628). -/
abbrev pkgIrqSts_CTX_DONE : Fld := ⟨2, 2⟩
/-- PKG.irqSts.PWR_LIMIT (R640, R569, R597, R628). -/
abbrev pkgIrqSts_PWR_LIMIT : Fld := ⟨3, 3⟩
/-- PKG.irqSts.RST_DONE (R640, R569, R597, R628). -/
abbrev pkgIrqSts_RST_DONE : Fld := ⟨8, 8⟩
/-- PKG.irqSts.RST_IGNORED (R640, R569, R597, R628). -/
abbrev pkgIrqSts_RST_IGNORED : Fld := ⟨9, 9⟩
/-- PKG.irqSts.ELOG_ADD (R640, R569, R597, R628). -/
abbrev pkgIrqSts_ELOG_ADD : Fld := ⟨16, 16⟩
/-- PKG.irqSts.ELOG_LOST (R640, R569, R597, R628). -/
abbrev pkgIrqSts_ELOG_LOST : Fld := ⟨17, 17⟩
/-- PKG.irqSts.FATAL (R640, R569, R597, R628). -/
abbrev pkgIrqSts_FATAL : Fld := ⟨18, 18⟩
/-- PKG.irqSts.ERR_REC (R640, R569, R597, R628). -/
abbrev pkgIrqSts_ERR_REC : Fld := ⟨63, 63⟩
/-- PKG.safe.PWR_W (R592). -/
abbrev pkgSafe_PWR_W : Fld := ⟨15, 0⟩
/-- PKG.availUnit.UNIT (R58). -/
abbrev pkgAvailUnit_UNIT : Fld := ⟨63, 0⟩
/-- PKG.availClu.CLU (R58). -/
abbrev pkgAvailClu_CLU : Fld := ⟨63, 0⟩
/-- PKG.availMisc.REGION (R58). -/
abbrev pkgAvailMisc_REGION : Fld := ⟨31, 0⟩
/-- PKG.availMisc.STACK (R58). -/
abbrev pkgAvailMisc_STACK : Fld := ⟨47, 32⟩
/-- PKG.availMisc.OPT_PORT (R58). -/
abbrev pkgAvailMisc_OPT_PORT : Fld := ⟨55, 48⟩
/-- PKG.availMisc.PCIE (R58). -/
abbrev pkgAvailMisc_PCIE : Fld := ⟨59, 56⟩
/-- PKG.availCore.CORE (R58). -/
abbrev pkgAvailCore_CORE : Fld := ⟨63, 0⟩
/-- PKG.availGen.GEN (R58). -/
abbrev pkgAvailGen_GEN : Fld := ⟨31, 0⟩
/-- PKG.availGen.LAST_LOC (R58). -/
abbrev pkgAvailGen_LAST_LOC : Fld := ⟨47, 32⟩
/-- PKG.availGen.LAST_CAUSE (R58). -/
abbrev pkgAvailGen_LAST_CAUSE : Fld := ⟨51, 48⟩
/-- PKG.availRetire.LOC (R58). -/
abbrev pkgAvailRetire_LOC : Fld := ⟨15, 0⟩
/-- PKG.ctxTbl.ADDR (R313). -/
abbrev pkgCtxTbl_ADDR : Fld := ⟨51, 6⟩
/-- PKG.ctxCmd.CTX (R313). -/
abbrev pkgCtxCmd_CTX : Fld := ⟨11, 0⟩
/-- PKG.ctxCmd.CMD (R313). -/
abbrev pkgCtxCmd_CMD : Fld := ⟨14, 12⟩
/-- PKG.ctxCmdSts.CTX (R313). -/
abbrev pkgCtxCmdSts_CTX : Fld := ⟨11, 0⟩
/-- PKG.ctxCmdSts.CMD (R313). -/
abbrev pkgCtxCmdSts_CMD : Fld := ⟨14, 12⟩
/-- PKG.ctxCmdSts.BUSY (R313). -/
abbrev pkgCtxCmdSts_BUSY : Fld := ⟨15, 15⟩
/-- PKG.ctxCmdSts.RESULT (R313). -/
abbrev pkgCtxCmdSts_RESULT : Fld := ⟨17, 16⟩
/-- PKG.preemptLimit.LIMIT_US (R313). -/
abbrev pkgPreemptLimit_LIMIT_US : Fld := ⟨31, 0⟩
/-- PKG.partMap.PART0 (R32). -/
abbrev pkgPartMap_PART0 : Fld := ⟨4, 0⟩
/-- PKG.partMap.PART1 (R32). -/
abbrev pkgPartMap_PART1 : Fld := ⟨12, 8⟩
/-- PKG.partMap.PART2 (R32). -/
abbrev pkgPartMap_PART2 : Fld := ⟨20, 16⟩
/-- PKG.partMap.PART3 (R32). -/
abbrev pkgPartMap_PART3 : Fld := ⟨28, 24⟩
/-- PKG.partMap.PART4 (R32). -/
abbrev pkgPartMap_PART4 : Fld := ⟨36, 32⟩
/-- PKG.partMap.PART5 (R32). -/
abbrev pkgPartMap_PART5 : Fld := ⟨44, 40⟩
/-- PKG.partMap.PART6 (R32). -/
abbrev pkgPartMap_PART6 : Fld := ⟨52, 48⟩
/-- PKG.partMap.PART7 (R32). -/
abbrev pkgPartMap_PART7 : Fld := ⟨60, 56⟩
/-- PKG.partCur.PART0 (R32). -/
abbrev pkgPartCur_PART0 : Fld := ⟨4, 0⟩
/-- PKG.partCur.PART1 (R32). -/
abbrev pkgPartCur_PART1 : Fld := ⟨12, 8⟩
/-- PKG.partCur.PART2 (R32). -/
abbrev pkgPartCur_PART2 : Fld := ⟨20, 16⟩
/-- PKG.partCur.PART3 (R32). -/
abbrev pkgPartCur_PART3 : Fld := ⟨28, 24⟩
/-- PKG.partCur.PART4 (R32). -/
abbrev pkgPartCur_PART4 : Fld := ⟨36, 32⟩
/-- PKG.partCur.PART5 (R32). -/
abbrev pkgPartCur_PART5 : Fld := ⟨44, 40⟩
/-- PKG.partCur.PART6 (R32). -/
abbrev pkgPartCur_PART6 : Fld := ⟨52, 48⟩
/-- PKG.partCur.PART7 (R32). -/
abbrev pkgPartCur_PART7 : Fld := ⟨60, 56⟩
/-- PKG.rstCtl.KIND (R569). -/
abbrev pkgRstCtl_KIND : Fld := ⟨1, 0⟩
/-- PKG.rstCtl.REGION (R569). -/
abbrev pkgRstCtl_REGION : Fld := ⟨6, 2⟩
/-- PKG.rstSts.PART_BUSY (R569). -/
abbrev pkgRstSts_PART_BUSY : Fld := ⟨31, 0⟩
/-- PKG.rstCause.LAST (R569). -/
abbrev pkgRstCause_LAST : Fld := ⟨2, 0⟩
/-- PKG.rstCause.DRAIN_LOST (R569). -/
abbrev pkgRstCause_DRAIN_LOST : Fld := ⟨3, 3⟩
/-- PKG.rstCause.WARM_CNT (R569). -/
abbrev pkgRstCause_WARM_CNT : Fld := ⟨31, 16⟩
/-- PKG.elogBase.ADDR (R597). -/
abbrev pkgElogBase_ADDR : Fld := ⟨51, 5⟩
/-- PKG.elogCfg.EN (R597). -/
abbrev pkgElogCfg_EN : Fld := ⟨0, 0⟩
/-- PKG.elogCfg.SIZE (R597). -/
abbrev pkgElogCfg_SIZE : Fld := ⟨5, 1⟩
/-- PKG.elogCfg.MIN_SEV (R597). -/
abbrev pkgElogCfg_MIN_SEV : Fld := ⟨7, 6⟩
/-- PKG.elogHead.HEAD (R597). -/
abbrev pkgElogHead_HEAD : Fld := ⟨16, 0⟩
/-- PKG.elogTail.TAIL (R597). -/
abbrev pkgElogTail_TAIL : Fld := ⟨16, 0⟩
/-- PKG.elogLost.COUNT (R597). -/
abbrev pkgElogLost_COUNT : Fld := ⟨31, 0⟩
/-- PKG.vin.MV (R655). -/
abbrev pkgVin_MV : Fld := ⟨15, 0⟩
/-- PKG.vin.CURR (R655). -/
abbrev pkgVin_CURR : Fld := ⟨31, 16⟩
/-- PKG.pwr.NOW_W (R655). -/
abbrev pkgPwr_NOW_W : Fld := ⟨15, 0⟩
/-- PKG.pwr.AVG_W (R655). -/
abbrev pkgPwr_AVG_W : Fld := ⟨31, 16⟩
/-- PKG.pwrPeak.PEAK_W (R655). -/
abbrev pkgPwrPeak_PEAK_W : Fld := ⟨15, 0⟩
/-- PKG.pwrPeak.LONGEST_US (R655). -/
abbrev pkgPwrPeak_LONGEST_US : Fld := ⟨47, 32⟩
/-- PKG.energy.MJ (R655). -/
abbrev pkgEnergy_MJ : Fld := ⟨63, 0⟩
/-- PKG.exc.COUNT (R655). -/
abbrev pkgExc_COUNT : Fld := ⟨31, 0⟩
/-- PKG.exc.LIMITED (R655). -/
abbrev pkgExc_LIMITED : Fld := ⟨63, 32⟩
/-- PKG.temp.COMPUTE_C (R655). -/
abbrev pkgTemp_COMPUTE_C : Fld := ⟨7, 0⟩
/-- PKG.temp.HOST_C (R655). -/
abbrev pkgTemp_HOST_C : Fld := ⟨15, 8⟩
/-- PKG.temp.HBM_C (R655). -/
abbrev pkgTemp_HBM_C : Fld := ⟨23, 16⟩
/-- PKG.temp.OPT_C (R655). -/
abbrev pkgTemp_OPT_C : Fld := ⟨31, 24⟩
/-- PKG.thermSet.LIMIT_C (R655). -/
abbrev pkgThermSet_LIMIT_C : Fld := ⟨7, 0⟩
/-- PKG.bmcCap.CAP_W (R655). -/
abbrev pkgBmcCap_CAP_W : Fld := ⟨15, 0⟩
/-- PKG.rail.MV (R655). -/
abbrev pkgRail_MV : Fld := ⟨15, 0⟩
/-- PKG.rail.CURR (R655). -/
abbrev pkgRail_CURR : Fld := ⟨31, 16⟩
/-- PKG.rail.W (R655). -/
abbrev pkgRail_W : Fld := ⟨47, 32⟩
/-- TIME.ctl.SRC_CAND (R102). -/
abbrev timeCtl_SRC_CAND : Fld := ⟨0, 0⟩
/-- TIME.ctl.PPS_EN (R102). -/
abbrev timeCtl_PPS_EN : Fld := ⟨1, 1⟩
/-- TIME.sts.REF_LOCK (R102). -/
abbrev timeSts_REF_LOCK : Fld := ⟨0, 0⟩
/-- TIME.sts.HOLDOVER (R102). -/
abbrev timeSts_HOLDOVER : Fld := ⟨1, 1⟩
/-- TIME.sts.PPS_VALID (R102). -/
abbrev timeSts_PPS_VALID : Fld := ⟨2, 2⟩
/-- TIME.sts.IS_SOURCE (R102). -/
abbrev timeSts_IS_SOURCE : Fld := ⟨3, 3⟩
/-- TIME.sts.ALIGNED (R102). -/
abbrev timeSts_ALIGNED : Fld := ⟨4, 4⟩
/-- TIME.sts.THROTTLED (R102). -/
abbrev timeSts_THROTTLED : Fld := ⟨5, 5⟩
/-- TIME.sts.SET_PENDING (R102). -/
abbrev timeSts_SET_PENDING : Fld := ⟨6, 6⟩
/-- TIME.sts.SOURCE_PKG (R102). -/
abbrev timeSts_SOURCE_PKG : Fld := ⟨27, 16⟩
/-- TIME.irqSts.EVENTS (R102, R628). -/
abbrev timeIrqSts_EVENTS : Fld := ⟨6, 0⟩
/-- TIME.irqSts.ERR_REC (R102, R628). -/
abbrev timeIrqSts_ERR_REC : Fld := ⟨63, 63⟩
/-- TIME.now.NS_FRAC (R102). -/
abbrev timeNow_NS_FRAC : Fld := ⟨63, 0⟩
/-- TIME.epoch.WRAPS (R102). -/
abbrev timeEpoch_WRAPS : Fld := ⟨31, 0⟩
/-- TIME.ppsTs.STAMP (R102). -/
abbrev timePpsTs_STAMP : Fld := ⟨63, 0⟩
/-- TIME.rate.RATE (R102). -/
abbrev timeRate_RATE : Fld := ⟨31, 0⟩
/-- TIME.alignOfs.OFS_PS (R102). -/
abbrev timeAlignOfs_OFS_PS : Fld := ⟨31, 0⟩
/-- TIME.set.VALUE (R102). -/
abbrev timeSet_VALUE : Fld := ⟨63, 0⟩
/-- TIME.thrCnt.COUNT (R102). -/
abbrev timeThrCnt_COUNT : Fld := ⟨31, 0⟩
/-- TIME.thrNs.VALUE (R102). -/
abbrev timeThrNs_VALUE : Fld := ⟨63, 0⟩
/-- TIME.thrLast.VALUE (R102). -/
abbrev timeThrLast_VALUE : Fld := ⟨63, 0⟩
/-- TIME.astrBase.ADDR (R102). -/
abbrev timeAstrBase_ADDR : Fld := ⟨51, 5⟩
/-- TIME.astrCfg.CTX (R102). -/
abbrev timeAstrCfg_CTX : Fld := ⟨11, 0⟩
/-- TIME.astrCfg.SIZE (R102). -/
abbrev timeAstrCfg_SIZE : Fld := ⟨16, 12⟩
/-- TIME.astrCfg.ARM (R102). -/
abbrev timeAstrCfg_ARM : Fld := ⟨17, 17⟩
/-- TIME.astrTail.TAIL (R102). -/
abbrev timeAstrTail_TAIL : Fld := ⟨16, 0⟩
/-- TIME.astrHead.HEAD (R102). -/
abbrev timeAstrHead_HEAD : Fld := ⟨16, 0⟩
/-- TIME.astrHead.LATE_CNT (R102). -/
abbrev timeAstrHead_LATE_CNT : Fld := ⟨47, 32⟩
/-- SEC.sts.ID (R621). -/
abbrev secSts_ID : Fld := ⟨1, 0⟩
/-- SEC.sts.SE_RUN (R621). -/
abbrev secSts_SE_RUN : Fld := ⟨2, 2⟩
/-- SEC.irqSts.EVENTS (R621, R628). -/
abbrev secIrqSts_EVENTS : Fld := ⟨2, 0⟩
/-- SEC.irqSts.ERR_REC (R621, R628). -/
abbrev secIrqSts_ERR_REC : Fld := ⟨63, 63⟩
/-- SEC.verifyHdr.ADDR (R621). -/
abbrev secVerifyHdr_ADDR : Fld := ⟨51, 8⟩
/-- SEC.verifyPay.ADDR (R621). -/
abbrev secVerifyPay_ADDR : Fld := ⟨51, 8⟩
/-- SEC.verifyCmd.TYPE (R621). -/
abbrev secVerifyCmd_TYPE : Fld := ⟨1, 0⟩
/-- SEC.verifyCmd.GO (R621). -/
abbrev secVerifyCmd_GO : Fld := ⟨2, 2⟩
/-- SEC.verifySts.BUSY (R621). -/
abbrev secVerifySts_BUSY : Fld := ⟨0, 0⟩
/-- SEC.verifySts.RESULT (R621). -/
abbrev secVerifySts_RESULT : Fld := ⟨4, 1⟩
/-- SEC.verifySts.TYPE (R621). -/
abbrev secVerifySts_TYPE : Fld := ⟨6, 5⟩
/-- SEC.verifySts.VERSION_LO (R621). -/
abbrev secVerifySts_VERSION_LO : Fld := ⟨63, 32⟩
/-- SEC.wardenOk.VALID (R621). -/
abbrev secWardenOk_VALID : Fld := ⟨0, 0⟩
/-- SEC.wardenOk.LEN64K (R621). -/
abbrev secWardenOk_LEN64K : Fld := ⟨15, 1⟩
/-- SEC.wardenOk.ADDR (R621). -/
abbrev secWardenOk_ADDR : Fld := ⟨51, 16⟩
/-- SEC.licSts.RESULT0 (R621). -/
abbrev secLicSts_RESULT0 : Fld := ⟨3, 0⟩
/-- SEC.licSts.RESULT1 (R621). -/
abbrev secLicSts_RESULT1 : Fld := ⟨7, 4⟩
/-- SEC.licSts.RESULT2 (R621). -/
abbrev secLicSts_RESULT2 : Fld := ⟨11, 8⟩
/-- SEC.licSts.RESULT3 (R621). -/
abbrev secLicSts_RESULT3 : Fld := ⟨15, 12⟩
/-- SEC.licSts.RESULT4 (R621). -/
abbrev secLicSts_RESULT4 : Fld := ⟨19, 16⟩
/-- SEC.licSts.RESULT5 (R621). -/
abbrev secLicSts_RESULT5 : Fld := ⟨23, 20⟩
/-- SEC.licSts.RESULT6 (R621). -/
abbrev secLicSts_RESULT6 : Fld := ⟨27, 24⟩
/-- SEC.licSts.RESULT7 (R621). -/
abbrev secLicSts_RESULT7 : Fld := ⟨31, 28⟩
/-- SEC.licSts.TIER_EFF (R621). -/
abbrev secLicSts_TIER_EFF : Fld := ⟨33, 32⟩
/-- SEC.licSts.SIGN1_EFF (R621). -/
abbrev secLicSts_SIGN1_EFF : Fld := ⟨34, 34⟩
/-- SEC.licSts.STORE_EFF (R621). -/
abbrev secLicSts_STORE_EFF : Fld := ⟨35, 35⟩
/-- SEC.mlogSel.INDEX (R621). -/
abbrev secMlogSel_INDEX : Fld := ⟨2, 0⟩
/-- SEC.mlogInfo.INDEX (R621). -/
abbrev secMlogInfo_INDEX : Fld := ⟨2, 0⟩
/-- SEC.mlogInfo.TYPE (R621). -/
abbrev secMlogInfo_TYPE : Fld := ⟨15, 8⟩
/-- SEC.mlogInfo.COUNT (R621). -/
abbrev secMlogInfo_COUNT : Fld := ⟨63, 32⟩
/-- SEC.mlogDig.VALUE (R621). -/
abbrev secMlogDig_VALUE : Fld := ⟨63, 0⟩
/-- SEC.rkeyCfg.CTX (R134). -/
abbrev secRkeyCfg_CTX : Fld := ⟨11, 0⟩
/-- SEC.rkeyCfg.VALID (R134). -/
abbrev secRkeyCfg_VALID : Fld := ⟨12, 12⟩
/-- SEC.rkeyK.KEY (R134). -/
abbrev secRkeyK_KEY : Fld := ⟨63, 0⟩
/-- HOST.sts.CLK_BUSY (R427). -/
abbrev hostSts_CLK_BUSY : Fld := ⟨0, 0⟩
/-- HOST.irqSts.EVENTS (R427, R628). -/
abbrev hostIrqSts_EVENTS : Fld := ⟨3, 0⟩
/-- HOST.irqSts.ERR_REC (R427, R628). -/
abbrev hostIrqSts_ERR_REC : Fld := ⟨63, 63⟩
/-- HOST.irtBase.ADDR (R427). -/
abbrev hostIrtBase_ADDR : Fld := ⟨51, 23⟩
/-- HOST.cgrpClk.CODE0 (R427). -/
abbrev hostCgrpClk_CODE0 : Fld := ⟨7, 0⟩
/-- HOST.cgrpClk.CODE1 (R427). -/
abbrev hostCgrpClk_CODE1 : Fld := ⟨15, 8⟩
/-- HOST.cgrpClk.CODE2 (R427). -/
abbrev hostCgrpClk_CODE2 : Fld := ⟨23, 16⟩
/-- HOST.cgrpClk.CODE3 (R427). -/
abbrev hostCgrpClk_CODE3 : Fld := ⟨31, 24⟩
/-- HOST.cgrpClk.CODE4 (R427). -/
abbrev hostCgrpClk_CODE4 : Fld := ⟨39, 32⟩
/-- HOST.cgrpClk.CODE5 (R427). -/
abbrev hostCgrpClk_CODE5 : Fld := ⟨47, 40⟩
/-- HOST.cgrpClk.CODE6 (R427). -/
abbrev hostCgrpClk_CODE6 : Fld := ⟨55, 48⟩
/-- HOST.cgrpClk.CODE7 (R427). -/
abbrev hostCgrpClk_CODE7 : Fld := ⟨63, 56⟩
/-- HOST.hlRelease.QID (R427). -/
abbrev hostHlRelease_QID : Fld := ⟨16, 0⟩
/-- HOST.coreRun.RUN (R571). -/
abbrev hostCoreRun_RUN : Fld := ⟨63, 0⟩
/-- HOST.coreVec.VEC (R571). -/
abbrev hostCoreVec_VEC : Fld := ⟨51, 2⟩
/-- HOST.mbox.DATA (R427). -/
abbrev hostMbox_DATA : Fld := ⟨63, 0⟩
/-- COH.ctl.MODE (R391). -/
abbrev cohCtl_MODE : Fld := ⟨0, 0⟩
/-- COH.sts.MODE_CUR (R391). -/
abbrev cohSts_MODE_CUR : Fld := ⟨0, 0⟩
/-- COH.sts.SWITCHING (R391). -/
abbrev cohSts_SWITCHING : Fld := ⟨1, 1⟩
/-- COH.sts.DIR_BUSY (R391). -/
abbrev cohSts_DIR_BUSY : Fld := ⟨5, 2⟩
/-- COH.irqSts.EVENTS (R391, R628). -/
abbrev cohIrqSts_EVENTS : Fld := ⟨2, 0⟩
/-- COH.irqSts.ERR_REC (R391, R628). -/
abbrev cohIrqSts_ERR_REC : Fld := ⟨63, 63⟩
/-- COH.portPrio.RANK (R391). -/
abbrev cohPortPrio_RANK : Fld := ⟨43, 0⟩
/-- COH.dirInit.HOME (R391). -/
abbrev cohDirInit_HOME : Fld := ⟨1, 0⟩
/-- COH.dirInit.GO (R391). -/
abbrev cohDirInit_GO : Fld := ⟨2, 2⟩
/-- COH.arbCnt.COUNT (R391). -/
abbrev cohArbCnt_COUNT : Fld := ⟨63, 0⟩
/-- COH.arbQocc.COUNT (R391). -/
abbrev cohArbQocc_COUNT : Fld := ⟨12, 0⟩
/-- COH.nackCnt.COUNT (R391). -/
abbrev cohNackCnt_COUNT : Fld := ⟨63, 0⟩
/-- COH.agedCnt.COUNT (R391). -/
abbrev cohAgedCnt_COUNT : Fld := ⟨63, 0⟩
/-- COH.recallCnt.COUNT (R391). -/
abbrev cohRecallCnt_COUNT : Fld := ⟨63, 0⟩
/-- COH.wbifCnt.COUNT (R391). -/
abbrev cohWbifCnt_COUNT : Fld := ⟨63, 0⟩
/-- COH.atomCnt.COUNT (R391). -/
abbrev cohAtomCnt_COUNT : Fld := ⟨63, 0⟩
/-- COH.dirOcc.COUNT (R391). -/
abbrev cohDirOcc_COUNT : Fld := ⟨63, 0⟩
/-- COH.bcastCnt.COUNT (R391). -/
abbrev cohBcastCnt_COUNT : Fld := ⟨63, 0⟩
/-- XLT.sts.FQ_HELD (R360). -/
abbrev xltSts_FQ_HELD : Fld := ⟨0, 0⟩
/-- XLT.irqSts.EVENTS (R360, R628). -/
abbrev xltIrqSts_EVENTS : Fld := ⟨3, 0⟩
/-- XLT.irqSts.ERR_REC (R360, R628). -/
abbrev xltIrqSts_ERR_REC : Fld := ⟨63, 63⟩
/-- XLT.fqBase.ADDR (R360). -/
abbrev xltFqBase_ADDR : Fld := ⟨51, 17⟩
/-- XLT.fqHead.HEAD (R360). -/
abbrev xltFqHead_HEAD : Fld := ⟨15, 0⟩
/-- XLT.fqTail.TAIL (R360). -/
abbrev xltFqTail_TAIL : Fld := ⟨15, 0⟩
/-- XLT.fqOvf.COUNT (R360). -/
abbrev xltFqOvf_COUNT : Fld := ⟨31, 0⟩
/-- XLT.fqResolve.QID (R360). -/
abbrev xltFqResolve_QID : Fld := ⟨16, 0⟩
/-- XLT.fqResolve.FAIL (R360). -/
abbrev xltFqResolve_FAIL : Fld := ⟨17, 17⟩
/-- XLT.lastFatal.RECORD (R360). -/
abbrev xltLastFatal_RECORD : Fld := ⟨63, 0⟩
/-- XLT.walks.COUNT (R360). -/
abbrev xltWalks_COUNT : Fld := ⟨63, 0⟩
/-- XLT.gotBase.ADDR (R360). -/
abbrev xltGotBase_ADDR : Fld := ⟨51, 16⟩
/-- XLT.grpBase.ADDR (R360). -/
abbrev xltGrpBase_ADDR : Fld := ⟨51, 17⟩
/-- XLT.gotSync.FIRST (R360). -/
abbrev xltGotSync_FIRST : Fld := ⟨23, 0⟩
/-- XLT.gotSync.COUNT (R360). -/
abbrev xltGotSync_COUNT : Fld := ⟨47, 24⟩
/-- XLT.gotSync.ALL (R360). -/
abbrev xltGotSync_ALL : Fld := ⟨48, 48⟩
/-- XLT.tlbInvVa.VA (R360). -/
abbrev xltTlbInvVa_VA : Fld := ⟨47, 12⟩
/-- XLT.tlbInv.CTX (R360). -/
abbrev xltTlbInv_CTX : Fld := ⟨11, 0⟩
/-- XLT.tlbInv.ALL_CTX (R360). -/
abbrev xltTlbInv_ALL_CTX : Fld := ⟨12, 12⟩
/-- XLT.tlbInv.ALL_VA (R360). -/
abbrev xltTlbInv_ALL_VA : Fld := ⟨13, 13⟩
/-- XLT.tlbInv.PAGES (R360). -/
abbrev xltTlbInv_PAGES : Fld := ⟨63, 32⟩
/-- XLT.syncSts.GOT_BUSY (R360). -/
abbrev xltSyncSts_GOT_BUSY : Fld := ⟨0, 0⟩
/-- XLT.syncSts.TLB_BUSY (R360). -/
abbrev xltSyncSts_TLB_BUSY : Fld := ⟨1, 1⟩
/-- PCIE.ctl.DT_EN (R429). -/
abbrev pcieCtl_DT_EN : Fld := ⟨0, 0⟩
/-- PCIE.ctl.RO_EN (R429). -/
abbrev pcieCtl_RO_EN : Fld := ⟨1, 1⟩
/-- PCIE.ctl.SBR (R429). -/
abbrev pcieCtl_SBR : Fld := ⟨2, 2⟩
/-- PCIE.ctl.PERST_OUT (R429). -/
abbrev pcieCtl_PERST_OUT : Fld := ⟨3, 3⟩
/-- PCIE.irqSts.EVENTS (R429, R628). -/
abbrev pcieIrqSts_EVENTS : Fld := ⟨4, 0⟩
/-- PCIE.irqSts.ERR_REC (R429, R628). -/
abbrev pcieIrqSts_ERR_REC : Fld := ⟨63, 63⟩
/-- PCIE.portCfg.MODE (R429). -/
abbrev pciePortCfg_MODE : Fld := ⟨0, 0⟩
/-- PCIE.portCfg.MAX_RATE (R429). -/
abbrev pciePortCfg_MAX_RATE : Fld := ⟨3, 1⟩
/-- PCIE.portCfg.MAX_WIDTH (R429). -/
abbrev pciePortCfg_MAX_WIDTH : Fld := ⟨6, 4⟩
/-- PCIE.linkSts.STATE (R429). -/
abbrev pcieLinkSts_STATE : Fld := ⟨1, 0⟩
/-- PCIE.linkSts.RATE (R429). -/
abbrev pcieLinkSts_RATE : Fld := ⟨4, 2⟩
/-- PCIE.linkSts.WIDTH (R429). -/
abbrev pcieLinkSts_WIDTH : Fld := ⟨7, 5⟩
/-- PCIE.linkSts.MODE_CUR (R429). -/
abbrev pcieLinkSts_MODE_CUR : Fld := ⟨8, 8⟩
/-- PCIE.linkSts.FLIT (R429). -/
abbrev pcieLinkSts_FLIT : Fld := ⟨9, 9⟩
/-- PCIE.linkSts.BME (R429). -/
abbrev pcieLinkSts_BME : Fld := ⟨10, 10⟩
/-- PCIE.outBase.ADDR (R429). -/
abbrev pcieOutBase_ADDR : Fld := ⟨63, 12⟩
/-- PCIE.dtBase.ADDR (R429). -/
abbrev pcieDtBase_ADDR : Fld := ⟨51, 19⟩
/-- PCIE.epBar2.SIZE_LOG2 (R429). -/
abbrev pcieEpBar2_SIZE_LOG2 : Fld := ⟨5, 0⟩
/-- PCIE.epVa.VA (R429). -/
abbrev pcieEpVa_VA : Fld := ⟨47, 30⟩
/-- PCIE.parkLimit.US (R429). -/
abbrev pcieParkLimit_US : Fld := ⟨31, 0⟩
/-- PCIE.cplTimeout.US (R429). -/
abbrev pcieCplTimeout_US : Fld := ⟨31, 0⟩
/-- PCIE.linkEvt.RECOVERY (R429). -/
abbrev pcieLinkEvt_RECOVERY : Fld := ⟨31, 0⟩
/-- PCIE.linkEvt.DOWN (R429). -/
abbrev pcieLinkEvt_DOWN : Fld := ⟨63, 32⟩
/-- PCIE.inReject.UR (R429). -/
abbrev pcieInReject_UR : Fld := ⟨31, 0⟩
/-- PCIE.inReject.CA (R429). -/
abbrev pcieInReject_CA : Fld := ⟨63, 32⟩
/-- FIX.ctl.WARN (R573). -/
abbrev fixCtl_WARN : Fld := ⟨17, 0⟩
/-- FIX.sts.BANK_BUSY (R573). -/
abbrev fixSts_BANK_BUSY : Fld := ⟨15, 0⟩
/-- FIX.irqSts.EVENTS (R573, R628). -/
abbrev fixIrqSts_EVENTS : Fld := ⟨3, 0⟩
/-- FIX.irqSts.ERR_REC (R573, R628). -/
abbrev fixIrqSts_ERR_REC : Fld := ⟨63, 63⟩
/-- FIX.safe.GAP_S (R573). -/
abbrev fixSafe_GAP_S : Fld := ⟨15, 0⟩
/-- FIX.safe.HOURLY (R573). -/
abbrev fixSafe_HOURLY : Fld := ⟨31, 16⟩
/-- FIX.writes.COUNT (R573). -/
abbrev fixWrites_COUNT : Fld := ⟨63, 0⟩
/-- FIX.hourCnt.COUNT (R573). -/
abbrev fixHourCnt_COUNT : Fld := ⟨15, 0⟩
/-- FIX.lastWorn.INDEX (R573). -/
abbrev fixLastWorn_INDEX : Fld := ⟨11, 0⟩
/-- FIX.store.DATA (R549, R550). -/
abbrev fixStore_DATA : Fld := ⟨63, 0⟩
/-- FIX.wear.COUNT (R549, R573). -/
abbrev fixWear_COUNT : Fld := ⟨17, 0⟩
/-- FIX.wear.WORN (R549, R573). -/
abbrev fixWear_WORN : Fld := ⟨18, 18⟩
/-- DIE.irqSts.EVENTS (R498, R532, R628). -/
abbrev dieIrqSts_EVENTS : Fld := ⟨2, 0⟩
/-- DIE.irqSts.SNAP_EVENTS (R498, R532, R628). -/
abbrev dieIrqSts_SNAP_EVENTS : Fld := ⟨4, 3⟩
/-- DIE.irqSts.ERR_REC (R498, R532, R628). -/
abbrev dieIrqSts_ERR_REC : Fld := ⟨63, 63⟩
/-- DIE.slotCfg.CTX (R498). -/
abbrev dieSlotCfg_CTX : Fld := ⟨11, 0⟩
/-- DIE.slotCfg.HOP_UNIT (R498). -/
abbrev dieSlotCfg_HOP_UNIT : Fld := ⟨21, 12⟩
/-- DIE.slotCfg.CHUNK_LQ (R498). -/
abbrev dieSlotCfg_CHUNK_LQ : Fld := ⟨28, 22⟩
/-- DIE.slotCfg.CTRL_LQ (R498). -/
abbrev dieSlotCfg_CTRL_LQ : Fld := ⟨35, 29⟩
/-- DIE.slotCfg.SEND_LINE (R498). -/
abbrev dieSlotCfg_SEND_LINE : Fld := ⟨40, 36⟩
/-- DIE.slotCfg.SEAL_SLOT (R498). -/
abbrev dieSlotCfg_SEAL_SLOT : Fld := ⟨45, 41⟩
/-- DIE.slotCfg.SEAL_SELF (R498). -/
abbrev dieSlotCfg_SEAL_SELF : Fld := ⟨46, 46⟩
/-- DIE.slotCfg.ARM (R498). -/
abbrev dieSlotCfg_ARM : Fld := ⟨47, 47⟩
/-- DIE.slotRing.P (R498). -/
abbrev dieSlotRing_P : Fld := ⟨12, 0⟩
/-- DIE.slotRing.POS (R498). -/
abbrev dieSlotRing_POS : Fld := ⟨24, 13⟩
/-- DIE.slotRing.UP_PKG (R498). -/
abbrev dieSlotRing_UP_PKG : Fld := ⟨36, 25⟩
/-- DIE.slotTbl.VA (R498). -/
abbrev dieSlotTbl_VA : Fld := ⟨47, 6⟩
/-- DIE.slotSeal.ADDR (R498). -/
abbrev dieSlotSeal_ADDR : Fld := ⟨47, 5⟩
/-- DIE.slotSealmask.LINES (R498). -/
abbrev dieSlotSealmask_LINES : Fld := ⟨31, 0⟩
/-- DIE.slotSts.STATE (R498). -/
abbrev dieSlotSts_STATE : Fld := ⟨2, 0⟩
/-- DIE.slotSts.PAR (R498). -/
abbrev dieSlotSts_PAR : Fld := ⟨3, 3⟩
/-- DIE.slotSts.VERDICT (R498). -/
abbrev dieSlotSts_VERDICT : Fld := ⟨5, 4⟩
/-- DIE.slotSts.BROKEN (R498). -/
abbrev dieSlotSts_BROKEN : Fld := ⟨6, 6⟩
/-- DIE.slotSts.ERR (R498). -/
abbrev dieSlotSts_ERR : Fld := ⟨11, 8⟩
/-- DIE.slotSts.CUR (R498). -/
abbrev dieSlotSts_CUR : Fld := ⟨27, 12⟩
/-- DIE.slotKey.KEY (R498). -/
abbrev dieSlotKey_KEY : Fld := ⟨47, 0⟩
/-- DIE.slotCnt.ESC (R498). -/
abbrev dieSlotCnt_ESC : Fld := ⟨23, 0⟩
/-- DIE.slotCnt.STALE (R498). -/
abbrev dieSlotCnt_STALE : Fld := ⟨47, 24⟩
/-- DIE.slotCnt.LATE (R498). -/
abbrev dieSlotCnt_LATE : Fld := ⟨63, 48⟩
/-- DIE.snapCfg.EN (R532). -/
abbrev dieSnapCfg_EN : Fld := ⟨0, 0⟩
/-- DIE.snapCfg.D1 (R532). -/
abbrev dieSnapCfg_D1 : Fld := ⟨12, 1⟩
/-- DIE.snapCfg.D2 (R532). -/
abbrev dieSnapCfg_D2 : Fld := ⟨24, 13⟩
/-- DIE.snapCfg.SNAP_LQ (R532). -/
abbrev dieSnapCfg_SNAP_LQ : Fld := ⟨31, 25⟩
/-- DIE.snapCfg.LINE1 (R532). -/
abbrev dieSnapCfg_LINE1 : Fld := ⟨36, 32⟩
/-- DIE.snapCfg.LINE2 (R532). -/
abbrev dieSnapCfg_LINE2 : Fld := ⟨41, 37⟩
/-- DIE.snapCfg.KEEP_HALF (R532). -/
abbrev dieSnapCfg_KEEP_HALF : Fld := ⟨42, 42⟩
/-- DIE.snapCfg.KEEP_VALID (R532). -/
abbrev dieSnapCfg_KEEP_VALID : Fld := ⟨43, 43⟩
/-- DIE.snapPeers.OWN1_PKG (R532). -/
abbrev dieSnapPeers_OWN1_PKG : Fld := ⟨11, 0⟩
/-- DIE.snapPeers.OWN2_PKG (R532). -/
abbrev dieSnapPeers_OWN2_PKG : Fld := ⟨23, 12⟩
/-- DIE.snapTbl.VA (R532). -/
abbrev dieSnapTbl_VA : Fld := ⟨47, 6⟩
/-- DIE.snapSts.LAST_N (R532). -/
abbrev dieSnapSts_LAST_N : Fld := ⟨31, 0⟩
/-- DIE.snapSts.OPEN (R532). -/
abbrev dieSnapSts_OPEN : Fld := ⟨32, 32⟩
/-- DIE.snapSts.DONE (R532). -/
abbrev dieSnapSts_DONE : Fld := ⟨35, 33⟩
/-- DIE.snapSts.ABANDON (R532). -/
abbrev dieSnapSts_ABANDON : Fld := ⟨43, 36⟩
/-- DIE.snapSts.SKIPPED (R532). -/
abbrev dieSnapSts_SKIPPED : Fld := ⟨51, 44⟩
/-- DIE.snapSts.STALE (R532). -/
abbrev dieSnapSts_STALE : Fld := ⟨63, 52⟩
/-- DIE.snapOp.OP (R532). -/
abbrev dieSnapOp_OP : Fld := ⟨2, 0⟩
/-- DIE.snapOp.HALF (R532). -/
abbrev dieSnapOp_HALF : Fld := ⟨3, 3⟩
/-- DIE.snapOp.IMAGE (R532). -/
abbrev dieSnapOp_IMAGE : Fld := ⟨5, 4⟩
/-- DIE.snapOp.LINE (R532). -/
abbrev dieSnapOp_LINE : Fld := ⟨10, 6⟩
/-- DIE.snapOp.SRC_PKG (R532). -/
abbrev dieSnapOp_SRC_PKG : Fld := ⟨22, 11⟩
/-- DIE.snapOp.N (R532). -/
abbrev dieSnapOp_N : Fld := ⟨63, 32⟩
/-- DIE.snapOpsts.BUSY (R532). -/
abbrev dieSnapOpsts_BUSY : Fld := ⟨0, 0⟩
/-- DIE.snapOpsts.RESULT (R532). -/
abbrev dieSnapOpsts_RESULT : Fld := ⟨4, 1⟩
/-- DIE.snapOpsts.OP (R532). -/
abbrev dieSnapOpsts_OP : Fld := ⟨7, 5⟩
/-- DIE.snapOpsts.PROGRESS (R532). -/
abbrev dieSnapOpsts_PROGRESS : Fld := ⟨63, 32⟩
/-- DIE.snapLimit.US (R532). -/
abbrev dieSnapLimit_US : Fld := ⟨31, 0⟩
/-- DIE.snapDig.DIGEST (R532). -/
abbrev dieSnapDig_DIGEST : Fld := ⟨63, 0⟩
/-- HBM.sts.TEMP_C (R645). -/
abbrev hbmSts_TEMP_C : Fld := ⟨7, 0⟩
/-- HBM.sts.HOT (R645). -/
abbrev hbmSts_HOT : Fld := ⟨8, 8⟩
/-- HBM.irqSts.HOT (R645, R628). -/
abbrev hbmIrqSts_HOT : Fld := ⟨0, 0⟩
/-- HBM.irqSts.ERR_REC (R645, R628). -/
abbrev hbmIrqSts_ERR_REC : Fld := ⟨63, 63⟩
/-- HBM.safe.TMAX_C (R592). -/
abbrev hbmSafe_TMAX_C : Fld := ⟨7, 0⟩
/-- HBM.scrubCfg.EN (R599). -/
abbrev hbmScrubCfg_EN : Fld := ⟨0, 0⟩
/-- HBM.scrubCfg.HOURS (R599). -/
abbrev hbmScrubCfg_HOURS : Fld := ⟨8, 1⟩
/-- HBM.scrubSts.PASSES (R599). -/
abbrev hbmScrubSts_PASSES : Fld := ⟨31, 0⟩
/-- HBM.scrubSts.CORRECTED (R599). -/
abbrev hbmScrubSts_CORRECTED : Fld := ⟨63, 32⟩
/-- HBM.ceCnt.COUNT (R645). -/
abbrev hbmCeCnt_COUNT : Fld := ⟨31, 0⟩
/-- OPT.ctl.EN (R463). -/
abbrev optCtl_EN : Fld := ⟨0, 0⟩
/-- OPT.ctl.RETRAIN (R463). -/
abbrev optCtl_RETRAIN : Fld := ⟨1, 1⟩
/-- OPT.ctl.DEGRADE_OK (R463). -/
abbrev optCtl_DEGRADE_OK : Fld := ⟨2, 2⟩
/-- OPT.sts.STATE (R463). -/
abbrev optSts_STATE : Fld := ⟨2, 0⟩
/-- OPT.sts.REASON (R463). -/
abbrev optSts_REASON : Fld := ⟨6, 3⟩
/-- OPT.sts.DEGRADED (R463). -/
abbrev optSts_DEGRADED : Fld := ⟨7, 7⟩
/-- OPT.sts.UPSTREAM (R463). -/
abbrev optSts_UPSTREAM : Fld := ⟨8, 8⟩
/-- OPT.irqSts.EVENTS (R463, R628). -/
abbrev optIrqSts_EVENTS : Fld := ⟨6, 0⟩
/-- OPT.irqSts.ERR_REC (R463, R628). -/
abbrev optIrqSts_ERR_REC : Fld := ⟨63, 63⟩
/-- OPT.safe.HEATER_MAX (R592). -/
abbrev optSafe_HEATER_MAX : Fld := ⟨15, 0⟩
/-- OPT.peer.PKG_ID (R463). -/
abbrev optPeer_PKG_ID : Fld := ⟨11, 0⟩
/-- OPT.peer.PORT (R463). -/
abbrev optPeer_PORT : Fld := ⟨14, 12⟩
/-- OPT.peer.VALID (R463). -/
abbrev optPeer_VALID : Fld := ⟨15, 15⟩
/-- OPT.lambda.TX (R463). -/
abbrev optLambda_TX : Fld := ⟨15, 0⟩
/-- OPT.lambda.RX (R463). -/
abbrev optLambda_RX : Fld := ⟨31, 16⟩
/-- OPT.margin.CODES (R463). -/
abbrev optMargin_CODES : Fld := ⟨63, 0⟩
/-- OPT.asym.PS (R463). -/
abbrev optAsym_PS : Fld := ⟨31, 0⟩
/-- OPT.linkCnt.CE (R463). -/
abbrev optLinkCnt_CE : Fld := ⟨31, 0⟩
/-- OPT.linkCnt.REPLAY (R463). -/
abbrev optLinkCnt_REPLAY : Fld := ⟨63, 32⟩
/-- OPT.dropCnt.ROUTE_REFUSED (R463). -/
abbrev optDropCnt_ROUTE_REFUSED : Fld := ⟨31, 0⟩
/-- OPT.dropCnt.CRED_LOST (R463). -/
abbrev optDropCnt_CRED_LOST : Fld := ⟨63, 32⟩
/-- OPT.frameCnt.TX (R463). -/
abbrev optFrameCnt_TX : Fld := ⟨31, 0⟩
/-- OPT.frameCnt.RX (R463). -/
abbrev optFrameCnt_RX : Fld := ⟨63, 32⟩
/-- OPT.rtt.PS (R463). -/
abbrev optRtt_PS : Fld := ⟨31, 0⟩
/-- OPT.hcal.CODE0 (R463). -/
abbrev optHcal_CODE0 : Fld := ⟨15, 0⟩
/-- OPT.hcal.CODE1 (R463). -/
abbrev optHcal_CODE1 : Fld := ⟨31, 16⟩
/-- OPT.hcal.CODE2 (R463). -/
abbrev optHcal_CODE2 : Fld := ⟨47, 32⟩
/-- OPT.hcal.CODE3 (R463). -/
abbrev optHcal_CODE3 : Fld := ⟨63, 48⟩
/-- OPT.fabCfg.PKG_ID (R463). -/
abbrev optFabCfg_PKG_ID : Fld := ⟨11, 0⟩
/-- OPT.fabCfg.FABRIC_ID (R463). -/
abbrev optFabCfg_FABRIC_ID : Fld := ⟨27, 12⟩
/-- OPT.fabCfg.SIZE (R463). -/
abbrev optFabCfg_SIZE : Fld := ⟨40, 28⟩
/-- OPT.fabCfg.TRANSIT_W (R463). -/
abbrev optFabCfg_TRANSIT_W : Fld := ⟨44, 41⟩
/-- OPT.fabSts.LIC_MAX (R463). -/
abbrev optFabSts_LIC_MAX : Fld := ⟨12, 0⟩
/-- OPT.fabSts.UNLICENSED (R463). -/
abbrev optFabSts_UNLICENSED : Fld := ⟨13, 13⟩
/-- OPT.rt.ENTRIES (R463). -/
abbrev optRt_ENTRIES : Fld := ⟨63, 0⟩
/-- RGN.ctl.WARDEN_RUN (R570). -/
abbrev rgnCtl_WARDEN_RUN : Fld := ⟨0, 0⟩
/-- RGN.sts.DVFS_REFUSED (R642). -/
abbrev rgnSts_DVFS_REFUSED : Fld := ⟨0, 0⟩
/-- RGN.irqSts.DVFS_REFUSED (R642, R570, R628). -/
abbrev rgnIrqSts_DVFS_REFUSED : Fld := ⟨0, 0⟩
/-- RGN.irqSts.DVFS_DONE (R642, R570, R628). -/
abbrev rgnIrqSts_DVFS_DONE : Fld := ⟨1, 1⟩
/-- RGN.irqSts.RST_DONE (R642, R570, R628). -/
abbrev rgnIrqSts_RST_DONE : Fld := ⟨8, 8⟩
/-- RGN.irqSts.RST_IGNORED (R642, R570, R628). -/
abbrev rgnIrqSts_RST_IGNORED : Fld := ⟨9, 9⟩
/-- RGN.irqSts.ERR_REC (R642, R570, R628). -/
abbrev rgnIrqSts_ERR_REC : Fld := ⟨63, 63⟩
/-- RGN.safe.CLK_MHZ (R592). -/
abbrev rgnSafe_CLK_MHZ : Fld := ⟨11, 0⟩
/-- RGN.safe.VMAX_MV (R592). -/
abbrev rgnSafe_VMAX_MV : Fld := ⟨21, 12⟩
/-- RGN.dvfs.CLK_CODE (R642). -/
abbrev rgnDvfs_CLK_CODE : Fld := ⟨5, 0⟩
/-- RGN.dvfs.CLK_EN (R642). -/
abbrev rgnDvfs_CLK_EN : Fld := ⟨6, 6⟩
/-- RGN.dvfs.VOLT_CODE (R642). -/
abbrev rgnDvfs_VOLT_CODE : Fld := ⟨12, 7⟩
/-- RGN.dvfs.VOLT_EN (R642). -/
abbrev rgnDvfs_VOLT_EN : Fld := ⟨13, 13⟩
/-- RGN.dvfsCur.CLK_CODE (R642). -/
abbrev rgnDvfsCur_CLK_CODE : Fld := ⟨5, 0⟩
/-- RGN.dvfsCur.VOLT_CODE (R642). -/
abbrev rgnDvfsCur_VOLT_CODE : Fld := ⟨12, 7⟩
/-- RGN.dvfsCur.BUSY (R642). -/
abbrev rgnDvfsCur_BUSY : Fld := ⟨16, 16⟩
/-- RGN.dvfsCur.CLAMPED (R642). -/
abbrev rgnDvfsCur_CLAMPED : Fld := ⟨17, 17⟩
/-- RGN.rstCtl.KIND (R570). -/
abbrev rgnRstCtl_KIND : Fld := ⟨0, 0⟩
/-- RGN.rstCtl.CLUSTER (R570). -/
abbrev rgnRstCtl_CLUSTER : Fld := ⟨2, 1⟩
/-- RGN.rstCtl.UNIT (R570). -/
abbrev rgnRstCtl_UNIT : Fld := ⟨5, 3⟩
/-- RGN.rstSts.UNIT_BUSY (R570). -/
abbrev rgnRstSts_UNIT_BUSY : Fld := ⟨31, 0⟩
/-- RGN.rstSts.CLU_BUSY (R570). -/
abbrev rgnRstSts_CLU_BUSY : Fld := ⟨35, 32⟩
/-- RGN.fwBase.ADDR (R570). -/
abbrev rgnFwBase_ADDR : Fld := ⟨51, 16⟩
/-- RGN.dlmCfg.CTX (R314). -/
abbrev rgnDlmCfg_CTX : Fld := ⟨11, 0⟩
/-- RGN.dlmCfg.EN (R314). -/
abbrev rgnDlmCfg_EN : Fld := ⟨12, 12⟩
/-- RGN.dlmCfg.FALLBACK (R314). -/
abbrev rgnDlmCfg_FALLBACK : Fld := ⟨13, 13⟩
/-- RGN.dlmAddr.ADDR (R314). -/
abbrev rgnDlmAddr_ADDR : Fld := ⟨51, 3⟩
/-- RGN.dlmPrevT.T_PREV (R314). -/
abbrev rgnDlmPrevT_T_PREV : Fld := ⟨63, 0⟩
/-- RGN.dlmPrevM.M_PREV (R314). -/
abbrev rgnDlmPrevM_M_PREV : Fld := ⟨63, 0⟩
/-- RGN.dlmProj.F (R314). -/
abbrev rgnDlmProj_F : Fld := ⟨63, 0⟩
/-- RGN.dlmLast.CHECKS (R314). -/
abbrev rgnDlmLast_CHECKS : Fld := ⟨31, 0⟩
/-- RGN.dlmLast.DECIDE_ID (R314). -/
abbrev rgnDlmLast_DECIDE_ID : Fld := ⟨47, 32⟩
/-- RGN.dlmLast.SWITCH (R314). -/
abbrev rgnDlmLast_SWITCH : Fld := ⟨48, 48⟩
/-- CLU.ctl.CNT_CLR (R646). -/
abbrev cluCtl_CNT_CLR : Fld := ⟨0, 0⟩
/-- CLU.irqSts.ERR_REC (R628). -/
abbrev cluIrqSts_ERR_REC : Fld := ⟨63, 63⟩
/-- CLU.win.CTX (R336). -/
abbrev cluWin_CTX : Fld := ⟨11, 0⟩
/-- CLU.win.VALID (R336). -/
abbrev cluWin_VALID : Fld := ⟨12, 12⟩
/-- CLU.tlbLookup.COUNT (R646). -/
abbrev cluTlbLookup_COUNT : Fld := ⟨63, 0⟩
/-- CLU.tlbMiss.COUNT (R646). -/
abbrev cluTlbMiss_COUNT : Fld := ⟨63, 0⟩
/-- DMA.ctl.CNT_CLR (R648). -/
abbrev dmaCtl_CNT_CLR : Fld := ⟨0, 0⟩
/-- DMA.sts.HELD (R648). -/
abbrev dmaSts_HELD : Fld := ⟨15, 0⟩
/-- DMA.sts.PARKED (R648). -/
abbrev dmaSts_PARKED : Fld := ⟨31, 16⟩
/-- DMA.irqSts.ERR_REC (R628). -/
abbrev dmaIrqSts_ERR_REC : Fld := ⟨63, 63⟩
/-- DMA.ch.HELD (R648). -/
abbrev dmaCh_HELD : Fld := ⟨0, 0⟩
/-- DMA.ch.PARKED (R648). -/
abbrev dmaCh_PARKED : Fld := ⟨1, 1⟩
/-- DMA.ch.PREFETCH (R648). -/
abbrev dmaCh_PREFETCH : Fld := ⟨2, 2⟩
/-- DMA.ch.CTX (R648). -/
abbrev dmaCh_CTX : Fld := ⟨14, 3⟩
/-- DMA.ch.QID (R648). -/
abbrev dmaCh_QID : Fld := ⟨31, 15⟩
/-- DMA.ch.SEQ (R648). -/
abbrev dmaCh_SEQ : Fld := ⟨51, 32⟩
/-- DMA.bytes.COUNT (R648). -/
abbrev dmaBytes_COUNT : Fld := ⟨63, 0⟩
/-- DMA.pieces.COUNT (R648). -/
abbrev dmaPieces_COUNT : Fld := ⟨63, 0⟩
/-- DMA.parkCnt.COUNT (R648). -/
abbrev dmaParkCnt_COUNT : Fld := ⟨63, 0⟩
/-- DMA.moveCyc.COUNT (R648). -/
abbrev dmaMoveCyc_COUNT : Fld := ⟨63, 0⟩
/-- UNIT.irqSts.TAIL_REJECT (R311, R628). -/
abbrev unitIrqSts_TAIL_REJECT : Fld := ⟨0, 0⟩
/-- UNIT.irqSts.AT_REST (R311, R628). -/
abbrev unitIrqSts_AT_REST : Fld := ⟨1, 1⟩
/-- UNIT.irqSts.TLOAD_REJECT (R311, R628). -/
abbrev unitIrqSts_TLOAD_REJECT : Fld := ⟨2, 2⟩
/-- UNIT.irqSts.CRL_OVF (R311, R628). -/
abbrev unitIrqSts_CRL_OVF : Fld := ⟨3, 3⟩
/-- UNIT.irqSts.ERR_REC (R311, R628). -/
abbrev unitIrqSts_ERR_REC : Fld := ⟨63, 63⟩
/-- UNIT.safe.WDOG_MAX (R592). -/
abbrev unitSafe_WDOG_MAX : Fld := ⟨31, 0⟩
/-- UNIT.safe.WAIT_MAX (R592). -/
abbrev unitSafe_WAIT_MAX : Fld := ⟨63, 32⟩
/-- UNIT.wdog.LIMIT (R311). -/
abbrev unitWdog_LIMIT : Fld := ⟨31, 0⟩
/-- UNIT.wdog.WAIT_LIMIT (R311). -/
abbrev unitWdog_WAIT_LIMIT : Fld := ⟨63, 32⟩
/-- UNIT.res.CTX (R311). -/
abbrev unitRes_CTX : Fld := ⟨11, 0⟩
/-- UNIT.res.RESIDENT (R311). -/
abbrev unitRes_RESIDENT : Fld := ⟨12, 12⟩
/-- UNIT.res.LAST_REST (R311). -/
abbrev unitRes_LAST_REST : Fld := ⟨31, 16⟩
/-- UNIT.res.REST_REQ (R311). -/
abbrev unitRes_REST_REQ : Fld := ⟨32, 32⟩
/-- UNIT.res.IS_AT_REST (R311). -/
abbrev unitRes_IS_AT_REST : Fld := ⟨33, 33⟩
/-- UNIT.verdict.ID (R311). -/
abbrev unitVerdict_ID : Fld := ⟨15, 0⟩
/-- UNIT.verdict.VALID (R311). -/
abbrev unitVerdict_VALID : Fld := ⟨16, 16⟩
/-- UNIT.verdict.SWITCH (R311). -/
abbrev unitVerdict_SWITCH : Fld := ⟨17, 17⟩
/-- UNIT.verdict.SW_VALID (R311). -/
abbrev unitVerdict_SW_VALID : Fld := ⟨18, 18⟩
/-- UNIT.verdict.SW_ID (R311). -/
abbrev unitVerdict_SW_ID : Fld := ⟨34, 19⟩
/-- UNIT.tload0.RING (R311). -/
abbrev unitTload0_RING : Fld := ⟨47, 6⟩
/-- UNIT.tload0.LQ (R311). -/
abbrev unitTload0_LQ : Fld := ⟨54, 48⟩
/-- UNIT.tload0.SIZE (R311). -/
abbrev unitTload0_SIZE : Fld := ⟨58, 55⟩
/-- UNIT.tload1.NEXT_SEQ (R311). -/
abbrev unitTload1_NEXT_SEQ : Fld := ⟨19, 0⟩
/-- UNIT.tload1.COUNT (R311). -/
abbrev unitTload1_COUNT : Fld := ⟨35, 20⟩
/-- UNIT.tag.TAG (R311). -/
abbrev unitTag_TAG : Fld := ⟨31, 0⟩
/-- UNIT.tag.OFS64 (R311). -/
abbrev unitTag_OFS64 : Fld := ⟨46, 32⟩
/-- UNIT.tag.LEN64 (R311). -/
abbrev unitTag_LEN64 : Fld := ⟨61, 47⟩
/-- UNIT.qBase.RING (R311). -/
abbrev unitQBase_RING : Fld := ⟨47, 6⟩
/-- UNIT.qCfg.CTX (R311). -/
abbrev unitQCfg_CTX : Fld := ⟨11, 0⟩
/-- UNIT.qCfg.KIND (R311). -/
abbrev unitQCfg_KIND : Fld := ⟨13, 12⟩
/-- UNIT.qCfg.SIZE (R311). -/
abbrev unitQCfg_SIZE : Fld := ⟨17, 14⟩
/-- UNIT.qCfg.EN (R311). -/
abbrev unitQCfg_EN : Fld := ⟨18, 18⟩
/-- UNIT.qCfg.NEXT_SEQ (R311). -/
abbrev unitQCfg_NEXT_SEQ : Fld := ⟨38, 19⟩
/-- UNIT.qCfg.FB_VALID (R311). -/
abbrev unitQCfg_FB_VALID : Fld := ⟨39, 39⟩
/-- UNIT.qCfg.FB_IDX (R311). -/
abbrev unitQCfg_FB_IDX : Fld := ⟨55, 40⟩
/-- UNIT.qPtr.HEAD (R311). -/
abbrev unitQPtr_HEAD : Fld := ⟨15, 0⟩
/-- UNIT.qPtr.TAIL (R311). -/
abbrev unitQPtr_TAIL : Fld := ⟨31, 16⟩
/-- UNIT.qPtr.DONE_SEQ (R311). -/
abbrev unitQPtr_DONE_SEQ : Fld := ⟨51, 32⟩
/-- UNIT.qPtr.STATE (R311). -/
abbrev unitQPtr_STATE : Fld := ⟨55, 52⟩
/-- UNIT.qPtr.LAST_STATUS (R311). -/
abbrev unitQPtr_LAST_STATUS : Fld := ⟨63, 56⟩
/-- UNIT.crl.DEST_PKG (R311). -/
abbrev unitCrl_DEST_PKG : Fld := ⟨11, 0⟩
/-- UNIT.crl.DEST_Q (R311). -/
abbrev unitCrl_DEST_Q : Fld := ⟨28, 12⟩
/-- UNIT.crl.CTX (R311). -/
abbrev unitCrl_CTX : Fld := ⟨40, 29⟩
/-- UNIT.crl.CREDITS (R311). -/
abbrev unitCrl_CREDITS : Fld := ⟨57, 41⟩
/-- UNIT.crl.VALID (R311). -/
abbrev unitCrl_VALID : Fld := ⟨58, 58⟩
/-- ARR.ctl.FRONT_EN (R179). -/
abbrev arrCtl_FRONT_EN : Fld := ⟨0, 0⟩
/-- ARR.ctl.CNT_CLR (R179). -/
abbrev arrCtl_CNT_CLR : Fld := ⟨1, 1⟩
/-- ARR.sts.FEEDING (R179). -/
abbrev arrSts_FEEDING : Fld := ⟨0, 0⟩
/-- ARR.sts.FLUSHING (R179). -/
abbrev arrSts_FLUSHING : Fld := ⟨1, 1⟩
/-- ARR.sts.MMA_WAIT (R179). -/
abbrev arrSts_MMA_WAIT : Fld := ⟨2, 2⟩
/-- ARR.irqSts.ERR_REC (R628). -/
abbrev arrIrqSts_ERR_REC : Fld := ⟨63, 63⟩
/-- ARR.passCnt.COUNT (R179). -/
abbrev arrPassCnt_COUNT : Fld := ⟨63, 0⟩
/-- ARR.rowCnt.COUNT (R179). -/
abbrev arrRowCnt_COUNT : Fld := ⟨63, 0⟩
/-- ARR.feedCyc.COUNT (R179). -/
abbrev arrFeedCyc_COUNT : Fld := ⟨63, 0⟩
/-- ARR.gapCyc.COUNT (R179). -/
abbrev arrGapCyc_COUNT : Fld := ⟨63, 0⟩
/-- ARR.thrCyc.COUNT (R179). -/
abbrev arrThrCyc_COUNT : Fld := ⟨63, 0⟩
/-- ARR.maskedCnt.COUNT (R179). -/
abbrev arrMaskedCnt_COUNT : Fld := ⟨63, 0⟩
/-- VEC.ctl.CNT_CLR (R224). -/
abbrev vecCtl_CNT_CLR : Fld := ⟨0, 0⟩
/-- VEC.sts.VEC_BUSY (R224). -/
abbrev vecSts_VEC_BUSY : Fld := ⟨0, 0⟩
/-- VEC.sts.DRAIN_BUSY (R224). -/
abbrev vecSts_DRAIN_BUSY : Fld := ⟨1, 1⟩
/-- VEC.irqSts.ERR_REC (R628). -/
abbrev vecIrqSts_ERR_REC : Fld := ⟨63, 63⟩
/-- VEC.elemCnt.COUNT (R224). -/
abbrev vecElemCnt_COUNT : Fld := ⟨63, 0⟩
/-- VEC.busyCyc.COUNT (R224). -/
abbrev vecBusyCyc_COUNT : Fld := ⟨63, 0⟩
/-- VEC.stallCyc.COUNT (R224). -/
abbrev vecStallCyc_COUNT : Fld := ⟨63, 0⟩
/-- VEC.supprCnt.COUNT (R224). -/
abbrev vecSupprCnt_COUNT : Fld := ⟨63, 0⟩
/-- VEC.drainEnt.COUNT (R224). -/
abbrev vecDrainEnt_COUNT : Fld := ⟨63, 0⟩
/-- VEC.drainCyc.COUNT (R224). -/
abbrev vecDrainCyc_COUNT : Fld := ⟨63, 0⟩
/-- ACC.ctl.CNT_CLR (R181). -/
abbrev accCtl_CNT_CLR : Fld := ⟨0, 0⟩
/-- ACC.irqSts.ERR_REC (R628). -/
abbrev accIrqSts_ERR_REC : Fld := ⟨63, 63⟩
/-- ACC.own.OWNED (R181). -/
abbrev accOwn_OWNED : Fld := ⟨7, 0⟩
/-- ACC.own.WANTED (R181). -/
abbrev accOwn_WANTED : Fld := ⟨15, 8⟩
/-- ACC.hazWaitCyc.COUNT (R181). -/
abbrev accHazWaitCyc_COUNT : Fld := ⟨63, 0⟩
/-- ACC.hazWaitMax.CYCLES (R181). -/
abbrev accHazWaitMax_CYCLES : Fld := ⟨31, 0⟩
/-- ACC.ceCnt.COUNT (R181). -/
abbrev accCeCnt_COUNT : Fld := ⟨31, 0⟩
/-- id.TYPE (R627). -/
abbrev id_TYPE : Fld := ⟨7, 0⟩
/-- id.VERSION (R627). -/
abbrev id_VERSION : Fld := ⟨15, 8⟩
/-- id.DIE (R627). -/
abbrev id_DIE : Fld := ⟨19, 16⟩
/-- id.INSTANCE (R627). -/
abbrev id_INSTANCE : Fld := ⟨31, 20⟩
/-- capHead.INJ (R627). -/
abbrev capHead_INJ : Fld := ⟨60, 60⟩
/-- capHead.SAFE (R627). -/
abbrev capHead_SAFE : Fld := ⟨61, 61⟩
/-- errQ0.VALID (R586). -/
abbrev errQ0_VALID : Fld := ⟨0, 0⟩
/-- errQ0.OVERFLOW (R586). -/
abbrev errQ0_OVERFLOW : Fld := ⟨1, 1⟩
/-- errQ0.SEV (R586). -/
abbrev errQ0_SEV : Fld := ⟨3, 2⟩
/-- errQ0.CODE (R586). -/
abbrev errQ0_CODE : Fld := ⟨15, 4⟩
/-- errQ0.LOC (R586). -/
abbrev errQ0_LOC : Fld := ⟨31, 16⟩
/-- errQ0.CTX (R586). -/
abbrev errQ0_CTX : Fld := ⟨43, 32⟩
/-- errQ0.CTX_VALID (R586). -/
abbrev errQ0_CTX_VALID : Fld := ⟨44, 44⟩
/-- errQ0.SYS (R586). -/
abbrev errQ0_SYS : Fld := ⟨45, 45⟩
/-- errQ0.COUNT (R586). -/
abbrev errQ0_COUNT : Fld := ⟨63, 48⟩
/-- errQ1.ADDR (R586). -/
abbrev errQ1_ADDR : Fld := ⟨51, 0⟩
/-- errQ1.ADDR_KIND (R586). -/
abbrev errQ1_ADDR_KIND : Fld := ⟨55, 52⟩
/-- errQ2.SYNDROME (R586). -/
abbrev errQ2_SYNDROME : Fld := ⟨7, 0⟩
/-- errQ2.REQ_LOC (R586). -/
abbrev errQ2_REQ_LOC : Fld := ⟨31, 16⟩
/-- errQ2.INJ (R586). -/
abbrev errQ2_INJ : Fld := ⟨63, 63⟩
/-- inj.ARM (R593). -/
abbrev inj_ARM : Fld := ⟨0, 0⟩
/-- inj.MODE (R593). -/
abbrev inj_MODE : Fld := ⟨2, 1⟩
/-- inj.BIT_A (R593). -/
abbrev inj_BIT_A : Fld := ⟨9, 3⟩
/-- inj.BIT_B (R593). -/
abbrev inj_BIT_B : Fld := ⟨16, 10⟩
/-- inj.TWO (R593). -/
abbrev inj_TWO : Fld := ⟨17, 17⟩
/-- inj.DET (R593). -/
abbrev inj_DET : Fld := ⟨25, 18⟩
/-- inj.CTX (R593). -/
abbrev inj_CTX : Fld := ⟨37, 26⟩
/-- inj.CTX_EN (R593). -/
abbrev inj_CTX_EN : Fld := ⟨38, 38⟩

end Sys2Proof.Machine.F

namespace Sys2Proof.Machine.R

/-- PKG.ID (R627). -/
abbrev pkgId : Reg := ⟨.pkg, 0, .id, 0⟩
/-- PKG.CAP (R640). -/
abbrev pkgCap : Reg := ⟨.pkg, 0, .cap, 0⟩
/-- PKG.CTL (R569). -/
abbrev pkgCtl : Reg := ⟨.pkg, 0, .ctl, 0⟩
/-- PKG.STS (R640, R569, R597, R655). -/
abbrev pkgSts : Reg := ⟨.pkg, 0, .sts, 0⟩
/-- PKG.IRQ_STS (R640, R569, R597, R628). -/
abbrev pkgIrqSts : Reg := ⟨.pkg, 0, .irqSts, 0⟩
/-- PKG.IRQ_EN (R626). -/
abbrev pkgIrqEn : Reg := ⟨.pkg, 0, .irqEn, 0⟩
/-- PKG.ERR_REC0 to ERR_REC3 (R586). -/
abbrev pkgErrRec (k : Nat) : Reg := ⟨.pkg, 0, .errRec, k⟩
/-- PKG.INJ (R593). -/
abbrev pkgInj : Reg := ⟨.pkg, 0, .inj, 0⟩
/-- PKG.SAFE (R592). -/
abbrev pkgSafe : Reg := ⟨.pkg, 0, .safe, 0⟩
/-- PKG.availUnit (R58). -/
abbrev pkgAvailUnit (k : Nat) : Reg := ⟨.pkg, 0, .pkgAvailUnit, k⟩
/-- PKG.availClu (R58). -/
abbrev pkgAvailClu (k : Nat) : Reg := ⟨.pkg, 0, .pkgAvailClu, k⟩
/-- PKG.availMisc (R58). -/
abbrev pkgAvailMisc : Reg := ⟨.pkg, 0, .pkgAvailMisc, 0⟩
/-- PKG.availCore (R58). -/
abbrev pkgAvailCore : Reg := ⟨.pkg, 0, .pkgAvailCore, 0⟩
/-- PKG.availGen (R58). -/
abbrev pkgAvailGen : Reg := ⟨.pkg, 0, .pkgAvailGen, 0⟩
/-- PKG.availRetire (R58). -/
abbrev pkgAvailRetire : Reg := ⟨.pkg, 0, .pkgAvailRetire, 0⟩
/-- PKG.ctxTbl (R313). -/
abbrev pkgCtxTbl : Reg := ⟨.pkg, 0, .pkgCtxTbl, 0⟩
/-- PKG.ctxCmd (R313). -/
abbrev pkgCtxCmd : Reg := ⟨.pkg, 0, .pkgCtxCmd, 0⟩
/-- PKG.ctxCmdSts (R313). -/
abbrev pkgCtxCmdSts : Reg := ⟨.pkg, 0, .pkgCtxCmdSts, 0⟩
/-- PKG.preemptLimit (R313). -/
abbrev pkgPreemptLimit : Reg := ⟨.pkg, 0, .pkgPreemptLimit, 0⟩
/-- PKG.partMap (R32). -/
abbrev pkgPartMap (k : Nat) : Reg := ⟨.pkg, 0, .pkgPartMap, k⟩
/-- PKG.partCur (R32). -/
abbrev pkgPartCur (k : Nat) : Reg := ⟨.pkg, 0, .pkgPartCur, k⟩
/-- PKG.rstCtl (R569). -/
abbrev pkgRstCtl : Reg := ⟨.pkg, 0, .pkgRstCtl, 0⟩
/-- PKG.rstSts (R569). -/
abbrev pkgRstSts : Reg := ⟨.pkg, 0, .pkgRstSts, 0⟩
/-- PKG.rstCause (R569). -/
abbrev pkgRstCause : Reg := ⟨.pkg, 0, .pkgRstCause, 0⟩
/-- PKG.elogBase (R597). -/
abbrev pkgElogBase : Reg := ⟨.pkg, 0, .pkgElogBase, 0⟩
/-- PKG.elogCfg (R597). -/
abbrev pkgElogCfg : Reg := ⟨.pkg, 0, .pkgElogCfg, 0⟩
/-- PKG.elogHead (R597). -/
abbrev pkgElogHead : Reg := ⟨.pkg, 0, .pkgElogHead, 0⟩
/-- PKG.elogTail (R597). -/
abbrev pkgElogTail : Reg := ⟨.pkg, 0, .pkgElogTail, 0⟩
/-- PKG.elogLost (R597). -/
abbrev pkgElogLost : Reg := ⟨.pkg, 0, .pkgElogLost, 0⟩
/-- PKG.vin (R655). -/
abbrev pkgVin : Reg := ⟨.pkg, 0, .pkgVin, 0⟩
/-- PKG.pwr (R655). -/
abbrev pkgPwr : Reg := ⟨.pkg, 0, .pkgPwr, 0⟩
/-- PKG.pwrPeak (R655). -/
abbrev pkgPwrPeak : Reg := ⟨.pkg, 0, .pkgPwrPeak, 0⟩
/-- PKG.energy (R655). -/
abbrev pkgEnergy : Reg := ⟨.pkg, 0, .pkgEnergy, 0⟩
/-- PKG.exc (R655). -/
abbrev pkgExc : Reg := ⟨.pkg, 0, .pkgExc, 0⟩
/-- PKG.temp (R655). -/
abbrev pkgTemp : Reg := ⟨.pkg, 0, .pkgTemp, 0⟩
/-- PKG.thermSet (R655). -/
abbrev pkgThermSet : Reg := ⟨.pkg, 0, .pkgThermSet, 0⟩
/-- PKG.bmcCap (R655). -/
abbrev pkgBmcCap : Reg := ⟨.pkg, 0, .pkgBmcCap, 0⟩
/-- PKG.rail (R655). -/
abbrev pkgRail (k : Nat) : Reg := ⟨.pkg, 0, .pkgRail, k⟩
/-- TIME.ID (R627). -/
abbrev timeId : Reg := ⟨.time, 0, .id, 0⟩
/-- TIME.CTL (R102). -/
abbrev timeCtl : Reg := ⟨.time, 0, .ctl, 0⟩
/-- TIME.STS (R102). -/
abbrev timeSts : Reg := ⟨.time, 0, .sts, 0⟩
/-- TIME.IRQ_STS (R102, R628). -/
abbrev timeIrqSts : Reg := ⟨.time, 0, .irqSts, 0⟩
/-- TIME.IRQ_EN (R626). -/
abbrev timeIrqEn : Reg := ⟨.time, 0, .irqEn, 0⟩
/-- TIME.ERR_REC0 to ERR_REC3 (R586). -/
abbrev timeErrRec (k : Nat) : Reg := ⟨.time, 0, .errRec, k⟩
/-- TIME.INJ (R593). -/
abbrev timeInj : Reg := ⟨.time, 0, .inj, 0⟩
/-- TIME.now (R102). -/
abbrev timeNow : Reg := ⟨.time, 0, .timeNow, 0⟩
/-- TIME.epoch (R102). -/
abbrev timeEpoch : Reg := ⟨.time, 0, .timeEpoch, 0⟩
/-- TIME.ppsTs (R102). -/
abbrev timePpsTs : Reg := ⟨.time, 0, .timePpsTs, 0⟩
/-- TIME.rate (R102). -/
abbrev timeRate : Reg := ⟨.time, 0, .timeRate, 0⟩
/-- TIME.alignOfs (R102). -/
abbrev timeAlignOfs : Reg := ⟨.time, 0, .timeAlignOfs, 0⟩
/-- TIME.set (R102). -/
abbrev timeSet : Reg := ⟨.time, 0, .timeSet, 0⟩
/-- TIME.thrCnt (R102). -/
abbrev timeThrCnt : Reg := ⟨.time, 0, .timeThrCnt, 0⟩
/-- TIME.thrNs (R102). -/
abbrev timeThrNs : Reg := ⟨.time, 0, .timeThrNs, 0⟩
/-- TIME.thrLast (R102). -/
abbrev timeThrLast : Reg := ⟨.time, 0, .timeThrLast, 0⟩
/-- TIME.astrBase (R102). -/
abbrev timeAstrBase (k : Nat) : Reg := ⟨.time, 0, .timeAstrBase, k⟩
/-- TIME.astrCfg (R102). -/
abbrev timeAstrCfg (k : Nat) : Reg := ⟨.time, 0, .timeAstrCfg, k⟩
/-- TIME.astrTail (R102). -/
abbrev timeAstrTail (k : Nat) : Reg := ⟨.time, 0, .timeAstrTail, k⟩
/-- TIME.astrHead (R102). -/
abbrev timeAstrHead (k : Nat) : Reg := ⟨.time, 0, .timeAstrHead, k⟩
/-- SEC.ID (R627). -/
abbrev secId : Reg := ⟨.sec, 0, .id, 0⟩
/-- SEC.STS (R621). -/
abbrev secSts : Reg := ⟨.sec, 0, .sts, 0⟩
/-- SEC.IRQ_STS (R621, R628). -/
abbrev secIrqSts : Reg := ⟨.sec, 0, .irqSts, 0⟩
/-- SEC.IRQ_EN (R626). -/
abbrev secIrqEn : Reg := ⟨.sec, 0, .irqEn, 0⟩
/-- SEC.ERR_REC0 to ERR_REC3 (R586). -/
abbrev secErrRec (k : Nat) : Reg := ⟨.sec, 0, .errRec, k⟩
/-- SEC.INJ (R593). -/
abbrev secInj : Reg := ⟨.sec, 0, .inj, 0⟩
/-- SEC.verifyHdr (R621). -/
abbrev secVerifyHdr : Reg := ⟨.sec, 0, .secVerifyHdr, 0⟩
/-- SEC.verifyPay (R621). -/
abbrev secVerifyPay : Reg := ⟨.sec, 0, .secVerifyPay, 0⟩
/-- SEC.verifyCmd (R621). -/
abbrev secVerifyCmd : Reg := ⟨.sec, 0, .secVerifyCmd, 0⟩
/-- SEC.verifySts (R621). -/
abbrev secVerifySts : Reg := ⟨.sec, 0, .secVerifySts, 0⟩
/-- SEC.wardenOk (R621). -/
abbrev secWardenOk : Reg := ⟨.sec, 0, .secWardenOk, 0⟩
/-- SEC.licSts (R621). -/
abbrev secLicSts : Reg := ⟨.sec, 0, .secLicSts, 0⟩
/-- SEC.mlogSel (R621). -/
abbrev secMlogSel : Reg := ⟨.sec, 0, .secMlogSel, 0⟩
/-- SEC.mlogInfo (R621). -/
abbrev secMlogInfo : Reg := ⟨.sec, 0, .secMlogInfo, 0⟩
/-- SEC.mlogDig (R621). -/
abbrev secMlogDig (k : Nat) : Reg := ⟨.sec, 0, .secMlogDig, k⟩
/-- SEC.rkeyCfg (R134). -/
abbrev secRkeyCfg (k : Nat) : Reg := ⟨.sec, 0, .secRkeyCfg, k⟩
/-- SEC.rkeyK (R134). -/
abbrev secRkeyK (k : Nat) : Reg := ⟨.sec, 0, .secRkeyK, k⟩
/-- HOST.ID (R627). -/
abbrev hostId : Reg := ⟨.host, 0, .id, 0⟩
/-- HOST.STS (R427). -/
abbrev hostSts : Reg := ⟨.host, 0, .sts, 0⟩
/-- HOST.IRQ_STS (R427, R628). -/
abbrev hostIrqSts : Reg := ⟨.host, 0, .irqSts, 0⟩
/-- HOST.IRQ_EN (R626). -/
abbrev hostIrqEn : Reg := ⟨.host, 0, .irqEn, 0⟩
/-- HOST.ERR_REC0 to ERR_REC3 (R586). -/
abbrev hostErrRec (k : Nat) : Reg := ⟨.host, 0, .errRec, k⟩
/-- HOST.INJ (R593). -/
abbrev hostInj : Reg := ⟨.host, 0, .inj, 0⟩
/-- HOST.irtBase (R427). -/
abbrev hostIrtBase : Reg := ⟨.host, 0, .hostIrtBase, 0⟩
/-- HOST.cgrpClk (R427). -/
abbrev hostCgrpClk : Reg := ⟨.host, 0, .hostCgrpClk, 0⟩
/-- HOST.hlRelease (R427). -/
abbrev hostHlRelease : Reg := ⟨.host, 0, .hostHlRelease, 0⟩
/-- HOST.coreRun (R571). -/
abbrev hostCoreRun : Reg := ⟨.host, 0, .hostCoreRun, 0⟩
/-- HOST.coreVec (R571). -/
abbrev hostCoreVec : Reg := ⟨.host, 0, .hostCoreVec, 0⟩
/-- HOST.mbox (R427). -/
abbrev hostMbox (k : Nat) : Reg := ⟨.host, 0, .hostMbox, k⟩
/-- COH.ID (R627). -/
abbrev cohId (i : Nat) : Reg := ⟨.coh, i, .id, 0⟩
/-- COH.CTL (R391). -/
abbrev cohCtl (i : Nat) : Reg := ⟨.coh, i, .ctl, 0⟩
/-- COH.STS (R391). -/
abbrev cohSts (i : Nat) : Reg := ⟨.coh, i, .sts, 0⟩
/-- COH.IRQ_STS (R391, R628). -/
abbrev cohIrqSts (i : Nat) : Reg := ⟨.coh, i, .irqSts, 0⟩
/-- COH.IRQ_EN (R626). -/
abbrev cohIrqEn (i : Nat) : Reg := ⟨.coh, i, .irqEn, 0⟩
/-- COH.ERR_REC0 to ERR_REC3 (R586). -/
abbrev cohErrRec (i : Nat) (k : Nat) : Reg := ⟨.coh, i, .errRec, k⟩
/-- COH.INJ (R593). -/
abbrev cohInj (i : Nat) : Reg := ⟨.coh, i, .inj, 0⟩
/-- COH.portPrio (R391). -/
abbrev cohPortPrio (i : Nat) : Reg := ⟨.coh, i, .cohPortPrio, 0⟩
/-- COH.dirInit (R391). -/
abbrev cohDirInit (i : Nat) : Reg := ⟨.coh, i, .cohDirInit, 0⟩
/-- COH.arbCnt (R391). -/
abbrev cohArbCnt (i : Nat) : Reg := ⟨.coh, i, .cohArbCnt, 0⟩
/-- COH.arbQocc (R391). -/
abbrev cohArbQocc (i : Nat) : Reg := ⟨.coh, i, .cohArbQocc, 0⟩
/-- COH.nackCnt (R391). -/
abbrev cohNackCnt (i : Nat) (k : Nat) : Reg := ⟨.coh, i, .cohNackCnt, k⟩
/-- COH.agedCnt (R391). -/
abbrev cohAgedCnt (i : Nat) (k : Nat) : Reg := ⟨.coh, i, .cohAgedCnt, k⟩
/-- COH.recallCnt (R391). -/
abbrev cohRecallCnt (i : Nat) (k : Nat) : Reg := ⟨.coh, i, .cohRecallCnt, k⟩
/-- COH.wbifCnt (R391). -/
abbrev cohWbifCnt (i : Nat) (k : Nat) : Reg := ⟨.coh, i, .cohWbifCnt, k⟩
/-- COH.atomCnt (R391). -/
abbrev cohAtomCnt (i : Nat) (k : Nat) : Reg := ⟨.coh, i, .cohAtomCnt, k⟩
/-- COH.dirOcc (R391). -/
abbrev cohDirOcc (i : Nat) (k : Nat) : Reg := ⟨.coh, i, .cohDirOcc, k⟩
/-- COH.bcastCnt (R391). -/
abbrev cohBcastCnt (i : Nat) (k : Nat) : Reg := ⟨.coh, i, .cohBcastCnt, k⟩
/-- XLT.ID (R627). -/
abbrev xltId (i : Nat) : Reg := ⟨.xlt, i, .id, 0⟩
/-- XLT.STS (R360). -/
abbrev xltSts (i : Nat) : Reg := ⟨.xlt, i, .sts, 0⟩
/-- XLT.IRQ_STS (R360, R628). -/
abbrev xltIrqSts (i : Nat) : Reg := ⟨.xlt, i, .irqSts, 0⟩
/-- XLT.IRQ_EN (R626). -/
abbrev xltIrqEn (i : Nat) : Reg := ⟨.xlt, i, .irqEn, 0⟩
/-- XLT.ERR_REC0 to ERR_REC3 (R586). -/
abbrev xltErrRec (i : Nat) (k : Nat) : Reg := ⟨.xlt, i, .errRec, k⟩
/-- XLT.INJ (R593). -/
abbrev xltInj (i : Nat) : Reg := ⟨.xlt, i, .inj, 0⟩
/-- XLT.fqBase (R360). -/
abbrev xltFqBase (i : Nat) : Reg := ⟨.xlt, i, .xltFqBase, 0⟩
/-- XLT.fqHead (R360). -/
abbrev xltFqHead (i : Nat) : Reg := ⟨.xlt, i, .xltFqHead, 0⟩
/-- XLT.fqTail (R360). -/
abbrev xltFqTail (i : Nat) : Reg := ⟨.xlt, i, .xltFqTail, 0⟩
/-- XLT.fqOvf (R360). -/
abbrev xltFqOvf (i : Nat) : Reg := ⟨.xlt, i, .xltFqOvf, 0⟩
/-- XLT.fqResolve (R360). -/
abbrev xltFqResolve (i : Nat) : Reg := ⟨.xlt, i, .xltFqResolve, 0⟩
/-- XLT.lastFatal (R360). -/
abbrev xltLastFatal (i : Nat) : Reg := ⟨.xlt, i, .xltLastFatal, 0⟩
/-- XLT.walks (R360). -/
abbrev xltWalks (i : Nat) : Reg := ⟨.xlt, i, .xltWalks, 0⟩
/-- XLT.gotBase (R360). -/
abbrev xltGotBase (i : Nat) : Reg := ⟨.xlt, i, .xltGotBase, 0⟩
/-- XLT.grpBase (R360). -/
abbrev xltGrpBase (i : Nat) : Reg := ⟨.xlt, i, .xltGrpBase, 0⟩
/-- XLT.gotSync (R360). -/
abbrev xltGotSync (i : Nat) : Reg := ⟨.xlt, i, .xltGotSync, 0⟩
/-- XLT.tlbInvVa (R360). -/
abbrev xltTlbInvVa (i : Nat) : Reg := ⟨.xlt, i, .xltTlbInvVa, 0⟩
/-- XLT.tlbInv (R360). -/
abbrev xltTlbInv (i : Nat) : Reg := ⟨.xlt, i, .xltTlbInv, 0⟩
/-- XLT.syncSts (R360). -/
abbrev xltSyncSts (i : Nat) : Reg := ⟨.xlt, i, .xltSyncSts, 0⟩
/-- PCIE.ID (R627). -/
abbrev pcieId (i : Nat) : Reg := ⟨.pcie, i, .id, 0⟩
/-- PCIE.CTL (R429). -/
abbrev pcieCtl (i : Nat) : Reg := ⟨.pcie, i, .ctl, 0⟩
/-- PCIE.IRQ_STS (R429, R628). -/
abbrev pcieIrqSts (i : Nat) : Reg := ⟨.pcie, i, .irqSts, 0⟩
/-- PCIE.IRQ_EN (R626). -/
abbrev pcieIrqEn (i : Nat) : Reg := ⟨.pcie, i, .irqEn, 0⟩
/-- PCIE.ERR_REC0 to ERR_REC3 (R586). -/
abbrev pcieErrRec (i : Nat) (k : Nat) : Reg := ⟨.pcie, i, .errRec, k⟩
/-- PCIE.INJ (R593). -/
abbrev pcieInj (i : Nat) : Reg := ⟨.pcie, i, .inj, 0⟩
/-- PCIE.portCfg (R429). -/
abbrev pciePortCfg (i : Nat) : Reg := ⟨.pcie, i, .pciePortCfg, 0⟩
/-- PCIE.linkSts (R429). -/
abbrev pcieLinkSts (i : Nat) : Reg := ⟨.pcie, i, .pcieLinkSts, 0⟩
/-- PCIE.outBase (R429). -/
abbrev pcieOutBase (i : Nat) : Reg := ⟨.pcie, i, .pcieOutBase, 0⟩
/-- PCIE.dtBase (R429). -/
abbrev pcieDtBase (i : Nat) : Reg := ⟨.pcie, i, .pcieDtBase, 0⟩
/-- PCIE.epBar2 (R429). -/
abbrev pcieEpBar2 (i : Nat) : Reg := ⟨.pcie, i, .pcieEpBar2, 0⟩
/-- PCIE.epVa (R429). -/
abbrev pcieEpVa (i : Nat) : Reg := ⟨.pcie, i, .pcieEpVa, 0⟩
/-- PCIE.parkLimit (R429). -/
abbrev pcieParkLimit (i : Nat) : Reg := ⟨.pcie, i, .pcieParkLimit, 0⟩
/-- PCIE.cplTimeout (R429). -/
abbrev pcieCplTimeout (i : Nat) : Reg := ⟨.pcie, i, .pcieCplTimeout, 0⟩
/-- PCIE.linkEvt (R429). -/
abbrev pcieLinkEvt (i : Nat) : Reg := ⟨.pcie, i, .pcieLinkEvt, 0⟩
/-- PCIE.inReject (R429). -/
abbrev pcieInReject (i : Nat) : Reg := ⟨.pcie, i, .pcieInReject, 0⟩
/-- FIX.ID (R627). -/
abbrev fixId : Reg := ⟨.fix, 0, .id, 0⟩
/-- FIX.CTL (R573). -/
abbrev fixCtl : Reg := ⟨.fix, 0, .ctl, 0⟩
/-- FIX.STS (R573). -/
abbrev fixSts : Reg := ⟨.fix, 0, .sts, 0⟩
/-- FIX.IRQ_STS (R573, R628). -/
abbrev fixIrqSts : Reg := ⟨.fix, 0, .irqSts, 0⟩
/-- FIX.IRQ_EN (R626). -/
abbrev fixIrqEn : Reg := ⟨.fix, 0, .irqEn, 0⟩
/-- FIX.ERR_REC0 to ERR_REC3 (R586). -/
abbrev fixErrRec (k : Nat) : Reg := ⟨.fix, 0, .errRec, k⟩
/-- FIX.INJ (R593). -/
abbrev fixInj : Reg := ⟨.fix, 0, .inj, 0⟩
/-- FIX.SAFE (R573). -/
abbrev fixSafe : Reg := ⟨.fix, 0, .safe, 0⟩
/-- FIX.writes (R573). -/
abbrev fixWrites : Reg := ⟨.fix, 0, .fixWrites, 0⟩
/-- FIX.hourCnt (R573). -/
abbrev fixHourCnt : Reg := ⟨.fix, 0, .fixHourCnt, 0⟩
/-- FIX.lastWorn (R573). -/
abbrev fixLastWorn : Reg := ⟨.fix, 0, .fixLastWorn, 0⟩
/-- FIX.store (R549, R550). -/
abbrev fixStore (k : Nat) : Reg := ⟨.fix, 0, .fixStore, k⟩
/-- FIX.wear (R549, R573). -/
abbrev fixWear (k : Nat) : Reg := ⟨.fix, 0, .fixWear, k⟩
/-- DIE.ID (R627). -/
abbrev dieId (i : Nat) : Reg := ⟨.die, i, .id, 0⟩
/-- DIE.IRQ_STS (R498, R532, R628). -/
abbrev dieIrqSts (i : Nat) : Reg := ⟨.die, i, .irqSts, 0⟩
/-- DIE.IRQ_EN (R626). -/
abbrev dieIrqEn (i : Nat) : Reg := ⟨.die, i, .irqEn, 0⟩
/-- DIE.ERR_REC0 to ERR_REC3 (R586). -/
abbrev dieErrRec (i : Nat) (k : Nat) : Reg := ⟨.die, i, .errRec, k⟩
/-- DIE.INJ (R593). -/
abbrev dieInj (i : Nat) : Reg := ⟨.die, i, .inj, 0⟩
/-- DIE.slotCfg (R498). -/
abbrev dieSlotCfg (i : Nat) (k : Nat) : Reg := ⟨.die, i, .dieSlotCfg, k⟩
/-- DIE.slotRing (R498). -/
abbrev dieSlotRing (i : Nat) (k : Nat) : Reg := ⟨.die, i, .dieSlotRing, k⟩
/-- DIE.slotTbl (R498). -/
abbrev dieSlotTbl (i : Nat) (k : Nat) : Reg := ⟨.die, i, .dieSlotTbl, k⟩
/-- DIE.slotSeal (R498). -/
abbrev dieSlotSeal (i : Nat) (k : Nat) : Reg := ⟨.die, i, .dieSlotSeal, k⟩
/-- DIE.slotSealmask (R498). -/
abbrev dieSlotSealmask (i : Nat) (k : Nat) : Reg := ⟨.die, i, .dieSlotSealmask, k⟩
/-- DIE.slotSts (R498). -/
abbrev dieSlotSts (i : Nat) (k : Nat) : Reg := ⟨.die, i, .dieSlotSts, k⟩
/-- DIE.slotKey (R498). -/
abbrev dieSlotKey (i : Nat) (k : Nat) : Reg := ⟨.die, i, .dieSlotKey, k⟩
/-- DIE.slotCnt (R498). -/
abbrev dieSlotCnt (i : Nat) (k : Nat) : Reg := ⟨.die, i, .dieSlotCnt, k⟩
/-- DIE.snapCfg (R532). -/
abbrev dieSnapCfg (i : Nat) (k : Nat) : Reg := ⟨.die, i, .dieSnapCfg, k⟩
/-- DIE.snapPeers (R532). -/
abbrev dieSnapPeers (i : Nat) (k : Nat) : Reg := ⟨.die, i, .dieSnapPeers, k⟩
/-- DIE.snapTbl (R532). -/
abbrev dieSnapTbl (i : Nat) (k : Nat) : Reg := ⟨.die, i, .dieSnapTbl, k⟩
/-- DIE.snapSts (R532). -/
abbrev dieSnapSts (i : Nat) (k : Nat) : Reg := ⟨.die, i, .dieSnapSts, k⟩
/-- DIE.snapOp (R532). -/
abbrev dieSnapOp (i : Nat) (k : Nat) : Reg := ⟨.die, i, .dieSnapOp, k⟩
/-- DIE.snapOpsts (R532). -/
abbrev dieSnapOpsts (i : Nat) (k : Nat) : Reg := ⟨.die, i, .dieSnapOpsts, k⟩
/-- DIE.snapLimit (R532). -/
abbrev dieSnapLimit (i : Nat) (k : Nat) : Reg := ⟨.die, i, .dieSnapLimit, k⟩
/-- DIE.snapDig (R532). -/
abbrev dieSnapDig (i : Nat) (k : Nat) : Reg := ⟨.die, i, .dieSnapDig, k⟩
/-- HBM.ID (R627). -/
abbrev hbmId (i : Nat) : Reg := ⟨.hbm, i, .id, 0⟩
/-- HBM.STS (R645). -/
abbrev hbmSts (i : Nat) : Reg := ⟨.hbm, i, .sts, 0⟩
/-- HBM.IRQ_STS (R645, R628). -/
abbrev hbmIrqSts (i : Nat) : Reg := ⟨.hbm, i, .irqSts, 0⟩
/-- HBM.IRQ_EN (R626). -/
abbrev hbmIrqEn (i : Nat) : Reg := ⟨.hbm, i, .irqEn, 0⟩
/-- HBM.ERR_REC0 to ERR_REC3 (R586). -/
abbrev hbmErrRec (i : Nat) (k : Nat) : Reg := ⟨.hbm, i, .errRec, k⟩
/-- HBM.INJ (R593). -/
abbrev hbmInj (i : Nat) : Reg := ⟨.hbm, i, .inj, 0⟩
/-- HBM.SAFE (R592). -/
abbrev hbmSafe (i : Nat) : Reg := ⟨.hbm, i, .safe, 0⟩
/-- HBM.scrubCfg (R599). -/
abbrev hbmScrubCfg (i : Nat) : Reg := ⟨.hbm, i, .hbmScrubCfg, 0⟩
/-- HBM.scrubSts (R599). -/
abbrev hbmScrubSts (i : Nat) : Reg := ⟨.hbm, i, .hbmScrubSts, 0⟩
/-- HBM.ceCnt (R645). -/
abbrev hbmCeCnt (i : Nat) : Reg := ⟨.hbm, i, .hbmCeCnt, 0⟩
/-- OPT.ID (R627). -/
abbrev optId (i : Nat) : Reg := ⟨.opt, i, .id, 0⟩
/-- OPT.CTL (R463). -/
abbrev optCtl (i : Nat) : Reg := ⟨.opt, i, .ctl, 0⟩
/-- OPT.STS (R463). -/
abbrev optSts (i : Nat) : Reg := ⟨.opt, i, .sts, 0⟩
/-- OPT.IRQ_STS (R463, R628). -/
abbrev optIrqSts (i : Nat) : Reg := ⟨.opt, i, .irqSts, 0⟩
/-- OPT.IRQ_EN (R626). -/
abbrev optIrqEn (i : Nat) : Reg := ⟨.opt, i, .irqEn, 0⟩
/-- OPT.ERR_REC0 to ERR_REC3 (R586). -/
abbrev optErrRec (i : Nat) (k : Nat) : Reg := ⟨.opt, i, .errRec, k⟩
/-- OPT.INJ (R593). -/
abbrev optInj (i : Nat) : Reg := ⟨.opt, i, .inj, 0⟩
/-- OPT.SAFE (R592). -/
abbrev optSafe (i : Nat) : Reg := ⟨.opt, i, .safe, 0⟩
/-- OPT.peer (R463). -/
abbrev optPeer (i : Nat) : Reg := ⟨.opt, i, .optPeer, 0⟩
/-- OPT.lambda (R463). -/
abbrev optLambda (i : Nat) : Reg := ⟨.opt, i, .optLambda, 0⟩
/-- OPT.margin (R463). -/
abbrev optMargin (i : Nat) : Reg := ⟨.opt, i, .optMargin, 0⟩
/-- OPT.asym (R463). -/
abbrev optAsym (i : Nat) : Reg := ⟨.opt, i, .optAsym, 0⟩
/-- OPT.linkCnt (R463). -/
abbrev optLinkCnt (i : Nat) : Reg := ⟨.opt, i, .optLinkCnt, 0⟩
/-- OPT.dropCnt (R463). -/
abbrev optDropCnt (i : Nat) : Reg := ⟨.opt, i, .optDropCnt, 0⟩
/-- OPT.frameCnt (R463). -/
abbrev optFrameCnt (i : Nat) : Reg := ⟨.opt, i, .optFrameCnt, 0⟩
/-- OPT.rtt (R463). -/
abbrev optRtt (i : Nat) : Reg := ⟨.opt, i, .optRtt, 0⟩
/-- OPT.hcal (R463). -/
abbrev optHcal (i : Nat) (k : Nat) : Reg := ⟨.opt, i, .optHcal, k⟩
/-- OPT.fabCfg (R463). -/
abbrev optFabCfg (i : Nat) : Reg := ⟨.opt, i, .optFabCfg, 0⟩
/-- OPT.fabSts (R463). -/
abbrev optFabSts (i : Nat) : Reg := ⟨.opt, i, .optFabSts, 0⟩
/-- OPT.rt (R463). -/
abbrev optRt (i : Nat) (k : Nat) : Reg := ⟨.opt, i, .optRt, k⟩
/-- RGN.ID (R627). -/
abbrev rgnId (i : Nat) : Reg := ⟨.rgn, i, .id, 0⟩
/-- RGN.CTL (R570). -/
abbrev rgnCtl (i : Nat) : Reg := ⟨.rgn, i, .ctl, 0⟩
/-- RGN.STS (R642). -/
abbrev rgnSts (i : Nat) : Reg := ⟨.rgn, i, .sts, 0⟩
/-- RGN.IRQ_STS (R642, R570, R628). -/
abbrev rgnIrqSts (i : Nat) : Reg := ⟨.rgn, i, .irqSts, 0⟩
/-- RGN.IRQ_EN (R626). -/
abbrev rgnIrqEn (i : Nat) : Reg := ⟨.rgn, i, .irqEn, 0⟩
/-- RGN.ERR_REC0 to ERR_REC3 (R586). -/
abbrev rgnErrRec (i : Nat) (k : Nat) : Reg := ⟨.rgn, i, .errRec, k⟩
/-- RGN.INJ (R593). -/
abbrev rgnInj (i : Nat) : Reg := ⟨.rgn, i, .inj, 0⟩
/-- RGN.SAFE (R592). -/
abbrev rgnSafe (i : Nat) : Reg := ⟨.rgn, i, .safe, 0⟩
/-- RGN.dvfs (R642). -/
abbrev rgnDvfs (i : Nat) : Reg := ⟨.rgn, i, .rgnDvfs, 0⟩
/-- RGN.dvfsCur (R642). -/
abbrev rgnDvfsCur (i : Nat) : Reg := ⟨.rgn, i, .rgnDvfsCur, 0⟩
/-- RGN.rstCtl (R570). -/
abbrev rgnRstCtl (i : Nat) : Reg := ⟨.rgn, i, .rgnRstCtl, 0⟩
/-- RGN.rstSts (R570). -/
abbrev rgnRstSts (i : Nat) : Reg := ⟨.rgn, i, .rgnRstSts, 0⟩
/-- RGN.fwBase (R570). -/
abbrev rgnFwBase (i : Nat) : Reg := ⟨.rgn, i, .rgnFwBase, 0⟩
/-- RGN.dlmCfg (R314). -/
abbrev rgnDlmCfg (i : Nat) : Reg := ⟨.rgn, i, .rgnDlmCfg, 0⟩
/-- RGN.dlmAddr (R314). -/
abbrev rgnDlmAddr (i : Nat) : Reg := ⟨.rgn, i, .rgnDlmAddr, 0⟩
/-- RGN.dlmPrevT (R314). -/
abbrev rgnDlmPrevT (i : Nat) : Reg := ⟨.rgn, i, .rgnDlmPrevT, 0⟩
/-- RGN.dlmPrevM (R314). -/
abbrev rgnDlmPrevM (i : Nat) : Reg := ⟨.rgn, i, .rgnDlmPrevM, 0⟩
/-- RGN.dlmProj (R314). -/
abbrev rgnDlmProj (i : Nat) : Reg := ⟨.rgn, i, .rgnDlmProj, 0⟩
/-- RGN.dlmLast (R314). -/
abbrev rgnDlmLast (i : Nat) : Reg := ⟨.rgn, i, .rgnDlmLast, 0⟩
/-- CLU.ID (R627). -/
abbrev cluId (i : Nat) : Reg := ⟨.clu, i, .id, 0⟩
/-- CLU.CTL (R646). -/
abbrev cluCtl (i : Nat) : Reg := ⟨.clu, i, .ctl, 0⟩
/-- CLU.IRQ_STS (R628). -/
abbrev cluIrqSts (i : Nat) : Reg := ⟨.clu, i, .irqSts, 0⟩
/-- CLU.IRQ_EN (R626). -/
abbrev cluIrqEn (i : Nat) : Reg := ⟨.clu, i, .irqEn, 0⟩
/-- CLU.ERR_REC0 to ERR_REC3 (R586). -/
abbrev cluErrRec (i : Nat) (k : Nat) : Reg := ⟨.clu, i, .errRec, k⟩
/-- CLU.INJ (R593). -/
abbrev cluInj (i : Nat) : Reg := ⟨.clu, i, .inj, 0⟩
/-- CLU.win (R336). -/
abbrev cluWin (i : Nat) (k : Nat) : Reg := ⟨.clu, i, .cluWin, k⟩
/-- CLU.tlbLookup (R646). -/
abbrev cluTlbLookup (i : Nat) : Reg := ⟨.clu, i, .cluTlbLookup, 0⟩
/-- CLU.tlbMiss (R646). -/
abbrev cluTlbMiss (i : Nat) : Reg := ⟨.clu, i, .cluTlbMiss, 0⟩
/-- DMA.ID (R627). -/
abbrev dmaId (i : Nat) : Reg := ⟨.dma, i, .id, 0⟩
/-- DMA.CTL (R648). -/
abbrev dmaCtl (i : Nat) : Reg := ⟨.dma, i, .ctl, 0⟩
/-- DMA.STS (R648). -/
abbrev dmaSts (i : Nat) : Reg := ⟨.dma, i, .sts, 0⟩
/-- DMA.IRQ_STS (R628). -/
abbrev dmaIrqSts (i : Nat) : Reg := ⟨.dma, i, .irqSts, 0⟩
/-- DMA.IRQ_EN (R626). -/
abbrev dmaIrqEn (i : Nat) : Reg := ⟨.dma, i, .irqEn, 0⟩
/-- DMA.ERR_REC0 to ERR_REC3 (R586). -/
abbrev dmaErrRec (i : Nat) (k : Nat) : Reg := ⟨.dma, i, .errRec, k⟩
/-- DMA.INJ (R593). -/
abbrev dmaInj (i : Nat) : Reg := ⟨.dma, i, .inj, 0⟩
/-- DMA.ch (R648). -/
abbrev dmaCh (i : Nat) (k : Nat) : Reg := ⟨.dma, i, .dmaCh, k⟩
/-- DMA.bytes (R648). -/
abbrev dmaBytes (i : Nat) : Reg := ⟨.dma, i, .dmaBytes, 0⟩
/-- DMA.pieces (R648). -/
abbrev dmaPieces (i : Nat) : Reg := ⟨.dma, i, .dmaPieces, 0⟩
/-- DMA.parkCnt (R648). -/
abbrev dmaParkCnt (i : Nat) : Reg := ⟨.dma, i, .dmaParkCnt, 0⟩
/-- DMA.moveCyc (R648). -/
abbrev dmaMoveCyc (i : Nat) : Reg := ⟨.dma, i, .dmaMoveCyc, 0⟩
/-- UNIT.ID (R627). -/
abbrev unitId (i : Nat) : Reg := ⟨.unit, i, .id, 0⟩
/-- UNIT.IRQ_STS (R311, R628). -/
abbrev unitIrqSts (i : Nat) : Reg := ⟨.unit, i, .irqSts, 0⟩
/-- UNIT.IRQ_EN (R626). -/
abbrev unitIrqEn (i : Nat) : Reg := ⟨.unit, i, .irqEn, 0⟩
/-- UNIT.ERR_REC0 to ERR_REC3 (R586). -/
abbrev unitErrRec (i : Nat) (k : Nat) : Reg := ⟨.unit, i, .errRec, k⟩
/-- UNIT.INJ (R593). -/
abbrev unitInj (i : Nat) : Reg := ⟨.unit, i, .inj, 0⟩
/-- UNIT.SAFE (R592). -/
abbrev unitSafe (i : Nat) : Reg := ⟨.unit, i, .safe, 0⟩
/-- UNIT.wdog (R311). -/
abbrev unitWdog (i : Nat) : Reg := ⟨.unit, i, .unitWdog, 0⟩
/-- UNIT.res (R311). -/
abbrev unitRes (i : Nat) : Reg := ⟨.unit, i, .unitRes, 0⟩
/-- UNIT.verdict (R311). -/
abbrev unitVerdict (i : Nat) : Reg := ⟨.unit, i, .unitVerdict, 0⟩
/-- UNIT.tload0 (R311). -/
abbrev unitTload0 (i : Nat) : Reg := ⟨.unit, i, .unitTload0, 0⟩
/-- UNIT.tload1 (R311). -/
abbrev unitTload1 (i : Nat) : Reg := ⟨.unit, i, .unitTload1, 0⟩
/-- UNIT.tag (R311). -/
abbrev unitTag (i : Nat) (k : Nat) : Reg := ⟨.unit, i, .unitTag, k⟩
/-- UNIT.qBase (R311). -/
abbrev unitQBase (i : Nat) (k : Nat) : Reg := ⟨.unit, i, .unitQBase, k⟩
/-- UNIT.qCfg (R311). -/
abbrev unitQCfg (i : Nat) (k : Nat) : Reg := ⟨.unit, i, .unitQCfg, k⟩
/-- UNIT.qPtr (R311). -/
abbrev unitQPtr (i : Nat) (k : Nat) : Reg := ⟨.unit, i, .unitQPtr, k⟩
/-- UNIT.crl (R311). -/
abbrev unitCrl (i : Nat) (k : Nat) : Reg := ⟨.unit, i, .unitCrl, k⟩
/-- ARR.ID (R627). -/
abbrev arrId (i : Nat) : Reg := ⟨.arr, i, .id, 0⟩
/-- ARR.CTL (R179). -/
abbrev arrCtl (i : Nat) : Reg := ⟨.arr, i, .ctl, 0⟩
/-- ARR.STS (R179). -/
abbrev arrSts (i : Nat) : Reg := ⟨.arr, i, .sts, 0⟩
/-- ARR.IRQ_STS (R628). -/
abbrev arrIrqSts (i : Nat) : Reg := ⟨.arr, i, .irqSts, 0⟩
/-- ARR.IRQ_EN (R626). -/
abbrev arrIrqEn (i : Nat) : Reg := ⟨.arr, i, .irqEn, 0⟩
/-- ARR.ERR_REC0 to ERR_REC3 (R586). -/
abbrev arrErrRec (i : Nat) (k : Nat) : Reg := ⟨.arr, i, .errRec, k⟩
/-- ARR.INJ (R593). -/
abbrev arrInj (i : Nat) : Reg := ⟨.arr, i, .inj, 0⟩
/-- ARR.passCnt (R179). -/
abbrev arrPassCnt (i : Nat) : Reg := ⟨.arr, i, .arrPassCnt, 0⟩
/-- ARR.rowCnt (R179). -/
abbrev arrRowCnt (i : Nat) : Reg := ⟨.arr, i, .arrRowCnt, 0⟩
/-- ARR.feedCyc (R179). -/
abbrev arrFeedCyc (i : Nat) : Reg := ⟨.arr, i, .arrFeedCyc, 0⟩
/-- ARR.gapCyc (R179). -/
abbrev arrGapCyc (i : Nat) : Reg := ⟨.arr, i, .arrGapCyc, 0⟩
/-- ARR.thrCyc (R179). -/
abbrev arrThrCyc (i : Nat) : Reg := ⟨.arr, i, .arrThrCyc, 0⟩
/-- ARR.maskedCnt (R179). -/
abbrev arrMaskedCnt (i : Nat) : Reg := ⟨.arr, i, .arrMaskedCnt, 0⟩
/-- VEC.ID (R627). -/
abbrev vecId (i : Nat) : Reg := ⟨.vec, i, .id, 0⟩
/-- VEC.CTL (R224). -/
abbrev vecCtl (i : Nat) : Reg := ⟨.vec, i, .ctl, 0⟩
/-- VEC.STS (R224). -/
abbrev vecSts (i : Nat) : Reg := ⟨.vec, i, .sts, 0⟩
/-- VEC.IRQ_STS (R628). -/
abbrev vecIrqSts (i : Nat) : Reg := ⟨.vec, i, .irqSts, 0⟩
/-- VEC.IRQ_EN (R626). -/
abbrev vecIrqEn (i : Nat) : Reg := ⟨.vec, i, .irqEn, 0⟩
/-- VEC.ERR_REC0 to ERR_REC3 (R586). -/
abbrev vecErrRec (i : Nat) (k : Nat) : Reg := ⟨.vec, i, .errRec, k⟩
/-- VEC.INJ (R593). -/
abbrev vecInj (i : Nat) : Reg := ⟨.vec, i, .inj, 0⟩
/-- VEC.elemCnt (R224). -/
abbrev vecElemCnt (i : Nat) : Reg := ⟨.vec, i, .vecElemCnt, 0⟩
/-- VEC.busyCyc (R224). -/
abbrev vecBusyCyc (i : Nat) : Reg := ⟨.vec, i, .vecBusyCyc, 0⟩
/-- VEC.stallCyc (R224). -/
abbrev vecStallCyc (i : Nat) : Reg := ⟨.vec, i, .vecStallCyc, 0⟩
/-- VEC.supprCnt (R224). -/
abbrev vecSupprCnt (i : Nat) : Reg := ⟨.vec, i, .vecSupprCnt, 0⟩
/-- VEC.drainEnt (R224). -/
abbrev vecDrainEnt (i : Nat) : Reg := ⟨.vec, i, .vecDrainEnt, 0⟩
/-- VEC.drainCyc (R224). -/
abbrev vecDrainCyc (i : Nat) : Reg := ⟨.vec, i, .vecDrainCyc, 0⟩
/-- ACC.ID (R627). -/
abbrev accId (i : Nat) : Reg := ⟨.acc, i, .id, 0⟩
/-- ACC.CTL (R181). -/
abbrev accCtl (i : Nat) : Reg := ⟨.acc, i, .ctl, 0⟩
/-- ACC.IRQ_STS (R628). -/
abbrev accIrqSts (i : Nat) : Reg := ⟨.acc, i, .irqSts, 0⟩
/-- ACC.IRQ_EN (R626). -/
abbrev accIrqEn (i : Nat) : Reg := ⟨.acc, i, .irqEn, 0⟩
/-- ACC.ERR_REC0 to ERR_REC3 (R586). -/
abbrev accErrRec (i : Nat) (k : Nat) : Reg := ⟨.acc, i, .errRec, k⟩
/-- ACC.INJ (R593). -/
abbrev accInj (i : Nat) : Reg := ⟨.acc, i, .inj, 0⟩
/-- ACC.own (R181). -/
abbrev accOwn (i : Nat) : Reg := ⟨.acc, i, .accOwn, 0⟩
/-- ACC.hazWaitCyc (R181). -/
abbrev accHazWaitCyc (i : Nat) : Reg := ⟨.acc, i, .accHazWaitCyc, 0⟩
/-- ACC.hazWaitMax (R181). -/
abbrev accHazWaitMax (i : Nat) : Reg := ⟨.acc, i, .accHazWaitMax, 0⟩
/-- ACC.ceCnt (R181). -/
abbrev accCeCnt (i : Nat) : Reg := ⟨.acc, i, .accCeCnt, 0⟩

/-- IRQ_STS of any page (R626, R628). -/
abbrev irqSts (p : Page) (i : Nat) : Reg := ⟨p, i, .irqSts, 0⟩
/-- IRQ_EN of any page (R626, R628). -/
abbrev irqEn (p : Page) (i : Nat) : Reg := ⟨p, i, .irqEn, 0⟩
/-- ERR_REC0 to ERR_REC3 of any page (R586). -/
abbrev errRec (p : Page) (i k : Nat) : Reg := ⟨p, i, .errRec, k⟩
/-- INJ of any page (R593). -/
abbrev inj (p : Page) (i : Nat) : Reg := ⟨p, i, .inj, 0⟩

end Sys2Proof.Machine.R

namespace Sys2Proof.Machine

/-- The places of the head registers (R626). -/
def headLayout : List Place :=
  [⟨.id, 0x000, 0, 1, 0, 1⟩,
   ⟨.cap, 0x008, 0, 1, 0, 1⟩,
   ⟨.ctl, 0x010, 0, 1, 0, 1⟩,
   ⟨.sts, 0x018, 0, 1, 0, 1⟩,
   ⟨.irqSts, 0x020, 0, 1, 0, 1⟩,
   ⟨.irqEn, 0x028, 0, 1, 0, 1⟩,
   ⟨.errRec, 0x030, 0, 1, 8, 4⟩,
   ⟨.inj, 0x050, 0, 1, 0, 1⟩,
   ⟨.safe, 0x058, 0, 1, 0, 1⟩]

/-- The places of the block-specific registers of a page (R649). -/
def Page.layout : Page → List Place
  | .pkg => [⟨.pkgAvailUnit, 0x100, 0, 1, 8, 16⟩,
      ⟨.pkgAvailClu, 0x180, 0, 1, 8, 2⟩,
      ⟨.pkgAvailMisc, 0x190, 0, 1, 0, 1⟩,
      ⟨.pkgAvailCore, 0x198, 0, 1, 0, 1⟩,
      ⟨.pkgAvailGen, 0x1A0, 0, 1, 0, 1⟩,
      ⟨.pkgAvailRetire, 0x1A8, 0, 1, 0, 1⟩,
      ⟨.pkgCtxTbl, 0x200, 0, 1, 0, 1⟩,
      ⟨.pkgCtxCmd, 0x208, 0, 1, 0, 1⟩,
      ⟨.pkgCtxCmdSts, 0x210, 0, 1, 0, 1⟩,
      ⟨.pkgPreemptLimit, 0x218, 0, 1, 0, 1⟩,
      ⟨.pkgPartMap, 0x220, 0, 1, 8, 4⟩,
      ⟨.pkgPartCur, 0x240, 0, 1, 8, 4⟩,
      ⟨.pkgRstCtl, 0x300, 0, 1, 0, 1⟩,
      ⟨.pkgRstSts, 0x308, 0, 1, 0, 1⟩,
      ⟨.pkgRstCause, 0x310, 0, 1, 0, 1⟩,
      ⟨.pkgElogBase, 0x400, 0, 1, 0, 1⟩,
      ⟨.pkgElogCfg, 0x408, 0, 1, 0, 1⟩,
      ⟨.pkgElogHead, 0x410, 0, 1, 0, 1⟩,
      ⟨.pkgElogTail, 0x418, 0, 1, 0, 1⟩,
      ⟨.pkgElogLost, 0x420, 0, 1, 0, 1⟩,
      ⟨.pkgVin, 0x500, 0, 1, 0, 1⟩,
      ⟨.pkgPwr, 0x508, 0, 1, 0, 1⟩,
      ⟨.pkgPwrPeak, 0x510, 0, 1, 0, 1⟩,
      ⟨.pkgEnergy, 0x518, 0, 1, 0, 1⟩,
      ⟨.pkgExc, 0x520, 0, 1, 0, 1⟩,
      ⟨.pkgTemp, 0x528, 0, 1, 0, 1⟩,
      ⟨.pkgThermSet, 0x530, 0, 1, 0, 1⟩,
      ⟨.pkgBmcCap, 0x538, 0, 1, 0, 1⟩,
      ⟨.pkgRail, 0x580, 0, 1, 8, 16⟩]
  | .time => [⟨.timeNow, 0x100, 0, 1, 0, 1⟩,
      ⟨.timeEpoch, 0x108, 0, 1, 0, 1⟩,
      ⟨.timePpsTs, 0x110, 0, 1, 0, 1⟩,
      ⟨.timeRate, 0x118, 0, 1, 0, 1⟩,
      ⟨.timeAlignOfs, 0x120, 0, 1, 0, 1⟩,
      ⟨.timeSet, 0x128, 0, 1, 0, 1⟩,
      ⟨.timeThrCnt, 0x130, 0, 1, 0, 1⟩,
      ⟨.timeThrNs, 0x138, 0, 1, 0, 1⟩,
      ⟨.timeThrLast, 0x140, 0, 1, 0, 1⟩,
      ⟨.timeAstrBase, 0x800, 0, 1, 0x20, 64⟩,
      ⟨.timeAstrCfg, 0x808, 0, 1, 0x20, 64⟩,
      ⟨.timeAstrTail, 0x810, 0, 1, 0x20, 64⟩,
      ⟨.timeAstrHead, 0x818, 0, 1, 0x20, 64⟩]
  | .sec => [⟨.secVerifyHdr, 0x100, 0, 1, 0, 1⟩,
      ⟨.secVerifyPay, 0x108, 0, 1, 0, 1⟩,
      ⟨.secVerifyCmd, 0x110, 0, 1, 0, 1⟩,
      ⟨.secVerifySts, 0x118, 0, 1, 0, 1⟩,
      ⟨.secWardenOk, 0x120, 0, 1, 0, 1⟩,
      ⟨.secLicSts, 0x180, 0, 1, 0, 1⟩,
      ⟨.secMlogSel, 0x200, 0, 1, 0, 1⟩,
      ⟨.secMlogInfo, 0x208, 0, 1, 0, 1⟩,
      ⟨.secMlogDig, 0x210, 0, 1, 8, 8⟩,
      ⟨.secRkeyCfg, 0x400, 0, 1, 8, 64⟩,
      ⟨.secRkeyK, 0x800, 0x20, 64, 8, 4⟩]
  | .host => [⟨.hostIrtBase, 0x100, 0, 1, 0, 1⟩,
      ⟨.hostCgrpClk, 0x108, 0, 1, 0, 1⟩,
      ⟨.hostHlRelease, 0x110, 0, 1, 0, 1⟩,
      ⟨.hostCoreRun, 0x118, 0, 1, 0, 1⟩,
      ⟨.hostCoreVec, 0x120, 0, 1, 0, 1⟩,
      ⟨.hostMbox, 0x800, 0, 1, 8, 32⟩]
  | .coh => [⟨.cohPortPrio, 0x100, 0, 1, 0, 1⟩,
      ⟨.cohDirInit, 0x108, 0, 1, 0, 1⟩,
      ⟨.cohArbCnt, 0x110, 0, 1, 0, 1⟩,
      ⟨.cohArbQocc, 0x118, 0, 1, 0, 1⟩,
      ⟨.cohNackCnt, 0x200, 0, 1, 0x40, 4⟩,
      ⟨.cohAgedCnt, 0x208, 0, 1, 0x40, 4⟩,
      ⟨.cohRecallCnt, 0x210, 0, 1, 0x40, 4⟩,
      ⟨.cohWbifCnt, 0x218, 0, 1, 0x40, 4⟩,
      ⟨.cohAtomCnt, 0x220, 0, 1, 0x40, 4⟩,
      ⟨.cohDirOcc, 0x228, 0, 1, 0x40, 4⟩,
      ⟨.cohBcastCnt, 0x230, 0, 1, 0x40, 4⟩]
  | .xlt => [⟨.xltFqBase, 0x100, 0, 1, 0, 1⟩,
      ⟨.xltFqHead, 0x108, 0, 1, 0, 1⟩,
      ⟨.xltFqTail, 0x110, 0, 1, 0, 1⟩,
      ⟨.xltFqOvf, 0x118, 0, 1, 0, 1⟩,
      ⟨.xltFqResolve, 0x120, 0, 1, 0, 1⟩,
      ⟨.xltLastFatal, 0x128, 0, 1, 0, 1⟩,
      ⟨.xltWalks, 0x130, 0, 1, 0, 1⟩,
      ⟨.xltGotBase, 0x200, 0, 1, 0, 1⟩,
      ⟨.xltGrpBase, 0x208, 0, 1, 0, 1⟩,
      ⟨.xltGotSync, 0x210, 0, 1, 0, 1⟩,
      ⟨.xltTlbInvVa, 0x218, 0, 1, 0, 1⟩,
      ⟨.xltTlbInv, 0x220, 0, 1, 0, 1⟩,
      ⟨.xltSyncSts, 0x228, 0, 1, 0, 1⟩]
  | .pcie => [⟨.pciePortCfg, 0x100, 0, 1, 0, 1⟩,
      ⟨.pcieLinkSts, 0x108, 0, 1, 0, 1⟩,
      ⟨.pcieOutBase, 0x110, 0, 1, 0, 1⟩,
      ⟨.pcieDtBase, 0x118, 0, 1, 0, 1⟩,
      ⟨.pcieEpBar2, 0x120, 0, 1, 0, 1⟩,
      ⟨.pcieEpVa, 0x128, 0, 1, 0, 1⟩,
      ⟨.pcieParkLimit, 0x130, 0, 1, 0, 1⟩,
      ⟨.pcieCplTimeout, 0x138, 0, 1, 0, 1⟩,
      ⟨.pcieLinkEvt, 0x140, 0, 1, 0, 1⟩,
      ⟨.pcieInReject, 0x148, 0, 1, 0, 1⟩]
  | .fix => [⟨.fixWrites, 0x100, 0, 1, 0, 1⟩,
      ⟨.fixHourCnt, 0x108, 0, 1, 0, 1⟩,
      ⟨.fixLastWorn, 0x110, 0, 1, 0, 1⟩,
      ⟨.fixStore, 0x1000, 0, 1, 8, 4096⟩,
      ⟨.fixWear, 0x9000, 0, 1, 8, 4096⟩]
  | .die => [⟨.dieSlotCfg, 0x100, 0, 1, 0x40, 8⟩,
      ⟨.dieSlotRing, 0x108, 0, 1, 0x40, 8⟩,
      ⟨.dieSlotTbl, 0x110, 0, 1, 0x40, 8⟩,
      ⟨.dieSlotSeal, 0x118, 0, 1, 0x40, 8⟩,
      ⟨.dieSlotSealmask, 0x120, 0, 1, 0x40, 8⟩,
      ⟨.dieSlotSts, 0x128, 0, 1, 0x40, 8⟩,
      ⟨.dieSlotKey, 0x130, 0, 1, 0x40, 8⟩,
      ⟨.dieSlotCnt, 0x138, 0, 1, 0x40, 8⟩,
      ⟨.dieSnapCfg, 0x400, 0, 1, 0x80, 8⟩,
      ⟨.dieSnapPeers, 0x408, 0, 1, 0x80, 8⟩,
      ⟨.dieSnapTbl, 0x410, 0, 1, 0x80, 8⟩,
      ⟨.dieSnapSts, 0x418, 0, 1, 0x80, 8⟩,
      ⟨.dieSnapOp, 0x420, 0, 1, 0x80, 8⟩,
      ⟨.dieSnapOpsts, 0x428, 0, 1, 0x80, 8⟩,
      ⟨.dieSnapLimit, 0x430, 0, 1, 0x80, 8⟩,
      ⟨.dieSnapDig, 0x440, 0x80, 8, 8, 8⟩]
  | .hbm => [⟨.hbmScrubCfg, 0x100, 0, 1, 0, 1⟩,
      ⟨.hbmScrubSts, 0x108, 0, 1, 0, 1⟩,
      ⟨.hbmCeCnt, 0x110, 0, 1, 0, 1⟩]
  | .opt => [⟨.optPeer, 0x100, 0, 1, 0, 1⟩,
      ⟨.optLambda, 0x108, 0, 1, 0, 1⟩,
      ⟨.optMargin, 0x110, 0, 1, 0, 1⟩,
      ⟨.optAsym, 0x118, 0, 1, 0, 1⟩,
      ⟨.optLinkCnt, 0x120, 0, 1, 0, 1⟩,
      ⟨.optDropCnt, 0x128, 0, 1, 0, 1⟩,
      ⟨.optFrameCnt, 0x130, 0, 1, 0, 1⟩,
      ⟨.optRtt, 0x138, 0, 1, 0, 1⟩,
      ⟨.optHcal, 0x200, 0, 1, 8, 8⟩,
      ⟨.optFabCfg, 0x400, 0, 1, 0, 1⟩,
      ⟨.optFabSts, 0x408, 0, 1, 0, 1⟩,
      ⟨.optRt, 0x800, 0, 1, 8, 256⟩]
  | .rgn => [⟨.rgnDvfs, 0x100, 0, 1, 0, 1⟩,
      ⟨.rgnDvfsCur, 0x108, 0, 1, 0, 1⟩,
      ⟨.rgnRstCtl, 0x300, 0, 1, 0, 1⟩,
      ⟨.rgnRstSts, 0x308, 0, 1, 0, 1⟩,
      ⟨.rgnFwBase, 0x310, 0, 1, 0, 1⟩,
      ⟨.rgnDlmCfg, 0x400, 0, 1, 0, 1⟩,
      ⟨.rgnDlmAddr, 0x408, 0, 1, 0, 1⟩,
      ⟨.rgnDlmPrevT, 0x410, 0, 1, 0, 1⟩,
      ⟨.rgnDlmPrevM, 0x418, 0, 1, 0, 1⟩,
      ⟨.rgnDlmProj, 0x420, 0, 1, 0, 1⟩,
      ⟨.rgnDlmLast, 0x428, 0, 1, 0, 1⟩]
  | .clu => [⟨.cluWin, 0x100, 0, 1, 8, 128⟩,
      ⟨.cluTlbLookup, 0x800, 0, 1, 0, 1⟩,
      ⟨.cluTlbMiss, 0x808, 0, 1, 0, 1⟩]
  | .dma => [⟨.dmaCh, 0x100, 0, 1, 8, 16⟩,
      ⟨.dmaBytes, 0x180, 0, 1, 0, 1⟩,
      ⟨.dmaPieces, 0x188, 0, 1, 0, 1⟩,
      ⟨.dmaParkCnt, 0x190, 0, 1, 0, 1⟩,
      ⟨.dmaMoveCyc, 0x198, 0, 1, 0, 1⟩]
  | .unit => [⟨.unitWdog, 0x100, 0, 1, 0, 1⟩,
      ⟨.unitRes, 0x108, 0, 1, 0, 1⟩,
      ⟨.unitVerdict, 0x110, 0, 1, 0, 1⟩,
      ⟨.unitTload0, 0x118, 0, 1, 0, 1⟩,
      ⟨.unitTload1, 0x120, 0, 1, 0, 1⟩,
      ⟨.unitTag, 0x180, 0, 1, 8, 16⟩,
      ⟨.unitQBase, 0x200, 0, 1, 0x18, 128⟩,
      ⟨.unitQCfg, 0x208, 0, 1, 0x18, 128⟩,
      ⟨.unitQPtr, 0x210, 0, 1, 0x18, 128⟩,
      ⟨.unitCrl, 0xE00, 0, 1, 8, 32⟩]
  | .arr => [⟨.arrPassCnt, 0x100, 0, 1, 0, 1⟩,
      ⟨.arrRowCnt, 0x108, 0, 1, 0, 1⟩,
      ⟨.arrFeedCyc, 0x110, 0, 1, 0, 1⟩,
      ⟨.arrGapCyc, 0x118, 0, 1, 0, 1⟩,
      ⟨.arrThrCyc, 0x120, 0, 1, 0, 1⟩,
      ⟨.arrMaskedCnt, 0x128, 0, 1, 0, 1⟩]
  | .vec => [⟨.vecElemCnt, 0x100, 0, 1, 0, 1⟩,
      ⟨.vecBusyCyc, 0x108, 0, 1, 0, 1⟩,
      ⟨.vecStallCyc, 0x110, 0, 1, 0, 1⟩,
      ⟨.vecSupprCnt, 0x118, 0, 1, 0, 1⟩,
      ⟨.vecDrainEnt, 0x120, 0, 1, 0, 1⟩,
      ⟨.vecDrainCyc, 0x128, 0, 1, 0, 1⟩]
  | .acc => [⟨.accOwn, 0x100, 0, 1, 0, 1⟩,
      ⟨.accHazWaitCyc, 0x108, 0, 1, 0, 1⟩,
      ⟨.accHazWaitMax, 0x110, 0, 1, 0, 1⟩,
      ⟨.accCeCnt, 0x118, 0, 1, 0, 1⟩]

/-- The fields of the error record window (R586). VALID is W1C and clears all four words. -/
def errFields : Nat → List FieldSpec
  | 0 => [⟨F.errQ0_VALID, .w1c, 0⟩, ⟨⟨63, 1⟩, .ro, 0⟩]
  | 1 => [⟨⟨55, 0⟩, .ro, 0⟩]
  | 2 => [⟨⟨7, 0⟩, .ro, 0⟩, ⟨⟨31, 16⟩, .ro, 0⟩, ⟨⟨63, 63⟩, .ro, 0⟩]
  | _ => [⟨⟨63, 0⟩, .ro, 0⟩]

/-- The fields of INJ (R593). -/
def injFields : List FieldSpec :=
  [⟨F.inj_ARM, .fw, 0⟩, ⟨F.inj_MODE, .fw, 0⟩, ⟨F.inj_BIT_A, .fw, 0⟩, ⟨F.inj_BIT_B, .fw, 0⟩, ⟨F.inj_TWO, .fw, 0⟩, ⟨F.inj_DET, .fw, 0⟩, ⟨F.inj_CTX, .fw, 0⟩, ⟨F.inj_CTX_EN, .fw, 0⟩]

/-- The field table of IRQ_STS of a page (R628 and the chapters' tables). -/
def Page.irqFields : Page → List FieldSpec
  | .pkg => [⟨F.pkgIrqSts_AVAIL_CHG, .w1c, 0⟩, ⟨F.pkgIrqSts_CTX_DOWN, .w1c, 0⟩, ⟨F.pkgIrqSts_CTX_DONE, .w1c, 0⟩, ⟨F.pkgIrqSts_PWR_LIMIT, .w1c, 0⟩, ⟨F.pkgIrqSts_RST_DONE, .w1c, 0⟩, ⟨F.pkgIrqSts_RST_IGNORED, .w1c, 0⟩, ⟨F.pkgIrqSts_ELOG_ADD, .w1c, 0⟩, ⟨F.pkgIrqSts_ELOG_LOST, .w1c, 0⟩, ⟨F.pkgIrqSts_FATAL, .w1c, 0⟩, ⟨F.pkgIrqSts_ERR_REC, .w1c, 0⟩]
  | .time => [⟨F.timeIrqSts_EVENTS, .w1c, 0⟩, ⟨F.timeIrqSts_ERR_REC, .w1c, 0⟩]
  | .sec => [⟨F.secIrqSts_EVENTS, .w1c, 0⟩, ⟨F.secIrqSts_ERR_REC, .w1c, 0⟩]
  | .host => [⟨F.hostIrqSts_EVENTS, .w1c, 0⟩, ⟨F.hostIrqSts_ERR_REC, .w1c, 0⟩]
  | .coh => [⟨F.cohIrqSts_EVENTS, .w1c, 0⟩, ⟨F.cohIrqSts_ERR_REC, .w1c, 0⟩]
  | .xlt => [⟨F.xltIrqSts_EVENTS, .w1c, 0⟩, ⟨F.xltIrqSts_ERR_REC, .w1c, 0⟩]
  | .pcie => [⟨F.pcieIrqSts_EVENTS, .w1c, 0⟩, ⟨F.pcieIrqSts_ERR_REC, .w1c, 0⟩]
  | .fix => [⟨F.fixIrqSts_EVENTS, .w1c, 0⟩, ⟨F.fixIrqSts_ERR_REC, .w1c, 0⟩]
  | .die => [⟨F.dieIrqSts_EVENTS, .w1c, 0⟩, ⟨F.dieIrqSts_SNAP_EVENTS, .w1c, 0⟩, ⟨F.dieIrqSts_ERR_REC, .w1c, 0⟩]
  | .hbm => [⟨F.hbmIrqSts_HOT, .w1c, 0⟩, ⟨F.hbmIrqSts_ERR_REC, .w1c, 0⟩]
  | .opt => [⟨F.optIrqSts_EVENTS, .w1c, 0⟩, ⟨F.optIrqSts_ERR_REC, .w1c, 0⟩]
  | .rgn => [⟨F.rgnIrqSts_DVFS_REFUSED, .w1c, 0⟩, ⟨F.rgnIrqSts_DVFS_DONE, .w1c, 0⟩, ⟨F.rgnIrqSts_RST_DONE, .w1c, 0⟩, ⟨F.rgnIrqSts_RST_IGNORED, .w1c, 0⟩, ⟨F.rgnIrqSts_ERR_REC, .w1c, 0⟩]
  | .clu => [⟨F.cluIrqSts_ERR_REC, .w1c, 0⟩]
  | .dma => [⟨F.dmaIrqSts_ERR_REC, .w1c, 0⟩]
  | .unit => [⟨F.unitIrqSts_TAIL_REJECT, .w1c, 0⟩, ⟨F.unitIrqSts_AT_REST, .w1c, 0⟩, ⟨F.unitIrqSts_TLOAD_REJECT, .w1c, 0⟩, ⟨F.unitIrqSts_CRL_OVF, .w1c, 0⟩, ⟨F.unitIrqSts_ERR_REC, .w1c, 0⟩]
  | .arr => [⟨F.arrIrqSts_ERR_REC, .w1c, 0⟩]
  | .vec => [⟨F.vecIrqSts_ERR_REC, .w1c, 0⟩]
  | .acc => [⟨F.accIrqSts_ERR_REC, .w1c, 0⟩]

/-- The field table of a block-specific register or of a page-specific head register. -/
def Page.ownFields (p : Page) (n : RegName) (k : Nat) : List FieldSpec :=
  match p, n with
  | .pkg, .cap => [⟨F.pkgCap_PART_CODE, .ro, 3⟩,
      ⟨F.pkgCap_CLK_CAP_MHZ, .ro, 1050⟩,
      ⟨F.pkgCap_TDP_W, .ro, 1400⟩,
      ⟨F.pkgCap_EXC_W, .ro, 1750⟩,
      ⟨F.pkgCap_INJ_SAFE, .ro, 2⟩]
  | .pkg, .ctl => [⟨F.pkgCtl_READY, .fw, 0⟩]
  | .pkg, .sts => [⟨F.pkgSts_CAP_CLAMP, .ro, 0⟩,
      ⟨F.pkgSts_MEM_DEGRADED, .ro, 0⟩,
      ⟨F.pkgSts_PWR_LIMIT, .ro, 0⟩,
      ⟨F.pkgSts_MAP_VALID, .ro, 0⟩,
      ⟨F.pkgSts_DIR_READY, .ro, 0⟩,
      ⟨F.pkgSts_BOOT_FAIL, .ro, 0⟩,
      ⟨F.pkgSts_D2D_DEAD, .ro, 0⟩,
      ⟨F.pkgSts_VIN_LOW, .ro, 0⟩]
  | .pkg, .safe => [⟨F.pkgSafe_PWR_W, .fw, 1400⟩]
  | .pkg, .pkgAvailUnit => [⟨F.pkgAvailUnit_UNIT, .ro, 0xFFFFFFFFFFFFFFFF⟩]
  | .pkg, .pkgAvailClu => [⟨F.pkgAvailClu_CLU, .ro, 0xFFFFFFFFFFFFFFFF⟩]
  | .pkg, .pkgAvailMisc => [⟨F.pkgAvailMisc_REGION, .ro, 4294967295⟩,
      ⟨F.pkgAvailMisc_STACK, .ro, 65535⟩,
      ⟨F.pkgAvailMisc_OPT_PORT, .ro, 255⟩,
      ⟨F.pkgAvailMisc_PCIE, .ro, 15⟩]
  | .pkg, .pkgAvailCore => [⟨F.pkgAvailCore_CORE, .ro, 0xFFFFFFFFFFFFFFFF⟩]
  | .pkg, .pkgAvailGen => [⟨F.pkgAvailGen_GEN, .ro, 0⟩,
      ⟨F.pkgAvailGen_LAST_LOC, .ro, 0⟩,
      ⟨F.pkgAvailGen_LAST_CAUSE, .ro, 0⟩]
  | .pkg, .pkgAvailRetire => [⟨F.pkgAvailRetire_LOC, .fw, 0⟩]
  | .pkg, .pkgCtxTbl => [⟨F.pkgCtxTbl_ADDR, .rw, 0⟩]
  | .pkg, .pkgCtxCmd => [⟨F.pkgCtxCmd_CTX, .wo, 0⟩,
      ⟨F.pkgCtxCmd_CMD, .wo, 0⟩]
  | .pkg, .pkgCtxCmdSts => [⟨F.pkgCtxCmdSts_CTX, .ro, 0⟩,
      ⟨F.pkgCtxCmdSts_CMD, .ro, 0⟩,
      ⟨F.pkgCtxCmdSts_BUSY, .ro, 0⟩,
      ⟨F.pkgCtxCmdSts_RESULT, .ro, 0⟩]
  | .pkg, .pkgPreemptLimit => [⟨F.pkgPreemptLimit_LIMIT_US, .rw, 0x2710⟩]
  | .pkg, .pkgPartMap => [⟨F.pkgPartMap_PART0, .fw, 0 + 8 * k⟩,
      ⟨F.pkgPartMap_PART1, .fw, 1 + 8 * k⟩,
      ⟨F.pkgPartMap_PART2, .fw, 2 + 8 * k⟩,
      ⟨F.pkgPartMap_PART3, .fw, 3 + 8 * k⟩,
      ⟨F.pkgPartMap_PART4, .fw, 4 + 8 * k⟩,
      ⟨F.pkgPartMap_PART5, .fw, 5 + 8 * k⟩,
      ⟨F.pkgPartMap_PART6, .fw, 6 + 8 * k⟩,
      ⟨F.pkgPartMap_PART7, .fw, 7 + 8 * k⟩]
  | .pkg, .pkgPartCur => [⟨F.pkgPartCur_PART0, .ro, 0 + 8 * k⟩,
      ⟨F.pkgPartCur_PART1, .ro, 1 + 8 * k⟩,
      ⟨F.pkgPartCur_PART2, .ro, 2 + 8 * k⟩,
      ⟨F.pkgPartCur_PART3, .ro, 3 + 8 * k⟩,
      ⟨F.pkgPartCur_PART4, .ro, 4 + 8 * k⟩,
      ⟨F.pkgPartCur_PART5, .ro, 5 + 8 * k⟩,
      ⟨F.pkgPartCur_PART6, .ro, 6 + 8 * k⟩,
      ⟨F.pkgPartCur_PART7, .ro, 7 + 8 * k⟩]
  | .pkg, .pkgRstCtl => [⟨F.pkgRstCtl_KIND, .fw, 0⟩,
      ⟨F.pkgRstCtl_REGION, .fw, 0⟩]
  | .pkg, .pkgRstSts => [⟨F.pkgRstSts_PART_BUSY, .ro, 0⟩]
  | .pkg, .pkgRstCause => [⟨F.pkgRstCause_LAST, .ro, 0⟩,
      ⟨F.pkgRstCause_DRAIN_LOST, .ro, 0⟩,
      ⟨F.pkgRstCause_WARM_CNT, .ro, 0⟩]
  | .pkg, .pkgElogBase => [⟨F.pkgElogBase_ADDR, .fw, 0⟩]
  | .pkg, .pkgElogCfg => [⟨F.pkgElogCfg_EN, .fw, 0⟩,
      ⟨F.pkgElogCfg_SIZE, .fw, 0xC⟩,
      ⟨F.pkgElogCfg_MIN_SEV, .fw, 0⟩]
  | .pkg, .pkgElogHead => [⟨F.pkgElogHead_HEAD, .rw, 0⟩]
  | .pkg, .pkgElogTail => [⟨F.pkgElogTail_TAIL, .ro, 0⟩]
  | .pkg, .pkgElogLost => [⟨F.pkgElogLost_COUNT, .ro, 0⟩]
  | .pkg, .pkgVin => [⟨F.pkgVin_MV, .ro, 0⟩,
      ⟨F.pkgVin_CURR, .ro, 0⟩]
  | .pkg, .pkgPwr => [⟨F.pkgPwr_NOW_W, .ro, 0⟩,
      ⟨F.pkgPwr_AVG_W, .ro, 0⟩]
  | .pkg, .pkgPwrPeak => [⟨F.pkgPwrPeak_PEAK_W, .ro, 0⟩,
      ⟨F.pkgPwrPeak_LONGEST_US, .ro, 0⟩]
  | .pkg, .pkgEnergy => [⟨F.pkgEnergy_MJ, .ro, 0⟩]
  | .pkg, .pkgExc => [⟨F.pkgExc_COUNT, .ro, 0⟩,
      ⟨F.pkgExc_LIMITED, .ro, 0⟩]
  | .pkg, .pkgTemp => [⟨F.pkgTemp_COMPUTE_C, .ro, 0⟩,
      ⟨F.pkgTemp_HOST_C, .ro, 0⟩,
      ⟨F.pkgTemp_HBM_C, .ro, 0⟩,
      ⟨F.pkgTemp_OPT_C, .ro, 0⟩]
  | .pkg, .pkgThermSet => [⟨F.pkgThermSet_LIMIT_C, .fw, 100⟩]
  | .pkg, .pkgBmcCap => [⟨F.pkgBmcCap_CAP_W, .ro, 0⟩]
  | .pkg, .pkgRail => [⟨F.pkgRail_MV, .ro, 0⟩,
      ⟨F.pkgRail_CURR, .ro, 0⟩,
      ⟨F.pkgRail_W, .ro, 0⟩]
  | .time, .ctl => [⟨F.timeCtl_SRC_CAND, .fw, 0⟩,
      ⟨F.timeCtl_PPS_EN, .fw, 1⟩]
  | .time, .sts => [⟨F.timeSts_REF_LOCK, .ro, 0⟩,
      ⟨F.timeSts_HOLDOVER, .ro, 0⟩,
      ⟨F.timeSts_PPS_VALID, .ro, 0⟩,
      ⟨F.timeSts_IS_SOURCE, .ro, 0⟩,
      ⟨F.timeSts_ALIGNED, .ro, 0⟩,
      ⟨F.timeSts_THROTTLED, .ro, 0⟩,
      ⟨F.timeSts_SET_PENDING, .ro, 0⟩,
      ⟨F.timeSts_SOURCE_PKG, .ro, 0⟩]
  | .time, .timeNow => [⟨F.timeNow_NS_FRAC, .ro, 0⟩]
  | .time, .timeEpoch => [⟨F.timeEpoch_WRAPS, .ro, 0⟩]
  | .time, .timePpsTs => [⟨F.timePpsTs_STAMP, .ro, 0⟩]
  | .time, .timeRate => [⟨F.timeRate_RATE, .ro, 0x10000⟩]
  | .time, .timeAlignOfs => [⟨F.timeAlignOfs_OFS_PS, .ro, 0⟩]
  | .time, .timeSet => [⟨F.timeSet_VALUE, .fw, 0⟩]
  | .time, .timeThrCnt => [⟨F.timeThrCnt_COUNT, .ro, 0⟩]
  | .time, .timeThrNs => [⟨F.timeThrNs_VALUE, .ro, 0⟩]
  | .time, .timeThrLast => [⟨F.timeThrLast_VALUE, .ro, 0⟩]
  | .time, .timeAstrBase => [⟨F.timeAstrBase_ADDR, .rw, 0⟩]
  | .time, .timeAstrCfg => [⟨F.timeAstrCfg_CTX, .rw, 0⟩,
      ⟨F.timeAstrCfg_SIZE, .rw, 4⟩,
      ⟨F.timeAstrCfg_ARM, .rw, 0⟩]
  | .time, .timeAstrTail => [⟨F.timeAstrTail_TAIL, .rw, 0⟩]
  | .time, .timeAstrHead => [⟨F.timeAstrHead_HEAD, .ro, 0⟩,
      ⟨F.timeAstrHead_LATE_CNT, .ro, 0⟩]
  | .sec, .sts => [⟨F.secSts_ID, .ro, 0⟩,
      ⟨F.secSts_SE_RUN, .ro, 0⟩]
  | .sec, .secVerifyHdr => [⟨F.secVerifyHdr_ADDR, .fw, 0⟩]
  | .sec, .secVerifyPay => [⟨F.secVerifyPay_ADDR, .fw, 0⟩]
  | .sec, .secVerifyCmd => [⟨F.secVerifyCmd_TYPE, .fw, 0⟩,
      ⟨F.secVerifyCmd_GO, .fw, 0⟩]
  | .sec, .secVerifySts => [⟨F.secVerifySts_BUSY, .ro, 0⟩,
      ⟨F.secVerifySts_RESULT, .ro, 0⟩,
      ⟨F.secVerifySts_TYPE, .ro, 0⟩,
      ⟨F.secVerifySts_VERSION_LO, .ro, 0⟩]
  | .sec, .secWardenOk => [⟨F.secWardenOk_VALID, .ro, 0⟩,
      ⟨F.secWardenOk_LEN64K, .ro, 0⟩,
      ⟨F.secWardenOk_ADDR, .ro, 0⟩]
  | .sec, .secLicSts => [⟨F.secLicSts_RESULT0, .ro, 1⟩,
      ⟨F.secLicSts_RESULT1, .ro, 1⟩,
      ⟨F.secLicSts_RESULT2, .ro, 1⟩,
      ⟨F.secLicSts_RESULT3, .ro, 1⟩,
      ⟨F.secLicSts_RESULT4, .ro, 1⟩,
      ⟨F.secLicSts_RESULT5, .ro, 1⟩,
      ⟨F.secLicSts_RESULT6, .ro, 1⟩,
      ⟨F.secLicSts_RESULT7, .ro, 1⟩,
      ⟨F.secLicSts_TIER_EFF, .ro, 0⟩,
      ⟨F.secLicSts_SIGN1_EFF, .ro, 0⟩,
      ⟨F.secLicSts_STORE_EFF, .ro, 0⟩]
  | .sec, .secMlogSel => [⟨F.secMlogSel_INDEX, .rw, 1⟩]
  | .sec, .secMlogInfo => [⟨F.secMlogInfo_INDEX, .ro, 1⟩,
      ⟨F.secMlogInfo_TYPE, .ro, 0⟩,
      ⟨F.secMlogInfo_COUNT, .ro, 0⟩]
  | .sec, .secMlogDig => [⟨F.secMlogDig_VALUE, .ro, 0⟩]
  | .sec, .secRkeyCfg => [⟨F.secRkeyCfg_CTX, .rw, 0⟩,
      ⟨F.secRkeyCfg_VALID, .rw, 0⟩]
  | .sec, .secRkeyK => [⟨F.secRkeyK_KEY, .wo, 0⟩]
  | .host, .sts => [⟨F.hostSts_CLK_BUSY, .ro, 0⟩]
  | .host, .hostIrtBase => [⟨F.hostIrtBase_ADDR, .rw, 0⟩]
  | .host, .hostCgrpClk => [⟨F.hostCgrpClk_CODE0, .fw, 0x10⟩,
      ⟨F.hostCgrpClk_CODE1, .fw, 0x10⟩,
      ⟨F.hostCgrpClk_CODE2, .fw, 0x10⟩,
      ⟨F.hostCgrpClk_CODE3, .fw, 0x10⟩,
      ⟨F.hostCgrpClk_CODE4, .fw, 0x10⟩,
      ⟨F.hostCgrpClk_CODE5, .fw, 0x10⟩,
      ⟨F.hostCgrpClk_CODE6, .fw, 0x10⟩,
      ⟨F.hostCgrpClk_CODE7, .fw, 0x10⟩]
  | .host, .hostHlRelease => [⟨F.hostHlRelease_QID, .wo, 0⟩]
  | .host, .hostCoreRun => [⟨F.hostCoreRun_RUN, .fw, 0⟩]
  | .host, .hostCoreVec => [⟨F.hostCoreVec_VEC, .fw, 0⟩]
  | .host, .hostMbox => [⟨F.hostMbox_DATA, .rw, 0⟩]
  | .coh, .ctl => [⟨F.cohCtl_MODE, .fw, 0⟩]
  | .coh, .sts => [⟨F.cohSts_MODE_CUR, .ro, 0⟩,
      ⟨F.cohSts_SWITCHING, .ro, 0⟩,
      ⟨F.cohSts_DIR_BUSY, .ro, 0⟩]
  | .coh, .cohPortPrio => [⟨F.cohPortPrio_RANK, .fw, 0xA9876543210⟩]
  | .coh, .cohDirInit => [⟨F.cohDirInit_HOME, .fw, 0⟩,
      ⟨F.cohDirInit_GO, .fw, 0⟩]
  | .coh, .cohArbCnt => [⟨F.cohArbCnt_COUNT, .ro, 0⟩]
  | .coh, .cohArbQocc => [⟨F.cohArbQocc_COUNT, .ro, 0⟩]
  | .coh, .cohNackCnt => [⟨F.cohNackCnt_COUNT, .ro, 0⟩]
  | .coh, .cohAgedCnt => [⟨F.cohAgedCnt_COUNT, .ro, 0⟩]
  | .coh, .cohRecallCnt => [⟨F.cohRecallCnt_COUNT, .ro, 0⟩]
  | .coh, .cohWbifCnt => [⟨F.cohWbifCnt_COUNT, .ro, 0⟩]
  | .coh, .cohAtomCnt => [⟨F.cohAtomCnt_COUNT, .ro, 0⟩]
  | .coh, .cohDirOcc => [⟨F.cohDirOcc_COUNT, .ro, 0⟩]
  | .coh, .cohBcastCnt => [⟨F.cohBcastCnt_COUNT, .ro, 0⟩]
  | .xlt, .sts => [⟨F.xltSts_FQ_HELD, .ro, 0⟩]
  | .xlt, .xltFqBase => [⟨F.xltFqBase_ADDR, .rw, 0⟩]
  | .xlt, .xltFqHead => [⟨F.xltFqHead_HEAD, .rw, 0⟩]
  | .xlt, .xltFqTail => [⟨F.xltFqTail_TAIL, .ro, 0⟩]
  | .xlt, .xltFqOvf => [⟨F.xltFqOvf_COUNT, .ro, 0⟩]
  | .xlt, .xltFqResolve => [⟨F.xltFqResolve_QID, .wo, 0⟩,
      ⟨F.xltFqResolve_FAIL, .wo, 0⟩]
  | .xlt, .xltLastFatal => [⟨F.xltLastFatal_RECORD, .ro, 0⟩]
  | .xlt, .xltWalks => [⟨F.xltWalks_COUNT, .ro, 0⟩]
  | .xlt, .xltGotBase => [⟨F.xltGotBase_ADDR, .rw, 0⟩]
  | .xlt, .xltGrpBase => [⟨F.xltGrpBase_ADDR, .rw, 0⟩]
  | .xlt, .xltGotSync => [⟨F.xltGotSync_FIRST, .wo, 0⟩,
      ⟨F.xltGotSync_COUNT, .wo, 0⟩,
      ⟨F.xltGotSync_ALL, .wo, 0⟩]
  | .xlt, .xltTlbInvVa => [⟨F.xltTlbInvVa_VA, .wo, 0⟩]
  | .xlt, .xltTlbInv => [⟨F.xltTlbInv_CTX, .wo, 0⟩,
      ⟨F.xltTlbInv_ALL_CTX, .wo, 0⟩,
      ⟨F.xltTlbInv_ALL_VA, .wo, 0⟩,
      ⟨F.xltTlbInv_PAGES, .wo, 0⟩]
  | .xlt, .xltSyncSts => [⟨F.xltSyncSts_GOT_BUSY, .ro, 0⟩,
      ⟨F.xltSyncSts_TLB_BUSY, .ro, 0⟩]
  | .pcie, .ctl => [⟨F.pcieCtl_DT_EN, .rw, 0⟩,
      ⟨F.pcieCtl_RO_EN, .rw, 1⟩,
      ⟨F.pcieCtl_SBR, .wo, 0⟩,
      ⟨F.pcieCtl_PERST_OUT, .rw, 1⟩]
  | .pcie, .pciePortCfg => [⟨F.pciePortCfg_MODE, .rwp, 0⟩,
      ⟨F.pciePortCfg_MAX_RATE, .rwp, 6⟩,
      ⟨F.pciePortCfg_MAX_WIDTH, .rwp, 4⟩]
  | .pcie, .pcieLinkSts => [⟨F.pcieLinkSts_STATE, .ro, 0⟩,
      ⟨F.pcieLinkSts_RATE, .ro, 0⟩,
      ⟨F.pcieLinkSts_WIDTH, .ro, 0⟩,
      ⟨F.pcieLinkSts_MODE_CUR, .ro, 0⟩,
      ⟨F.pcieLinkSts_FLIT, .ro, 0⟩,
      ⟨F.pcieLinkSts_BME, .ro, 0⟩]
  | .pcie, .pcieOutBase => [⟨F.pcieOutBase_ADDR, .rw, 0⟩]
  | .pcie, .pcieDtBase => [⟨F.pcieDtBase_ADDR, .rw, 0⟩]
  | .pcie, .pcieEpBar2 => [⟨F.pcieEpBar2_SIZE_LOG2, .rw, 0x24⟩]
  | .pcie, .pcieEpVa => [⟨F.pcieEpVa_VA, .rw, 0⟩]
  | .pcie, .pcieParkLimit => [⟨F.pcieParkLimit_US, .rw, 0x1F4⟩]
  | .pcie, .pcieCplTimeout => [⟨F.pcieCplTimeout_US, .rw, 0xC350⟩]
  | .pcie, .pcieLinkEvt => [⟨F.pcieLinkEvt_RECOVERY, .ro, 0⟩,
      ⟨F.pcieLinkEvt_DOWN, .ro, 0⟩]
  | .pcie, .pcieInReject => [⟨F.pcieInReject_UR, .ro, 0⟩,
      ⟨F.pcieInReject_CA, .ro, 0⟩]
  | .fix, .ctl => [⟨F.fixCtl_WARN, .fw, 0x2BF20⟩]
  | .fix, .sts => [⟨F.fixSts_BANK_BUSY, .ro, 0⟩]
  | .fix, .safe => [⟨F.fixSafe_GAP_S, .fw, 0x3C⟩,
      ⟨F.fixSafe_HOURLY, .fw, 0x400⟩]
  | .fix, .fixWrites => [⟨F.fixWrites_COUNT, .ro, 0⟩]
  | .fix, .fixHourCnt => [⟨F.fixHourCnt_COUNT, .ro, 0⟩]
  | .fix, .fixLastWorn => [⟨F.fixLastWorn_INDEX, .ro, 0⟩]
  | .fix, .fixStore => [⟨F.fixStore_DATA, .st, if 0x248 ≤ k ∧ k < 0x24C then 0x4C else 0⟩]
  | .fix, .fixWear => [⟨F.fixWear_COUNT, .ro, 0⟩,
      ⟨F.fixWear_WORN, .ro, 0⟩]
  | .die, .dieSlotCfg => [⟨F.dieSlotCfg_CTX, .rw, 0⟩,
      ⟨F.dieSlotCfg_HOP_UNIT, .rw, 0⟩,
      ⟨F.dieSlotCfg_CHUNK_LQ, .rw, 0⟩,
      ⟨F.dieSlotCfg_CTRL_LQ, .rw, 0⟩,
      ⟨F.dieSlotCfg_SEND_LINE, .rw, 0⟩,
      ⟨F.dieSlotCfg_SEAL_SLOT, .rw, 0⟩,
      ⟨F.dieSlotCfg_SEAL_SELF, .rw, 0⟩,
      ⟨F.dieSlotCfg_ARM, .rw, 0⟩]
  | .die, .dieSlotRing => [⟨F.dieSlotRing_P, .rw, 2⟩,
      ⟨F.dieSlotRing_POS, .rw, 0⟩,
      ⟨F.dieSlotRing_UP_PKG, .rw, 0⟩]
  | .die, .dieSlotTbl => [⟨F.dieSlotTbl_VA, .rw, 0⟩]
  | .die, .dieSlotSeal => [⟨F.dieSlotSeal_ADDR, .rw, 0⟩]
  | .die, .dieSlotSealmask => [⟨F.dieSlotSealmask_LINES, .rw, 0⟩]
  | .die, .dieSlotSts => [⟨F.dieSlotSts_STATE, .ro, 0⟩,
      ⟨F.dieSlotSts_PAR, .ro, 0⟩,
      ⟨F.dieSlotSts_VERDICT, .ro, 0⟩,
      ⟨F.dieSlotSts_BROKEN, .ro, 0⟩,
      ⟨F.dieSlotSts_ERR, .ro, 0⟩,
      ⟨F.dieSlotSts_CUR, .ro, 0⟩]
  | .die, .dieSlotKey => [⟨F.dieSlotKey_KEY, .ro, 0⟩]
  | .die, .dieSlotCnt => [⟨F.dieSlotCnt_ESC, .ro, 0⟩,
      ⟨F.dieSlotCnt_STALE, .ro, 0⟩,
      ⟨F.dieSlotCnt_LATE, .ro, 0⟩]
  | .die, .dieSnapCfg => [⟨F.dieSnapCfg_EN, .rw, 0⟩,
      ⟨F.dieSnapCfg_D1, .rw, 0⟩,
      ⟨F.dieSnapCfg_D2, .rw, 0⟩,
      ⟨F.dieSnapCfg_SNAP_LQ, .rw, 0⟩,
      ⟨F.dieSnapCfg_LINE1, .rw, 0⟩,
      ⟨F.dieSnapCfg_LINE2, .rw, 0⟩,
      ⟨F.dieSnapCfg_KEEP_HALF, .rw, 0⟩,
      ⟨F.dieSnapCfg_KEEP_VALID, .rw, 0⟩]
  | .die, .dieSnapPeers => [⟨F.dieSnapPeers_OWN1_PKG, .rw, 0⟩,
      ⟨F.dieSnapPeers_OWN2_PKG, .rw, 0⟩]
  | .die, .dieSnapTbl => [⟨F.dieSnapTbl_VA, .rw, 0⟩]
  | .die, .dieSnapSts => [⟨F.dieSnapSts_LAST_N, .ro, 0⟩,
      ⟨F.dieSnapSts_OPEN, .ro, 0⟩,
      ⟨F.dieSnapSts_DONE, .ro, 0⟩,
      ⟨F.dieSnapSts_ABANDON, .ro, 0⟩,
      ⟨F.dieSnapSts_SKIPPED, .ro, 0⟩,
      ⟨F.dieSnapSts_STALE, .ro, 0⟩]
  | .die, .dieSnapOp => [⟨F.dieSnapOp_OP, .wo, 0⟩,
      ⟨F.dieSnapOp_HALF, .wo, 0⟩,
      ⟨F.dieSnapOp_IMAGE, .wo, 0⟩,
      ⟨F.dieSnapOp_LINE, .wo, 0⟩,
      ⟨F.dieSnapOp_SRC_PKG, .wo, 0⟩,
      ⟨F.dieSnapOp_N, .wo, 0⟩]
  | .die, .dieSnapOpsts => [⟨F.dieSnapOpsts_BUSY, .ro, 0⟩,
      ⟨F.dieSnapOpsts_RESULT, .ro, 0⟩,
      ⟨F.dieSnapOpsts_OP, .ro, 0⟩,
      ⟨F.dieSnapOpsts_PROGRESS, .ro, 0⟩]
  | .die, .dieSnapLimit => [⟨F.dieSnapLimit_US, .rw, 0x3E8⟩]
  | .die, .dieSnapDig => [⟨F.dieSnapDig_DIGEST, .rw, 0⟩]
  | .hbm, .sts => [⟨F.hbmSts_TEMP_C, .ro, 0⟩,
      ⟨F.hbmSts_HOT, .ro, 0⟩]
  | .hbm, .safe => [⟨F.hbmSafe_TMAX_C, .fw, 95⟩]
  | .hbm, .hbmScrubCfg => [⟨F.hbmScrubCfg_EN, .fw, 1⟩,
      ⟨F.hbmScrubCfg_HOURS, .fw, 0x18⟩]
  | .hbm, .hbmScrubSts => [⟨F.hbmScrubSts_PASSES, .ro, 0⟩,
      ⟨F.hbmScrubSts_CORRECTED, .ro, 0⟩]
  | .hbm, .hbmCeCnt => [⟨F.hbmCeCnt_COUNT, .ro, 0⟩]
  | .opt, .ctl => [⟨F.optCtl_EN, .fw, 0⟩,
      ⟨F.optCtl_RETRAIN, .wo, 0⟩,
      ⟨F.optCtl_DEGRADE_OK, .fw, 1⟩]
  | .opt, .sts => [⟨F.optSts_STATE, .ro, 0⟩,
      ⟨F.optSts_REASON, .ro, 0⟩,
      ⟨F.optSts_DEGRADED, .ro, 0⟩,
      ⟨F.optSts_UPSTREAM, .ro, 0⟩]
  | .opt, .safe => [⟨F.optSafe_HEATER_MAX, .fw, 0xFFFF⟩]
  | .opt, .optPeer => [⟨F.optPeer_PKG_ID, .ro, 0⟩,
      ⟨F.optPeer_PORT, .ro, 0⟩,
      ⟨F.optPeer_VALID, .ro, 0⟩]
  | .opt, .optLambda => [⟨F.optLambda_TX, .ro, 0⟩,
      ⟨F.optLambda_RX, .ro, 0⟩]
  | .opt, .optMargin => [⟨F.optMargin_CODES, .ro, 0⟩]
  | .opt, .optAsym => [⟨F.optAsym_PS, .fw, 0⟩]
  | .opt, .optLinkCnt => [⟨F.optLinkCnt_CE, .ro, 0⟩,
      ⟨F.optLinkCnt_REPLAY, .ro, 0⟩]
  | .opt, .optDropCnt => [⟨F.optDropCnt_ROUTE_REFUSED, .ro, 0⟩,
      ⟨F.optDropCnt_CRED_LOST, .ro, 0⟩]
  | .opt, .optFrameCnt => [⟨F.optFrameCnt_TX, .ro, 0⟩,
      ⟨F.optFrameCnt_RX, .ro, 0⟩]
  | .opt, .optRtt => [⟨F.optRtt_PS, .ro, 0⟩]
  | .opt, .optHcal => [⟨F.optHcal_CODE0, .fw, 0⟩,
      ⟨F.optHcal_CODE1, .fw, 0⟩,
      ⟨F.optHcal_CODE2, .fw, 0⟩,
      ⟨F.optHcal_CODE3, .fw, 0⟩]
  | .opt, .optFabCfg => [⟨F.optFabCfg_PKG_ID, .fw, 0⟩,
      ⟨F.optFabCfg_FABRIC_ID, .fw, 0⟩,
      ⟨F.optFabCfg_SIZE, .fw, 1⟩,
      ⟨F.optFabCfg_TRANSIT_W, .fw, 8⟩]
  | .opt, .optFabSts => [⟨F.optFabSts_LIC_MAX, .ro, 256⟩,
      ⟨F.optFabSts_UNLICENSED, .ro, 0⟩]
  | .opt, .optRt => [⟨F.optRt_ENTRIES, .fw, 0⟩]
  | .rgn, .ctl => [⟨F.rgnCtl_WARDEN_RUN, .fw, 0⟩]
  | .rgn, .sts => [⟨F.rgnSts_DVFS_REFUSED, .ro, 0⟩]
  | .rgn, .safe => [⟨F.rgnSafe_CLK_MHZ, .fw, 1050⟩,
      ⟨F.rgnSafe_VMAX_MV, .fw, 900⟩]
  | .rgn, .rgnDvfs => [⟨F.rgnDvfs_CLK_CODE, .fw, 0⟩,
      ⟨F.rgnDvfs_CLK_EN, .fw, 0⟩,
      ⟨F.rgnDvfs_VOLT_CODE, .fw, 0⟩,
      ⟨F.rgnDvfs_VOLT_EN, .fw, 0⟩]
  | .rgn, .rgnDvfsCur => [⟨F.rgnDvfsCur_CLK_CODE, .ro, 0x1E⟩,
      ⟨F.rgnDvfsCur_VOLT_CODE, .ro, 0x1E⟩,
      ⟨F.rgnDvfsCur_BUSY, .ro, 0⟩,
      ⟨F.rgnDvfsCur_CLAMPED, .ro, 0⟩]
  | .rgn, .rgnRstCtl => [⟨F.rgnRstCtl_KIND, .fw, 0⟩,
      ⟨F.rgnRstCtl_CLUSTER, .fw, 0⟩,
      ⟨F.rgnRstCtl_UNIT, .fw, 0⟩]
  | .rgn, .rgnRstSts => [⟨F.rgnRstSts_UNIT_BUSY, .ro, 0⟩,
      ⟨F.rgnRstSts_CLU_BUSY, .ro, 0⟩]
  | .rgn, .rgnFwBase => [⟨F.rgnFwBase_ADDR, .fw, 0⟩]
  | .rgn, .rgnDlmCfg => [⟨F.rgnDlmCfg_CTX, .rw, 0⟩,
      ⟨F.rgnDlmCfg_EN, .rw, 0⟩,
      ⟨F.rgnDlmCfg_FALLBACK, .ro, 0⟩]
  | .rgn, .rgnDlmAddr => [⟨F.rgnDlmAddr_ADDR, .rw, 0⟩]
  | .rgn, .rgnDlmPrevT => [⟨F.rgnDlmPrevT_T_PREV, .ro, 0⟩]
  | .rgn, .rgnDlmPrevM => [⟨F.rgnDlmPrevM_M_PREV, .ro, 0⟩]
  | .rgn, .rgnDlmProj => [⟨F.rgnDlmProj_F, .ro, 0⟩]
  | .rgn, .rgnDlmLast => [⟨F.rgnDlmLast_CHECKS, .ro, 0⟩,
      ⟨F.rgnDlmLast_DECIDE_ID, .ro, 0⟩,
      ⟨F.rgnDlmLast_SWITCH, .ro, 0⟩]
  | .clu, .ctl => [⟨F.cluCtl_CNT_CLR, .wo, 0⟩]
  | .clu, .cluWin => [⟨F.cluWin_CTX, .rw, 0⟩,
      ⟨F.cluWin_VALID, .rw, 0⟩]
  | .clu, .cluTlbLookup => [⟨F.cluTlbLookup_COUNT, .ro, 0⟩]
  | .clu, .cluTlbMiss => [⟨F.cluTlbMiss_COUNT, .ro, 0⟩]
  | .dma, .ctl => [⟨F.dmaCtl_CNT_CLR, .wo, 0⟩]
  | .dma, .sts => [⟨F.dmaSts_HELD, .ro, 0⟩,
      ⟨F.dmaSts_PARKED, .ro, 0⟩]
  | .dma, .dmaCh => [⟨F.dmaCh_HELD, .ro, 0⟩,
      ⟨F.dmaCh_PARKED, .ro, 0⟩,
      ⟨F.dmaCh_PREFETCH, .ro, 0⟩,
      ⟨F.dmaCh_CTX, .ro, 0⟩,
      ⟨F.dmaCh_QID, .ro, 0⟩,
      ⟨F.dmaCh_SEQ, .ro, 0⟩]
  | .dma, .dmaBytes => [⟨F.dmaBytes_COUNT, .ro, 0⟩]
  | .dma, .dmaPieces => [⟨F.dmaPieces_COUNT, .ro, 0⟩]
  | .dma, .dmaParkCnt => [⟨F.dmaParkCnt_COUNT, .ro, 0⟩]
  | .dma, .dmaMoveCyc => [⟨F.dmaMoveCyc_COUNT, .ro, 0⟩]
  | .unit, .safe => [⟨F.unitSafe_WDOG_MAX, .fw, 0xFFFFFFFF⟩,
      ⟨F.unitSafe_WAIT_MAX, .fw, 0⟩]
  | .unit, .unitWdog => [⟨F.unitWdog_LIMIT, .rw, 0x1000000⟩,
      ⟨F.unitWdog_WAIT_LIMIT, .rw, 0⟩]
  | .unit, .unitRes => [⟨F.unitRes_CTX, .ro, 0⟩,
      ⟨F.unitRes_RESIDENT, .ro, 0⟩,
      ⟨F.unitRes_LAST_REST, .ro, 0⟩,
      ⟨F.unitRes_REST_REQ, .fw, 0⟩,
      ⟨F.unitRes_IS_AT_REST, .ro, 0⟩]
  | .unit, .unitVerdict => [⟨F.unitVerdict_ID, .fw, 0⟩,
      ⟨F.unitVerdict_VALID, .fw, 0⟩,
      ⟨F.unitVerdict_SWITCH, .fw, 0⟩,
      ⟨F.unitVerdict_SW_VALID, .fw, 0⟩,
      ⟨F.unitVerdict_SW_ID, .fw, 0⟩]
  | .unit, .unitTload0 => [⟨F.unitTload0_RING, .fw, 0⟩,
      ⟨F.unitTload0_LQ, .fw, 0⟩,
      ⟨F.unitTload0_SIZE, .fw, 0⟩]
  | .unit, .unitTload1 => [⟨F.unitTload1_NEXT_SEQ, .fw, 0⟩,
      ⟨F.unitTload1_COUNT, .fw, 0⟩]
  | .unit, .unitTag => [⟨F.unitTag_TAG, .ro, 0⟩,
      ⟨F.unitTag_OFS64, .ro, 0⟩,
      ⟨F.unitTag_LEN64, .ro, 0⟩]
  | .unit, .unitQBase => [⟨F.unitQBase_RING, .rw, 0⟩]
  | .unit, .unitQCfg => [⟨F.unitQCfg_CTX, .rw, 0⟩,
      ⟨F.unitQCfg_KIND, .rw, 0⟩,
      ⟨F.unitQCfg_SIZE, .rw, 0⟩,
      ⟨F.unitQCfg_EN, .rw, 0⟩,
      ⟨F.unitQCfg_NEXT_SEQ, .rw, 0⟩,
      ⟨F.unitQCfg_FB_VALID, .rw, 0⟩,
      ⟨F.unitQCfg_FB_IDX, .rw, 0⟩]
  | .unit, .unitQPtr => [⟨F.unitQPtr_HEAD, .ro, 0⟩,
      ⟨F.unitQPtr_TAIL, .rw, 0⟩,
      ⟨F.unitQPtr_DONE_SEQ, .ro, 0⟩,
      ⟨F.unitQPtr_STATE, .ro, 7⟩,
      ⟨F.unitQPtr_LAST_STATUS, .ro, 0⟩]
  | .unit, .unitCrl => [⟨F.unitCrl_DEST_PKG, .rw, 0⟩,
      ⟨F.unitCrl_DEST_Q, .rw, 0⟩,
      ⟨F.unitCrl_CTX, .rw, 0⟩,
      ⟨F.unitCrl_CREDITS, .ro, 0⟩,
      ⟨F.unitCrl_VALID, .rw, 0⟩]
  | .arr, .ctl => [⟨F.arrCtl_FRONT_EN, .fw, 1⟩,
      ⟨F.arrCtl_CNT_CLR, .wo, 0⟩]
  | .arr, .sts => [⟨F.arrSts_FEEDING, .ro, 0⟩,
      ⟨F.arrSts_FLUSHING, .ro, 0⟩,
      ⟨F.arrSts_MMA_WAIT, .ro, 0⟩]
  | .arr, .arrPassCnt => [⟨F.arrPassCnt_COUNT, .ro, 0⟩]
  | .arr, .arrRowCnt => [⟨F.arrRowCnt_COUNT, .ro, 0⟩]
  | .arr, .arrFeedCyc => [⟨F.arrFeedCyc_COUNT, .ro, 0⟩]
  | .arr, .arrGapCyc => [⟨F.arrGapCyc_COUNT, .ro, 0⟩]
  | .arr, .arrThrCyc => [⟨F.arrThrCyc_COUNT, .ro, 0⟩]
  | .arr, .arrMaskedCnt => [⟨F.arrMaskedCnt_COUNT, .ro, 0⟩]
  | .vec, .ctl => [⟨F.vecCtl_CNT_CLR, .wo, 0⟩]
  | .vec, .sts => [⟨F.vecSts_VEC_BUSY, .ro, 0⟩,
      ⟨F.vecSts_DRAIN_BUSY, .ro, 0⟩]
  | .vec, .vecElemCnt => [⟨F.vecElemCnt_COUNT, .ro, 0⟩]
  | .vec, .vecBusyCyc => [⟨F.vecBusyCyc_COUNT, .ro, 0⟩]
  | .vec, .vecStallCyc => [⟨F.vecStallCyc_COUNT, .ro, 0⟩]
  | .vec, .vecSupprCnt => [⟨F.vecSupprCnt_COUNT, .ro, 0⟩]
  | .vec, .vecDrainEnt => [⟨F.vecDrainEnt_COUNT, .ro, 0⟩]
  | .vec, .vecDrainCyc => [⟨F.vecDrainCyc_COUNT, .ro, 0⟩]
  | .acc, .ctl => [⟨F.accCtl_CNT_CLR, .wo, 0⟩]
  | .acc, .accOwn => [⟨F.accOwn_OWNED, .ro, 0⟩,
      ⟨F.accOwn_WANTED, .ro, 0⟩]
  | .acc, .accHazWaitCyc => [⟨F.accHazWaitCyc_COUNT, .ro, 0⟩]
  | .acc, .accHazWaitMax => [⟨F.accHazWaitMax_CYCLES, .ro, 0⟩]
  | .acc, .accCeCnt => [⟨F.accCeCnt_COUNT, .ro, 0⟩]
  | _, _ => []

/-- The die a page's block lies on: 0 to 3 a compute die, 4 the host die (R625, R627). -/
def Page.dieOf (p : Page) (i : Nat) : Nat :=
  match p with
  | .coh | .xlt | .die => i
  | .hbm => i / 4
  | .opt => i / 2
  | .rgn => i / 8
  | .clu | .dma => i / 32
  | .unit | .arr | .vec | .acc => i / 256
  | .pkg | .time | .sec | .host | .pcie | .fix => 4

/-- The field table of a register: its rows of the chapters' tables, the head's by R627, R628, R586 and R593. -/
def Reg.fields (r : Reg) : List FieldSpec :=
  match r.name with
  | .id => [⟨F.id_TYPE, .ro, r.page.typeCode⟩, ⟨F.id_VERSION, .ro, 1⟩, ⟨F.id_DIE, .ro, r.page.dieOf r.inst⟩,
      ⟨F.id_INSTANCE, .ro, r.inst⟩]
  | .cap => r.page.ownFields .cap 0 ++ (if r.page = .pkg then [] else
      [⟨F.capHead_INJ, .ro, bitNat (r.page.hasInj r.inst)⟩, ⟨F.capHead_SAFE, .ro, bitNat r.page.hasSafe⟩])
  | .irqSts => r.page.irqFields
  | .irqEn => r.page.irqFields.map (fun f => ⟨f.fld, .rw, 0⟩)
  | .errRec => errFields r.idx
  | .inj => if r.page.hasInj r.inst then injFields else []
  | n => r.page.ownFields n r.idx

/-- The reset value of a register: each field at the reset value its table gives (R638). -/
def Reg.reset (r : Reg) : Word :=
  BitVec.ofNat 64 ((r.fields.map (fun f => f.reset * 2 ^ f.fld.lo)).sum)

/-- The offset of a register in the register space (R625, R649). -/
def Reg.ofs (r : Reg) : Nat :=
  match (headLayout ++ r.page.layout).find? (fun p => p.name = r.name) with
  | some p => r.page.base r.inst + p.ofs + p.strideA * (r.idx / p.cntB) + p.strideB * (r.idx % p.cntB)
  | none => 0

/-- The index of the entry of a repeated group that lies at `ofs`, where one does. -/
def Place.index (p : Place) (ofs : Nat) : Option Nat :=
  if ofs < p.ofs then none
  else
    let d := ofs - p.ofs
    let a := if p.strideA = 0 then 0 else d / p.strideA
    let e := d - p.strideA * a
    let b := if p.strideB = 0 then 0 else e / p.strideB
    if a < p.cntA ∧ b < p.cntB ∧ e = p.strideB * b then some (a * p.cntB + b) else none

/-- The register at byte offset `ofs` of a page; none where R624 leaves the offset undefined. The fabric registers of
the OPT page exist at port 0 only (R649). -/
def Page.regAt (p : Page) (inst ofs : Nat) : Option Reg :=
  let ps := headLayout ++ (if p = .opt ∧ inst ≠ 0 then p.layout.filter (fun q => q.ofs < 0x400) else p.layout)
  ps.findSome? (fun q => (q.index ofs).map (fun k => ⟨p, inst, q.name, k⟩))

/-- A page of the register space: its kind, its instance and the offset within it. FIX is one page of 68 KiB here:
its head page and the 16 pages of R549. -/
structure PageAt where
  page : Page
  inst : Nat
  ofs : Nat
  deriving DecidableEq, Repr

/-- The block page of compute die `d` at offset `o` of the die's 512 KiB block (R625). -/
def diePageAt (d o : Nat) : Option PageAt :=
  let n := o / 0x1000
  let w := o % 0x1000
  if n = 0 then some ⟨.die, d, w⟩
  else if n = 1 then some ⟨.coh, d, w⟩
  else if n = 2 then some ⟨.xlt, d, w⟩
  else if 4 ≤ n ∧ n < 8 then some ⟨.hbm, 4 * d + (n - 4), w⟩
  else if 8 ≤ n ∧ n < 10 then some ⟨.opt, 2 * d + (n - 8), w⟩
  else if 0x10 ≤ n ∧ n < 0x18 then some ⟨.rgn, 8 * d + (n - 0x10), w⟩
  else if 0x20 ≤ n ∧ n < 0x40 then some ⟨.clu, 32 * d + (n - 0x20), w⟩
  else if 0x40 ≤ n ∧ n < 0x60 then some ⟨.dma, 32 * d + (n - 0x40), w⟩
  else none

/-- The page at an offset of the register space (R622, R625); none where R623 says nothing is there. -/
def pageAt (a : Nat) : Option PageAt :=
  let n := a / 0x1000
  let w := a % 0x1000
  if n = 0 then some ⟨.pkg, 0, w⟩
  else if n = 1 then some ⟨.time, 0, w⟩
  else if n = 2 then some ⟨.sec, 0, w⟩
  else if n = 3 then some ⟨.host, 0, w⟩
  else if n = 4 then some ⟨.coh, 4, w⟩
  else if n = 5 then some ⟨.xlt, 4, w⟩
  else if 8 ≤ n ∧ n < 12 then some ⟨.pcie, n - 8, w⟩
  else if 0x10 ≤ n ∧ n < 0x21 then some ⟨.fix, 0, a - 0x10000⟩
  else if 0x100 ≤ n ∧ n < 0x300 then diePageAt ((n - 0x100) / 0x80) (a - dieBlock ((n - 0x100) / 0x80))
  else if 0x400 ≤ n ∧ n < 0x1400 then
    let u := (n - 0x400) / 4
    match (n - 0x400) % 4 with
    | 0 => some ⟨.unit, u, w⟩
    | 1 => some ⟨.arr, u, w⟩
    | 2 => some ⟨.vec, u, w⟩
    | _ => some ⟨.acc, u, w⟩
  else none

/-- A register's key in the register file's order: page, instance, name, index. -/
def Reg.key (r : Reg) : Nat := Nat.pair (Nat.pair r.page.ctorIdx r.inst) (Nat.pair r.name.ctorIdx r.idx)

end Sys2Proof.Machine
end

