-- ==== Sys2Proof/Machine/State.lean ====
section
/-! DEFINITION. The state of the W1 as plain data: the register file, the memories, and every piece of state the spec
gives the package that no register shows, grouped by the chapter that gives it. -/

namespace Sys2Proof.Machine

/-! ## Coherent caches and homes (09_coherence.md) -/

/-- The states of a line held in a cache (R365); a line in I is not listed. -/
inductive LineState where
  | m | e | f | s
  /-- W: the write-back or eviction notice is out; dirty says which. -/
  | w (dirty : Bool)
  deriving DecidableEq, Repr

/-- A server core's copy of a line of its L3 slice (R363): the core, its cache (0: L1 instruction, 1: L1 data, 2: L2), its
state, and the context that brought it in (R364). Its bytes are the slice's. DESIGN CHOICE, log 95. -/
structure CoreCopy where
  core : Nat
  lvl : Nat
  st : LineState
  ctx : Option CtxId
  deriving DecidableEq, Repr

/-- A line in a region cache or an L3 slice: its state, the context that brought it in (none: SYS, R364), its bytes, the
inverted bits of its stored words (R574, R579), and the copies of the server cores inside a slice (R363). -/
structure CacheLine where
  st : LineState
  ctx : Option CtxId
  data : BitVec 1024
  err : List (Nat × BitVec 72)
  cores : List CoreCopy
  deriving DecidableEq, Repr

/-- A directory entry (R368): the sharers and the forwarder, or the owner. UNCACHED is absence. -/
inductive DirEntry where
  | shared (agents : List Nat) (fwd : Option Nat)
  | exclusive (owner : Nat)
  deriving DecidableEq, Repr

/-- A snoop a home has sent (R371). -/
inductive Snoop where
  | snpS | snpX | snpInv | snpCur
  deriving DecidableEq, Repr

/-- A snoop answer (R371). -/
inductive SnoopAns where
  | ackData | ackFwd | ack | miss | wbInflight
  deriving DecidableEq, Repr

/-- The grants of R373. -/
inductive Grant where
  | e | f | m
  deriving DecidableEq, Repr

/-- The bits of a line and the inverted bits of its stored words, as they move (R579). -/
structure LineData where
  bits : BitVec 1024
  err : List (Nat × BitVec 72)
  deriving DecidableEq, Repr

/-- How far a transaction has come (R369, R373, R389): it waits for an entry to be cleared first (a recall's victim, or its
own line's unknown owner), for the answers to its snoops, or for the requester's CMP_ACK. -/
inductive TxnPhase where
  | clear (victim : Nat) (unknown : Bool)
  | snoop
  | granted
  deriving DecidableEq, Repr

/-- A transaction at a home (R373, R374): its slot of the home's 256 (R368), its request, whether its line was UNCACHED when
it was accepted, the snoops still unanswered, the caches whose WB_INFLIGHT answer or whose write-back has come without the
other (R379), the caches whose write-back it has taken and not yet acknowledged, whether a cache has forwarded the data to
the requester, and the data that came to the home. -/
structure Txn where
  slot : Nat
  line : Nat
  kind : CohKind
  req : CohReq
  phase : TxnPhase
  wasUncached : Bool
  waiting : List Nat
  wbWait : List Nat
  wbIn : List Nat
  acks : List Nat
  forwarded : Bool
  dirty : Option LineData
  deriving DecidableEq, Repr

/-- The reasons of a refusal (R376). -/
inductive NackWhy where
  | busy | dirSet | slots | ageFull | modeSwitch
  deriving DecidableEq, Repr

/-- A message of the protocol on its way: a snoop (with the home as the target of its data or not), its answer, data from a
node (an agent, or 128 and the home's number), a grant (none: only data or the old value), a write-back or eviction notice,
and acknowledgements. -/
inductive CohMsg where
  | snoop (agent line : Nat) (k : Snoop) (home : Bool)
  | answer (agent line : Nat) (a : SnoopAns) (fwd : Bool) (data : Option LineData)
  | data (src agent line : Nat) (d : LineData)
  | grant (agent line : Nat) (g : Option Grant) (withData : Bool)
  | cmpAck (agent line : Nat)
  | wb (agent line : Nat)
  | wbAck (agent line : Nat)
  | nack (agent line : Nat) (why : NackWhy)
  deriving DecidableEq, Repr

/-- A request a requester has outstanding (R380): how often it was refused and when it may be sent again. -/
structure Outstanding where
  kind : CohKind
  req : CohReq
  nacks : Nat
  firstIssue : Word
  retryAt : Option Word
  deriving DecidableEq, Repr

/-- Every piece of the coherence protocol's state: the lines held (keyed by agent and line), the directories, the
transactions, the age queues, the messages on their way, the requests outstanding, the arbiter's queue, the mode change
in progress (R386), the inverted bits of damaged directory entries (R389, R576), and the lines in the order of their
directory entries' last use (R369). -/
structure Coherence where
  lines : List (Nat × CacheLine)
  dir : List (Nat × DirEntry)
  txns : List Txn
  ageQ : List (CohKind × CohReq)
  msgs : List CohMsg
  outstanding : List Outstanding
  arbQ : List (CohKind × CohReq)
  switchTo : Option Bool
  dirErr : List (Nat × BitVec 72)
  dirUse : List Nat
  deriving DecidableEq, Repr

/-! ## Translation and DMA (08_translation_and_protection.md) -/

/-- A cached translation (R337): the TLB that holds it (0 to 127 a cluster's, 128 + q that of PCIe port q), its context,
its page, its leaf bits, and the inverted bits of its stored word (R576). -/
structure TlbEntry where
  tlb : Nat
  ctx : Nat
  va : Nat
  size : Nat
  pa : Nat
  r : Bool
  w : Bool
  x : Bool
  c : Bool
  err : BitVec 72
  deriving DecidableEq, Repr

/-- A cached non-leaf entry of a walk cache (R337): the die, the context, the level of the table it points at, the
address bits above that level, the table's physical address, and the inverted bits of its stored word (R576). -/
structure WalkEntry where
  die : Nat
  ctx : Nat
  level : Nat
  tag : Nat
  table : Nat
  err : BitVec 72
  deriving DecidableEq, Repr

/-- A parked request (R341, R418): its die, the queue ID its record carries, the requester and the walk it waits for. -/
structure Park where
  die : Nat
  qid : Nat
  who : Requester
  ctx : Nat
  va : Nat
  access : AccessKind
  deriving DecidableEq, Repr

/-- A channel's command (R347): the queue, the sequence number, the command's bits, the buffer bases read at issue, the
bytes done, and the bytes of the next piece that outbound reads have brought. -/
structure Chan where
  u : Nat
  q : Nat
  seq : Nat
  ctx : Nat
  cmd : BitVec 512
  srcBase : Nat
  dstBase : Nat
  pos : Nat
  data : Option (List Byte)
  deriving DecidableEq, Repr

/-- A translation invalidation in progress (R338). -/
structure TlbInvJob where
  ctx : Nat
  allCtx : Bool
  va : Nat
  pages : Nat
  allVa : Bool
  deriving DecidableEq, Repr

/-- An owner-table sync in progress (R334). -/
structure GotSyncJob where
  first : Nat
  count : Nat
  all : Bool
  deriving DecidableEq, Repr

/-- Every piece of translation and DMA state that no register shows. -/
structure Xlate where
  tlb : List TlbEntry
  walkCache : List WalkEntry
  chans : List (Nat × Chan)
  parks : List Park
  latches : List (Nat × Nat × BitVec 256)
  gotSync : Option GotSyncJob
  tlbInv : Option TlbInvJob
  deriving DecidableEq, Repr

/-! ## Queues and contexts (07_queues_contexts_scheduling.md) -/

/-- A ring entry held by the sequencer at a queue's head: its bits, whether its header has passed R262, and the cadence
value since when its waits have been unmet (R277). -/
structure Head where
  entry : BitVec 512
  checked : Bool
  since : Word
  deriving DecidableEq, Repr

/-- Why a command queue issues nothing (R292, R296, R303). -/
inductive StopKind where
  /-- after a REST command, under REST_REQ, at a rest point -/
  | rest (id : Nat)
  /-- at a decision point, since a cadence value -/
  | decide (id : Nat) (since : Word)
  /-- W0 mode: before a command with FENCE -/
  | w0
  /-- not stopped: it resumed, and stops again after its REST command with this ID (R293) -/
  | toward (id : Nat)
  deriving DecidableEq, Repr

/-- The engines commands issue to (R260). -/
inductive Engine where
  | seq | array | drain | accEng | vec | dma
  deriving DecidableEq, Repr

/-- A wait entry that a command took at issue and that is freed when it completes (R268, R269). -/
structure Taken where
  q : Nat
  srcPkg : Nat
  srcUnit : Nat
  srcLine : Nat
  srcValid : Bool
  deriving DecidableEq, Repr

/-- How far an issued command has come. -/
inductive Stage where
  /-- issued; the engine has not taken it up -/
  | issued
  /-- validated: it waits to take the slot tokens of the mask, and has waited for tokens in so many cycles (R161 to R165) -/
  | tokens (mask : Nat) (waited : Nat)
  /-- works with the slots it owns; the cycle of its end is not known yet -/
  | working (mask : Nat)
  /-- runs with the slots it owns; the cycles in which it releases its tokens and completes are known -/
  | running (mask : Nat)
  /-- its work is done and its writes are performed; status and detail are as given -/
  | finished (status detail : Nat)
  /-- completed, with an earlier command of its queue still not complete (R267) -/
  | completed
  deriving DecidableEq, Repr

/-- How a vector command completes its elements and where it stalls (R208, R220, R223): the elements in all, those of a
full batch or row and the cycles that takes (0 where no element counts), and the cycles, from one to before another, in
which an instruction stalled. -/
structure VecPlan where
  elems : Nat
  unit : Nat
  per : Nat
  stalls : List (Nat × Nat)
  deriving DecidableEq, Repr

/-- An issued command (R263, R275), in issue order in the list that holds them: the entries it took, how far it has come,
the buffer-table entries it names as they stood at issue (R284), the cycles of its unit in which it was issued, was
validated, took its tokens, releases them and completes, its detail, and a vector command's plan. -/
structure Flight where
  u : Nat
  q : Nat
  seq : Nat
  ctx : Nat
  eng : Engine
  entry : BitVec 512
  taken : List Taken
  bufs : List (BitVec 128)
  stage : Stage
  begun : Bool
  issuedAt : Nat
  validAt : Nat
  claimAt : Nat
  relAt : Nat
  doneAt : Nat
  detail : Nat
  plan : VecPlan
  waitNs : Word
  deriving DecidableEq, Repr

/-- A token or message in a unit's send buffer (R270). -/
structure SendEntry where
  u : Nat
  line : Nat
  q : Nat
  seq : Nat
  ctx : Nat
  isMsg : Bool
  entry : BitVec 512
  since : Word
  deriving DecidableEq, Repr

/-- A token or message that has left its unit for a queue of this package (R273, R274). -/
structure InFlight where
  srcPkg : Nat
  srcUnit : Nat
  srcLine : Nat
  srcQ : Nat
  destQ : Nat
  lineCtx : Nat
  seq : Nat
  isMsg : Bool
  entry : BitVec 512
  deriving DecidableEq, Repr

/-- Credits on their way to a line of this package, from a unit, or from 1,024 and the die that an optical port is on: a
return, a grant (R271), or a refusal's return with its status and the queue that records it (R274). -/
structure CreditIn where
  src : Nat
  unit : Nat
  line : Nat
  count : Nat
  status : Nat
  srcQ : Nat
  grantFrom : Option (Nat × Nat × Nat)
  deriving DecidableEq, Repr

/-- What the warden and the command processor know of a context (R285, R286, R675): its state, the cause and place of
its teardown, the units saved, the rest point of each (R295), and when a PREEMPT began (R298). -/
structure CtxSt where
  state : Nat
  cause : Nat
  loc : Nat
  kill : Bool
  uncorr : Bool
  saved : List Nat
  rests : List (Nat × Nat)
  since : Word
  deriving DecidableEq, Repr

/-- The sequencers', send buffers' and contexts' state that no register shows. -/
structure Sched where
  heads : List (Nat × Head)
  stops : List (Nat × StopKind)
  flights : List Flight
  sendBuf : List SendEntry
  transit : List InFlight
  credits : List CreditIn
  ctxs : List (Nat × CtxSt)
  fbFetch : List Nat
  prov : List (Nat × List Taken)
  outPorts : List (Nat × List Nat)
  winTags : List (Nat × Nat)
  deriving DecidableEq, Repr

/-! ## The units' engines (04, 05, 06) -/

/-- A weight tile as the cells hold it (R139, R144): for each column the encodings of its elements, lane by lane, and the
scale codes of its lanes; an element that is not there is zero (R152). -/
structure WTile where
  elems : List (List Nat)
  scales : List (List Nat)
  deriving DecidableEq, Repr

/-- An MMA or CONV at its array (R144 to R149): its tile rows that are fed, how many are masked, its passes, and how far it
has come: loads begun, passes started, and rows of the latest pass that have entered. -/
structure ArrJob where
  q : Nat
  seq : Nat
  entry : BitVec 512
  claimAt : Nat
  rows : List Nat
  masked : Nat
  passes : Nat
  loaded : Nat
  begun : Nat
  next : Nat
  deriving DecidableEq, Repr

/-- What a command draws its random words from (R129, R132): the key it latched, its stream and its first counter. -/
structure Draw where
  key : Nat
  stream : Nat
  ctr : Nat
  deriving DecidableEq, Repr

/-- A DRAIN that reads (R192): its random words, the per-column operands it fetched, the cycle of its first read, and the
reads it has made. -/
structure DrainJob where
  q : Nat
  seq : Nat
  entry : BitVec 512
  draw : Draw
  scales : List Nat
  bias : List Nat
  first : Nat
  next : Nat
  deriving DecidableEq, Repr

/-- An output of the drain path that is still to be written (R194): the cycle it is written in, its byte offset, and its
bits as a number and how many they are. -/
structure DrainOut where
  q : Nat
  seq : Nat
  due : Nat
  ofs : Nat
  val : Nat
  bits : Nat
  deriving DecidableEq, Repr

/-- The engines of a unit, cycle by cycle (R141 to R149, R192, R194): the last cycle that has passed; the last weight loads
and pass starts with their tiles, newest first, which are what the shadow and the active weight registers hold (R144);
whether the last load was made with FRONT_EN at 0; the first cycle in which the next row may enter unthrottled; the cycles
in which rows entered while their lane sums are still in flight, and those of the last rows of passes not yet complete; the
commands at the array; the DRAIN that reads and the outputs still to be written; and for scratchpad bytes that the drain
path or the vector engine wrote lately, the cycle, doubled, and one more for the drain path (R196). -/
structure UnitEng where
  cyc : Nat
  loads : List (Nat × WTile)
  starts : List (Nat × WTile)
  slow : Bool
  free : Nat
  entered : List Nat
  tails : List Nat
  jobs : List ArrJob
  drain : Option DrainJob
  outs : List DrainOut
  wrote : List (Nat × Nat)
  deriving DecidableEq, Repr

/-- Engines that have done nothing. -/
def UnitEng.idle : UnitEng :=
  { cyc := 0, loads := [], starts := [], slow := false, free := 0, entered := [], tails := [], jobs := [], drain := none,
    outs := [], wrote := [] }

/-- The engines' state that no register shows: each unit's cycles, and the bytes a vector engine read in the cycle its
command began: the program image and the stream table (R216). -/
structure Engines where
  units : List (Nat × UnitEng)
  prog : List (Nat × List Byte × List Byte)
  deriving DecidableEq, Repr

/-! ## Power, resets and bring-up (01, 14, 18) -/

/-- A clock and voltage request, after the clamp (R36, R643). -/
structure DvfsReq where
  clkEn : Bool
  clk : Nat
  voltEn : Bool
  volt : Nat
  clamped : Bool
  deriving DecidableEq, Repr

/-- How far an accepted change has come (R39): its parts still to come, in order (true: the clock, false: the voltage), and
the tick at which the first of them began. -/
structure DvfsProg where
  left : List Bool
  since : Nat
  deriving DecidableEq, Repr

/-- STATE of the management target (R662). -/
inductive PkgState where
  | held | booting | ready | bootFail | offPrep | safeOff | powerFail | thermTrip
  deriving DecidableEq, Repr

/-- The steps of a cold reset (R536); C5 and C8 are per stack. -/
inductive ColdStep where
  | c1 | c2 | c3 | c4 | c5 (stack : Nat) | c6 | c7 | c8 (stack : Nat) | c9 | c10 | c11
  deriving DecidableEq, Repr

/-- The steps of a package reset (R546). -/
inductive WarmStep where
  | w1 | w2 | w3 | w4 | w5
  deriving DecidableEq, Repr

/-- A reset in progress: its block, its drydown's beginning, and whether the drydown has ended (R564 to R567). -/
structure ResetRun where
  block : ResetBlock
  since : Word
  drained : Bool
  deriving DecidableEq, Repr

/-- Power, reset and bring-up state (`failed`: the location codes that the start-up tests named; `broken`: the blocks without
a bit in the map that have failed at run time, R64), and the management target's registers (R661, R662). -/
structure Platform where
  st : PkgState
  rails : Bool
  thermTripPin : Bool
  resetLow : Bool
  vinOk : Bool
  powerWindow : List Nat
  runUs : Nat
  accepted : List (Nat × Nat)
  dvfsRun : List (Nat × DvfsReq)
  dvfsHeld : List (Nat × DvfsReq)
  dvfsProg : List (Nat × DvfsProg)
  thermLimit : Bool
  capClamped : List Nat
  capW : Nat
  vinLost : Bool
  coldWait : Bool
  coldRun : List ColdStep
  coldDone : List ColdStep
  failed : List Nat
  broken : List Loc
  warmRun : List WarmStep
  warmDone : List WarmStep
  optKept : List Nat
  resets : List ResetRun
  offPrep : Bool
  bootTries : Nat
  perstHold : Bool
  keepersRun : Bool
  mgmtLast : Nat
  mgmtStop : Nat
  mgmtDrainLost : Bool
  mgmtAddr : Option Nat
  strap : Nat
  ibi : List Nat
  deriving DecidableEq, Repr

/-! ## The cadence (02_cadence_and_time.md) -/

/-- An anchor token that waits at the time base for room in its queue (R88): the queue, the stream's
context as the entry fired, and the entry's words. -/
structure AnchorTok where
  qid : Nat
  ctx : Nat
  time : Word
  action : Nat
  param0 : Word
  param1 : Word
  deriving DecidableEq, Repr

/-- The time base's state that no register shows: its clock ticks (by which the intervals of R76, R78 and R97 are
measured), waiting tokens by stream, the candidate and the last valid PPS edge (R76), since when a SET is pending (R78),
the throttle's phase (R95 to R97: 0 full issue, 1 asserted, 2 quarter issue after release, 3 half issue), the offset still
to be removed by slewing (R77, R80), the cadence source last known (R83), and
whether the package has joined its fabric's cadence (R82). -/
structure TimeSt where
  ticks : Nat
  waiting : List (Nat × AnchorTok)
  cand : Option Nat
  lastEdge : Option Nat
  setSince : Nat
  thrPhase : Nat
  thrSince : Nat
  slew : Int
  source : Option Nat
  joined : Bool
  deriving DecidableEq, Repr

/-! ## The optical ports (11_optical_fabric.md) -/

/-- A MSG frame (R439, R440). -/
structure MsgFrame where
  destPkg : Nat
  destQ : Nat
  srcPkg : Nat
  srcUnit : Nat
  srcLine : Nat
  hops : Nat
  opcode : Nat
  seq : Nat
  ctx : Nat
  srcLq : Nat
  body : BitVec 384
  deriving DecidableEq, Repr

/-- A CREDIT frame (R439, R441). -/
structure CreditFrame where
  destPkg : Nat
  unit : Nat
  line : Nat
  srcPkg : Nat
  hops : Nat
  count : Nat
  status : Nat
  lq : Nat
  deriving DecidableEq, Repr

/-- A HELLO (R442). -/
structure Hello where
  fabric : Nat
  pkg : Nat
  port : Nat
  size : Nat
  licMax : Nat
  candPkg : Nat
  candHops : Nat
  candValid : Bool
  armed : Bool
  ready : Bool
  reason : Nat
  deriving DecidableEq, Repr

/-- A frame other than IDLE (R437). -/
inductive Frame where
  | msg (m : MsgFrame)
  | credit (c : CreditFrame)
  | hello (h : Hello)
  | cadReq (xchg : Nat)
  | cadRsp (xchg : Nat) (upOfs : BitVec 32) (t2 t3 : Word)
  deriving DecidableEq, Repr

/-- A port's state that no register shows: frames ready by virtual channel, frames sent and not acknowledged, the
sequence numbers, whether any frame has been received, the buffer credits held, gaps and replays, its last HELLO, its exchange with
the offset from the source that it gave (in ps × 131072), the words it has put on the
fibre, latest last, and its rings' heater codes (transmit rings first). -/
structure OptPort where
  ready : List Frame
  unacked : List (Nat × Frame)
  txSeq : Nat
  rxSeq : Nat
  rxAny : Bool
  credits : List Nat
  nakSent : Bool
  nakDue : Bool
  toReturn : List Nat
  ackPending : Nat
  replays : Nat
  since : Word
  peer : Option Hello
  heard : Word
  xchg : Nat
  t1 : Option Word
  exchanged : Bool
  rtt : Nat
  ofs : Option Int
  wire : List (List Word)
  heaters : List Nat
  deriving DecidableEq, Repr

/-- A port as it is when it leaves OFF: full buffer credits (R443), sequence numbers at 0 (R455). -/
def OptPort.fresh : OptPort :=
  { ready := [], unacked := [], txSeq := 0, rxSeq := 0, rxAny := false, credits := [8192, 512, 64], nakSent := false, nakDue := false,
    toReturn := [0, 0, 0], ackPending := 0, replays := 0, since := 0, peer := none, heard := 0, xchg := 0, t1 := none,
    exchanged := false, rtt := 0, ofs := none, wire := [], heaters := [] }

/-! ## PCIe ports (10_host_die_and_pcie.md) -/

/-- Who made an outbound request: a command of a queue, a fetch of a queue's ring, a core by its location code, an interrupt
message (R401), a ring slot, or the warden core of a region. -/
inductive OutOwner where
  | cmd (u q seq : Nat)
  | fetch (u q : Nat)
  | core (loc : Nat)
  | msi
  | slot (k : Nat)
  | warden (r : Nat)
  deriving DecidableEq, Repr

/-- An outbound write the port has not yet had acknowledged (R411, R421), with the context and the page (its device base and
its size) that it was translated through, where it was. -/
structure OutWrite where
  addr : Nat
  data : List Byte
  ro : Bool
  owner : OutOwner
  via : Option (Nat × Nat × Nat)
  deriving DecidableEq, Repr

/-- An outbound read awaiting completion, likewise; a zero-length one is the flush read of R421. -/
structure OutRead where
  addr : Nat
  len : Nat
  owner : OutOwner
  since : Word
  via : Option (Nat × Nat × Nat)
  deriving DecidableEq, Repr

/-- An inbound request parked at a piece, or one that waits behind it (R417). -/
structure InPark where
  req : PcieReq
  ctx : Nat
  done : Nat
  got : List Byte
  parked : Bool
  since : Word
  deriving DecidableEq, Repr

/-- A port's state that no register shows: requests under way, inbound requests parked or waiting, the completions sent (a
PCIe completion status and the data), the configuration space an outside host writes, the MSI-X table and its pending
bits, the size of BAR2 in force (R429), and the link limits in force (R406). -/
structure PciePort where
  outW : List OutWrite
  outR : List OutRead
  parked : List InPark
  sent : List (Nat × List Byte)
  cfg : List (Nat × BitVec 32)
  msix : List (Nat × Word)
  pba : Nat
  bar2 : Nat
  limRate : Nat
  limWidth : Nat
  deriving DecidableEq, Repr

/-- A port with nothing under way. -/
def PciePort.idle : PciePort :=
  { outW := [], outR := [], parked := [], sent := [], cfg := [], msix := [], pba := 0, bar2 := 36, limRate := 6, limWidth := 4 }

/-! ## Ring slots and snapshots (12, 13) -/

/-- The transfer a slot works on: its table entry and the bases of its buffers as read (R471), whether its ready word has
matched (R481), the round and the chunk next in R480's order (round 0 sends local data, later rounds take a chunk from
upstream, the last is not sent), and its capture field's offset (R507). -/
structure Xfer where
  entry : BitVec 512
  src : Nat
  dst : Nat
  scl : Nat
  sil : Nat
  ready : Bool
  round : Nat
  chunk : Nat
  field : Nat
  deriving DecidableEq, Repr

/-- A chunk of which the header entry has been taken (R474): its payload entries still to come and those taken, and whether
it is being discarded (R483). -/
structure RxChunk where
  hdr : BitVec 512
  left : Nat
  got : List (BitVec 512)
  stale : Bool
  deriving DecidableEq, Repr

/-- An entry a slot is to send (R468, R491): its line, whether it is a MSG entry, whether it must wait for its phase's
window (R482), whether it begins its chunk, and its body. -/
structure SlotOut where
  line : Nat
  isMsg : Bool
  gated : Bool
  first : Bool
  body : BitVec 384
  deriving DecidableEq, Repr

/-- An open snapshot (R506, R509): its step, its half, image (0, 0) and the stride, the bytes of each image's state stream,
where the streams begin, the regions of this slot's own state, whether the all-gather of the step is being or has been
captured, PAR at the capture's end, and the state entries written into each image. -/
structure SnapSt where
  step : Nat
  base : Nat
  stride : Nat
  bytes : List Nat
  stateOfs : Nat
  regions : List (Nat × Nat)
  capturing : Bool
  captured : Bool
  par : Nat
  next : List Nat
  deriving DecidableEq, Repr

/-- A snapshot operation (R518): the word that started it, its entries sent or received, when it last moved, its final
entry's marker where that has come or gone, whether its marker has been checked or zeroed, and whether an outbound write of
it was lost. -/
structure SnapOp where
  word : Word
  next : Nat
  since : Word
  marker : Option (List Byte)
  ready : Bool
  lost : Bool
  deriving DecidableEq, Repr

/-- A ring slot's state that no register shows. -/
structure SlotSt where
  sent : Nat
  disarm : Bool
  rsOpen : Bool
  agOpen : Bool
  xfer : Option Xfer
  rx : Option RxChunk
  out : List SlotOut
  sealSent : Bool
  sealBack : Bool
  verdict : Nat
  capOfs : Nat
  snap : Option SnapSt
  op : Option SnapOp
  fetched : List (Nat × List Byte)
  deriving DecidableEq, Repr

/-- A slot with nothing under way. -/
def SlotSt.idle : SlotSt :=
  { sent := 0, disarm := false, rsOpen := false, agOpen := false, xfer := none, rx := none, out := [], sealSent := false,
    sealBack := false, verdict := 0, capOfs := 0, snap := none, op := none, fetched := [] }

/-! ## Errors, the store and the die-to-die links (14, 15) -/

/-- A store write that waits for its bank or is being programmed (R553). -/
structure StoreJob where
  idx : Nat
  value : Word
  deriving DecidableEq, Repr

/-- A die-to-die link (R584, R585): how often the oldest flit of each direction has arrived damaged, the retrainings that
failed in a row, its state, and the flits delivered. -/
structure D2dLink where
  toFar : Nat
  toNear : Nat
  fails : Nat
  retraining : Bool
  dead : Bool
  delivered : Nat
  deriving DecidableEq, Repr

/-- The store's programming and the die-to-die links. -/
structure Repair where
  jobs : List (Nat × StoreJob)
  waits : List StoreJob
  lastChange : List (Nat × Word)
  hour : Nat
  links : List (Nat × D2dLink)
  scrub : List (Nat × Nat)
  deriving DecidableEq, Repr

/-! ## Security (16) -/

/-- A verification in progress (R606): the type being loaded, the header's and the payload's address. -/
structure VerifyJob where
  type : Nat
  hdr : Nat
  pay : Nat
  deriving DecidableEq, Repr

/-- What an SPDM response carries (R618, R619). A signed response is signed with the identity key whose public half is
named; the layout of the messages is DSP0274's. -/
inductive SpdmAnswer where
  | version (major minor : Nat)
  | capabilities (cert chal : Bool) (meas ctExponent : Nat)
  | algorithms (ed25519 sha512 : Bool)
  | digests (slotMask : Nat) (chain : BitVec 512)
  | certificate (bytes : List Byte) (remainder : Nat)
  | challengeAuth (chain : BitVec 512) (nonce : BitVec 256) (key : BitVec 256)
  | measurements (count : Nat) (blocks : List (Nat × Nat × BitVec 512)) (key : Option (BitVec 256))
  /-- an ERROR response: Busy, Unspecified, InvalidRequest or UnsupportedRequest -/
  | busy | unspecified | invalidRequest | unsupportedRequest
  deriving DecidableEq, Repr

/-- The instructions of the test access port (R668). -/
inductive TapInstr where
  | bypass | idcode | samplePreload | extest | highz | clamp
  deriving DecidableEq, Repr

/-- The test access port: its instruction, the boundary register, and the pins last sampled. -/
structure Tap where
  instr : TapInstr
  boundary : List Bool
  sampled : List Bool
  deriving DecidableEq, Repr

/-- The security engine's state that no register shows: the seed store (R609), the measurement registers (R616), a
verification in progress, the SPDM responses sent (R618), and the test access port (R668). -/
structure Security where
  seed : Option (BitVec 256)
  meas : List (Nat × BitVec 512 × Nat)
  verify : Option VerifyJob
  answers : List SpdmAnswer
  tap : Tap
  deriving DecidableEq, Repr

/-! ## Interrupts and the host die (10) -/

/-- What an access of a core or an outside host came to: its data, its end without data, an exception, or a read under
way. -/
inductive AccResult where
  | data (bs : List Byte)
  | done
  | loadFault | storeFault | fetchFault
  | illegal | virtualInstr
  | waiting
  deriving DecidableEq, Repr

/-- Interrupt messages due, the pending bits of the IMSIC files (key 256 × (9 × hart + file) + identity, R403), the local
lines raised at keeper and warden cores, each hart's sctxbind (R395), where each released core started (R542), what
each agent's last access came to, and the bytes that outbound reads brought to warden cores (R412), by region and address. -/
structure HostSt where
  irqDue : List (Page × Nat)
  imsic : List Nat
  lines : List (Nat × Nat × Nat)
  sctx : List (Nat × Word)
  starts : List (Nat × Nat)
  results : List (Nat × AccResult)
  wread : List (Nat × List Byte)
  deriving DecidableEq, Repr

/-! ## The state -/

/-- The state of the W1, with the queue of the commands that wait, first in, first out. -/
structure State where
  pending : List Instr
  regs : List (Reg × Word)
  mem : List Host.Cell
  errs : List (Nat × BitVec 72)
  spad : List Host.Cell
  acc : List (Nat × AccWord)
  coh : Coherence
  xl : Xlate
  sch : Sched
  eng : Engines
  plat : Platform
  rep : Repair
  sec : Security
  host : HostSt
  pcie : List (Nat × PciePort)
  time : TimeSt
  opt : List (Nat × OptPort)
  slots : List (Nat × SlotSt)
  fresh : Nat
  deriving DecidableEq, Repr

/-- The faults a step can end in: the spec gives every command of the block an effect, so there is none. -/
inductive Fault where
  deriving DecidableEq, Repr

/-- The refusals a step can end in. -/
inductive Refusal where
  /-- No meaning yet for a command; raised by the dispatch only. Safe. -/
  | notModelled (mnemonic : String)
  deriving DecidableEq, Repr

/-- The machine right after reset: every register at its reset value, the memories with nothing listed, no traffic under
way, the package powered and running. DESIGN CHOICE, log 4. -/
def State.reset : State where
  pending := []
  regs := []
  mem := []
  errs := []
  spad := []
  acc := []
  coh := { lines := [], dir := [], txns := [], ageQ := [], msgs := [], outstanding := [], arbQ := [], switchTo := none,
           dirErr := [], dirUse := [] }
  xl := { tlb := [], walkCache := [], chans := [], parks := [], latches := [], gotSync := none, tlbInv := none }
  sch := { heads := [], stops := [], flights := [], sendBuf := [], transit := [], credits := [], ctxs := [],
           fbFetch := [], prov := [], outPorts := [], winTags := [] }
  eng := { units := [], prog := [] }
  plat := { st := .booting, rails := true, thermTripPin := false, resetLow := false, vinOk := true, powerWindow := [],
            runUs := 0, accepted := [], dvfsRun := [], dvfsHeld := [], dvfsProg := [], thermLimit := false, capClamped := [],
            capW := 0, vinLost := false, coldWait := false, coldRun := [],
            coldDone := [], failed := [], broken := [], warmRun := [], warmDone := [], optKept := [], resets := [], offPrep := false, bootTries := 0,
            perstHold := false, keepersRun := true, mgmtLast := 0, mgmtStop := 0, mgmtDrainLost := false,
            mgmtAddr := none, strap := 0, ibi := [] }
  rep := { jobs := [], waits := [], lastChange := [], hour := 0, links := [], scrub := [] }
  sec := { seed := none, meas := [], verify := none, answers := [],
           tap := { instr := .idcode, boundary := [], sampled := [] } }
  host := { irqDue := [], imsic := [], lines := [], sctx := [], starts := [], results := [], wread := [] }
  pcie := []
  time := { ticks := 0, waiting := [], cand := none, lastEdge := none, setSince := 0, thrPhase := 0, thrSince := 0,
            slew := 0, source := none, joined := false }
  opt := []
  slots := []
  fresh := 0

end Sys2Proof.Machine
end

