-- ==== Sys2Proof/Machine/Ops.lean ====
section
/-! DEFINITION. The named operations over the register file and the plain parts of the state: register and field reads
and writes, counters, the cadence, the numbering of blocks (R48 to R56), availability (R57) and reset state. -/

namespace Sys2Proof.Machine

/-! ## Registers -/

/-- A register's stored word. -/
def State.reg (s : State) (r : Reg) : Word := Sparse.get r.reset s.regs r

/-- A register takes a word. -/
def State.setReg (s : State) (r : Reg) (v : Word) : State :=
  { s with regs := Sparse.set Reg.key r.reset s.regs r v }

/-- A field's value. -/
def State.fld (s : State) (r : Reg) (f : Fld) : Nat := f.get (s.reg r)

/-- Whether a one-bit field is 1. -/
def State.bit (s : State) (r : Reg) (f : Fld) : Bool := s.fld r f == 1

/-- A field takes a value; the register's other bits stay. -/
def State.setFld (s : State) (r : Reg) (f : Fld) (n : Nat) : State := s.setReg r (f.put (s.reg r) n)

/-- A counter field advances by `n`, wrapping at its width. -/
def State.addFld (s : State) (r : Reg) (f : Fld) (n : Nat) : State := s.setFld r f (s.fld r f + n)

/-- A counter field advances by `n`, saturating. -/
def State.satFld (s : State) (r : Reg) (f : Fld) (n : Nat) : State :=
  s.setFld r f (min (s.fld r f + n) (2 ^ f.width - 1))

/-- Bit `i` of a register. -/
def State.regBit (s : State) (r : Reg) (i : Nat) : Bool := natBit (s.reg r).toNat i

/-- Bit `i` of a register takes a value. -/
def State.setBit (s : State) (r : Reg) (i : Nat) (b : Bool) : State := s.setFld r ⟨i, i⟩ (bitNat b)

/-- Every register of a page instance returns to its reset value, but for those `keep` names. -/
def State.resetPages (s : State) (scope : Reg → Bool) : State :=
  { s with regs := s.regs.filter (fun e => !scope e.1) }

/-! ## Lists by key -/

/-- The value listed under a key, where one is. -/
def lookupKey {α : Type} (m : List (Nat × α)) (k : Nat) : Option α := (m.find? (fun e => e.1 = k)).map (·.2)

/-- The list with a key's value removed. -/
def eraseKey {α : Type} (m : List (Nat × α)) (k : Nat) : List (Nat × α) := Sparse.drop m k

/-- The list with a key's value put in place. -/
def insertKey {α : Type} (m : List (Nat × α)) (k : Nat) (v : α) : List (Nat × α) :=
  Sparse.insert id (Sparse.drop m k) k v

/-- The first index below `n` that a test accepts. -/
def findBelow (n : Nat) (p : Nat → Bool) : Option Nat := (List.range n).find? p

/-! ## The cadence -/

/-- TIME.NOW: cadence nanoseconds and their fraction (R70). -/
def State.now (s : State) : Word := s.reg R.timeNow

/-- TIME.NOW as a die holds it (R74): the host die's counter, or a compute die's replica, within 1 ns of it by a free
difference. Before the first tick after power-on every replica is the counter. DESIGN CHOICE, log 86. -/
def State.nowAt (s : State) (die : Nat) : Word :=
  if 4 ≤ die ∨ s.time.ticks = 0 then s.now
  else s.now + BitVec.ofInt 64 ((Config.replicaOfs die s.time.ticks % 131073 : Nat) - 65536)

/-- The nanoseconds of a cadence value (R70). -/
def nsOf (w : Word) : Nat := w.toNat / 2 ^ 16

/-- The signed difference of two cadence values (R72), as fractions of a nanosecond. -/
def cadenceDiff (a b : Word) : Int := (a - b).toInt

/-- Nanoseconds of cadence time from `since` to now. DESIGN CHOICE, log 6. -/
def State.elapsedNs (s : State) (since : Word) : Nat := (cadenceDiff s.now since / 65536).toNat

/-- A fresh index for a free value; it advances a plain counter. DESIGN CHOICE, log 83. -/
def State.takeFresh (s : State) : Nat × State := (s.fresh, { s with fresh := s.fresh + 1 })

/-! ## Numbers and location codes (R48 to R56) -/

/-- The region of a unit. -/
def unitRegion (u : Nat) : Nat := u / 32

/-- The cluster of a unit. -/
def unitCluster (u : Nat) : Nat := u / 8

/-- The compute die of a unit. -/
def unitDie (u : Nat) : Nat := u / 256

/-- A queue ID (R51). -/
def queueId (u q : Nat) : Nat := u * 128 + q

/-- The location code of a unit-level block (R54, R55). -/
def locUnit (u blk : Nat) : Loc := BitVec.ofNat 16 (u * 32 + blk)

/-- The location code of a cluster-level block (R54, R55). -/
def locCluster (c blk : Nat) : Loc := BitVec.ofNat 16 (c * 256 + blk)

/-- The location code of a region-level block (R54, R55). -/
def locRegion (r blk : Nat) : Loc := BitVec.ofNat 16 (r * 1024 + blk)

/-- The location code of a die-level block with its sub-index (R54, R55). -/
def locDie (d sub blk : Nat) : Loc := BitVec.ofNat 16 (d * 8192 + sub * 32 + blk)

/-- The location code of a host-die block with its host index (R54, R56). -/
def locHost (blk idx : Nat) : Loc := BitVec.ofNat 16 (4 * 8192 + idx * 32 + blk)

/-- The location code of a stack and its controller. -/
def locStack (st : Nat) : Loc := locDie (st / 4) (st % 4) 0x18

/-- The location code of the time base. -/
def timeLoc : Loc := locHost 6 0

/-- The location code of an agent (R55, R56). -/
def agentLoc : Agent → Loc
  | .server c => locHost 0 c
  | .keeper k => locHost 2 k
  | .warden r => locRegion r 0x10
  | .pcieHost q => locHost 5 q

/-- The die that an agent is on (R637). -/
def agentDie : Agent → Nat
  | .warden r => r.val / 8
  | _ => 4

/-- The block that owns a page, as a record about an access to the page names it (R677). -/
def pageLoc (p : Page) (i : Nat) : Loc :=
  match p with
  | .pkg | .host => locHost 8 0
  | .coh => if i = 4 then locHost 8 0 else locDie i 0 0x18
  | .xlt => if i = 4 then locHost 8 0 else locDie i 0 0x19
  | .die => locDie i 0 0x19
  | .time => locHost 6 0
  | .sec => locHost 4 0
  | .fix => locHost 3 0
  | .pcie => locHost 5 i
  | .hbm => locStack i
  | .opt => locDie (i / 2) (i % 2) 0x1A
  | .rgn => locRegion i 0x12
  | .clu | .dma => locCluster i 8
  | .unit => locUnit i 0
  | .arr => locUnit i 1
  | .vec => locUnit i 2
  | .acc => locUnit i 4

/-- The pages whose FW fields a warden may write (R637). -/
def wardenPage : Page → Bool
  | .rgn | .clu | .dma | .unit | .arr | .vec | .acc => true
  | _ => false

/-- Whether an agent's write to an FW field of a page is accepted (R16, R637). -/
def fwAllowed (a : Agent) (p : Page) : Bool :=
  match a with
  | .keeper _ => true
  | .warden _ => wardenPage p
  | _ => false

/-! ## Availability (R57, R58) -/

/-- Whether a cold reset has not yet established the availability map (R536, R59): until C10 no block counts as unavailable. -/
def State.mapOpen (s : State) : Bool := s.plat.coldRun.any (fun x => x != .c9 && x != .c11)

/-- Whether a unit is available. -/
def State.unitAvail (s : State) (u : Nat) : Bool := s.mapOpen || s.regBit (R.pkgAvailUnit (u / 64)) (u % 64)
/-- Whether a cluster is available. -/
def State.cluAvail (s : State) (c : Nat) : Bool := s.mapOpen || s.regBit (R.pkgAvailClu (c / 64)) (c % 64)
/-- Whether a region is available. -/
def State.rgnAvail (s : State) (r : Nat) : Bool := s.mapOpen || s.regBit R.pkgAvailMisc r
/-- Whether a stack is available. -/
def State.stackAvail (s : State) (k : Nat) : Bool := s.mapOpen || s.regBit R.pkgAvailMisc (32 + k)
/-- Whether an optical port is available. -/
def State.optAvail (s : State) (p : Nat) : Bool := s.mapOpen || s.regBit R.pkgAvailMisc (48 + p)
/-- Whether a PCIe port is available. -/
def State.pcieAvail (s : State) (q : Nat) : Bool := s.mapOpen || s.regBit R.pkgAvailMisc (56 + q)
/-- Whether a server core is available. -/
def State.coreAvail (s : State) (c : Nat) : Bool := s.mapOpen || s.regBit R.pkgAvailCore c

/-! ## Blocks in reset (R564, R567) -/

/-- Whether a reset in progress covers a unit. -/
def ResetBlock.hasUnit (b : ResetBlock) (u : Nat) : Bool :=
  match b with
  | .unit v => v.val == u
  | .cluster c => c.val == u / 8
  | .region r => r.val == u / 32
  | .package => true

/-- Whether a reset in progress covers a cluster's own blocks. -/
def ResetBlock.hasCluster (b : ResetBlock) (c : Nat) : Bool :=
  match b with
  | .unit _ => false
  | .cluster d => d.val == c
  | .region r => r.val == c / 4
  | .package => true

/-- Whether a reset in progress covers a region's own blocks. -/
def ResetBlock.hasRegion (b : ResetBlock) (r : Nat) : Bool :=
  match b with
  | .region q => q.val == r
  | .package => true
  | _ => false

/-- Whether a reset in progress covers the block of a page. -/
def ResetBlock.hasPage (b : ResetBlock) (p : Page) (i : Nat) : Bool :=
  match p with
  | .unit | .arr | .vec | .acc => b.hasUnit i
  | .clu | .dma => b.hasCluster i
  | .rgn => b.hasRegion i
  | _ => b == .package

/-- Whether a unit is in reset. -/
def State.unitInReset (s : State) (u : Nat) : Bool := s.plat.resets.any (fun r => r.block.hasUnit u)
/-- Whether a cluster is in reset. -/
def State.cluInReset (s : State) (c : Nat) : Bool := s.plat.resets.any (fun r => r.block.hasCluster c)
/-- Whether a region is in reset. -/
def State.rgnInReset (s : State) (r : Nat) : Bool := s.plat.resets.any (fun x => x.block.hasRegion r)
/-- Whether the block of a page is in reset. -/
def State.pageInReset (s : State) (p : Page) (i : Nat) : Bool := s.plat.resets.any (fun r => r.block.hasPage p i)

/-- Whether the block of a page is available; blocks without a bit in the map always are (R64). -/
def State.pageAvail (s : State) (p : Page) (i : Nat) : Bool :=
  match p with
  | .unit | .arr | .vec | .acc => s.unitAvail i
  | .clu | .dma => s.cluAvail i
  | .rgn => s.rgnAvail i
  | .hbm => s.stackAvail i
  | .opt => s.optAvail i
  | .pcie => s.pcieAvail i
  | _ => true

/-- Whether the package's agents act: power is on and no stop, hold or cold-reset step C1 keeps them still (R535, R652,
R659). -/
def State.running (s : State) : Bool :=
  s.plat.rails && !s.plat.thermTripPin && !s.plat.resetLow && !s.plat.coldWait && !s.plat.coldRun.contains .c1

/-- Whether a page does not answer: the package is stopped, or the page's block is in reset or unavailable (R100, R564). -/
def State.pageGone (s : State) (p : Page) (i : Nat) : Bool := !s.running || s.pageInReset p i || !s.pageAvail p i

/-- Whether a block without a bit in the availability map has failed since the last cold reset (R64). -/
def State.broken (s : State) (loc : Loc) : Bool := s.plat.broken.contains loc

/-- Whether a block without a bit in the map does its work: the package runs, and the block has not failed. Requests that
need a failed block wait (R64). DEDUCED, log 82. -/
def State.works (s : State) (loc : Loc) : Bool := s.running && !s.broken loc

/-- Whether writes to a page go nowhere: it does not answer, or a block that the map does not list owns it and has failed, so
that the write waits (R64, R100, R564). DEDUCED, log 82. -/
def State.pageDead (s : State) (p : Page) (i : Nat) : Bool := s.pageGone p i || s.broken (pageLoc p i)

/-- Whether a unit takes and does work: the package runs and the unit is available and out of reset. -/
def State.unitLive (s : State) (u : Nat) : Bool := s.running && s.unitAvail u && !s.unitInReset u

/-! ## The units' memories (R26, R288) -/

/-- The key of a scratchpad byte. -/
def spadKey (u ofs : Nat) : Nat := u * 0x180000 + ofs

/-- The key of an accord entry. -/
def accKey (u e : Nat) : Nat := u * 8192 + e

/-- The key of the inverted bits of a scratchpad word. -/
def spadErrKey (u ofs : Nat) : Nat := 2 ^ 60 + (u * 0x180000 + ofs) / 8

/-- The key of the inverted bits of a limb of an accord entry. -/
def accErrKey (u e limb : Nat) : Nat := 2 ^ 61 + (u * 8192 + e) * 16 + limb

/-- A unit's scratchpad becomes zero. -/
def State.clearSpad (s : State) (u : Nat) : State :=
  { s with spad := s.spad.filter (fun e => e.1 / 0x180000 != u)
           errs := s.errs.filter (fun e => !(decide (2 ^ 60 ≤ e.1) && decide (e.1 < 2 ^ 61) && (e.1 - 2 ^ 60) / 0x30000 == u)) }

/-- Every accord entry of a unit becomes FINITE zero. -/
def State.clearAcc (s : State) (u : Nat) : State :=
  { s with acc := s.acc.filter (fun e => e.1 / 8192 != u)
           errs := s.errs.filter (fun e => !(decide (2 ^ 61 ≤ e.1) && (e.1 - 2 ^ 61) / 131072 == u)) }

/-! ## Byte strings -/

/-- A little-endian number from bytes. -/
def bytesToNat : List Byte → Nat
  | [] => 0
  | b :: bs => b.toNat + 256 * bytesToNat bs

/-- The first `k` bytes of a number, little-endian. -/
def natToBytes : Nat → Nat → List Byte
  | 0, _ => []
  | k + 1, n => BitVec.ofNat 8 n :: natToBytes k (n / 256)

/-- Bytes [o, o + len) of a bit string of whole bytes, as a number. -/
def bvBytes {w : Nat} (v : BitVec w) (o len : Nat) : Nat := v.toNat / 2 ^ (8 * o) % 2 ^ (8 * len)

end Sys2Proof.Machine
end

