-- ==== Sys2Proof/Machine/Operands.lean ====
section
/-! DEFINITION. The operand forms: the fields of a 64-byte ring entry's header (R259), of the control command bodies
(R278), of token bodies (R265), of endpoints (R349) and of tables read as 64-bit words. -/

namespace Sys2Proof.Machine

/-- Bits [hi:lo] of the field word of `n` bytes at byte `o` of an entry. -/
def entBits (e : BitVec 512) (o hi lo : Nat) : Nat := e.toNat / 2 ^ (8 * o + lo) % 2 ^ (hi + 1 - lo)

/-- One bit of the field word at byte `o` of an entry. -/
def entBit (e : BitVec 512) (o i : Nat) : Bool := entBits e o i i == 1

/-- Whether every bit of bytes [o, o + n) of an entry is 0 except those the mask names. -/
def entReserved (e : BitVec 512) (o n mask : Nat) : Bool :=
  Nat.land (bvBytes e o n) (2 ^ (8 * n) - 1 - mask) == 0

namespace Ent

/-- OPCODE. -/
def opcode (e : BitVec 512) : Nat := entBits e 0 7 0
/-- FENCE. -/
def fence (e : BitVec 512) : Bool := entBit e 0 8
/-- REST. -/
def rest (e : BitVec 512) : Bool := entBit e 0 9
/-- DECIDE. -/
def decide (e : BitVec 512) : Bool := entBit e 0 10
/-- CTX. -/
def ctx (e : BitVec 512) : Nat := entBits e 0 27 16
/-- SEQ. -/
def seq (e : BitVec 512) : Nat := entBits e 0 47 28
/-- The queues of the enabled waits, WAIT0 first. -/
def waits (e : BitVec 512) : List Nat :=
  (if entBit e 0 55 then [entBits e 0 54 48] else []) ++ (if entBit e 0 63 then [entBits e 0 62 56] else [])
/-- SRC_PKG. -/
def srcPkg (e : BitVec 512) : Nat := entBits e 8 11 0
/-- SRC_UNIT. -/
def srcUnit (e : BitVec 512) : Nat := entBits e 8 21 12
/-- SRC_LINE. -/
def srcLine (e : BitVec 512) : Nat := entBits e 8 26 22
/-- SRC_VALID. -/
def srcValid (e : BitVec 512) : Bool := entBit e 8 27
/-- DONE_LINE. -/
def doneLine (e : BitVec 512) : Nat := entBits e 8 32 28
/-- DONE_EN. -/
def doneEn (e : BitVec 512) : Bool := entBit e 8 33
/-- REST_ID. -/
def restId (e : BitVec 512) : Nat := entBits e 8 49 34
/-- Whether a reserved header bit is 1 (R259). -/
def reservedHeader (e : BitVec 512) : Bool := entBits e 0 15 11 != 0 || entBits e 8 63 50 != 0
/-- Whether a SRC field is not zero (R262 check 2). -/
def srcNonzero (e : BitVec 512) : Bool := entBits e 8 27 0 != 0

end Ent

/-- The engine that a command opcode issues to; none for an opcode that is no command (R260). -/
def engineOf (op : Nat) : Option Engine :=
  match op with
  | 0x08 | 0x09 | 0x0A | 0x0B | 0x0C | 0x0D => some .seq
  | 0x20 | 0x24 => some .array
  | 0x21 | 0x22 | 0x23 | 0x29 => some .accEng
  | 0x28 => some .drain
  | 0x30 | 0x31 | 0x32 | 0x33 => some .vec
  | 0x40 | 0x42 => some .dma
  | _ => none

/-- An entry made from its header words and its 48 body bytes as a number. -/
def mkEntry (w0 w1 body : Nat) : BitVec 512 := BitVec.ofNat 512 (w0 % 2 ^ 64 + w1 % 2 ^ 64 * 2 ^ 64 + body * 2 ^ 128)

/-- The header of a delivered entry (R261): kind, context, sequence number and source line. -/
def deliveredEntry (op ctx seq srcPkg srcUnit srcLine : Nat) (srcValid : Bool) (body : Nat) : BitVec 512 :=
  mkEntry (op + ctx * 2 ^ 16 + seq * 2 ^ 28) (srcPkg + srcUnit * 2 ^ 12 + srcLine * 2 ^ 22 + bitNat srcValid * 2 ^ 27)
    body

/-- The body of a completion token (R265). -/
def tokenBody (seq opcode status detail : Nat) (fin : Word) (lq : Nat) : Nat :=
  (seq + opcode * 2 ^ 20) + (status + detail * 2 ^ 8) * 2 ^ 32 + fin.toNat * 2 ^ 64 + lq * 2 ^ 128

/-- The body of an entry, bytes 16 to 63, as a number. -/
def entryBody (e : BitVec 512) : Nat := e.toNat / 2 ^ 128

/-- The bytes of an entry. -/
def entryBytes (e : BitVec 512) : List Byte := natToBytes 64 e.toNat

/-- An entry from bytes. -/
def entryOf (bs : List Byte) : BitVec 512 := BitVec.ofNat 512 (bytesToNat bs)

end Sys2Proof.Machine
end

