-- ==== Sys2Proof/Machine/Memory.lean ====
section
/-! DEFINITION. Package memory as every agent sees it (R42): the physical map (R315 to R318), the check code (R574,
R575), the current value of a line wherever it is held (R361, R365), and reads and writes of bytes at their home. -/

namespace Sys2Proof.Machine

/-! ## The physical map (R315, R317, R318) -/

/-- The ranges of the physical map. -/
inductive Range where
  | keeper | cluMem | regs | hbm | pcie (port : Nat) | reserved
  deriving DecidableEq, Repr

/-- The base of HBM. -/
def hbmBase : Nat := 0x10000000000

/-- The base of the register space. -/
def regBase : Nat := 0xF00000000

/-- The base of the cluster memory aperture. -/
def cluMemBase : Nat := 0x100000000

/-- The base of the PCIe outbound windows. -/
def pcieBase : Nat := 0x80000000000

/-- The range an address lies in. -/
def rangeOf (pa : Nat) : Range :=
  if pa < 0x1000000 then .keeper
  else if cluMemBase ≤ pa ∧ pa < 0x140000000 then .cluMem
  else if regBase ≤ pa ∧ pa < 0x1000000000 then .regs
  else if hbmBase ≤ pa ∧ pa < 0x1C000000000 then .hbm
  else if pcieBase ≤ pa ∧ pa < 0xC0000000000 then .pcie ((pa - pcieBase) / 0x10000000000)
  else .reserved

/-- The stack an HBM address lies in; the base of HBM is a multiple of 2^40. -/
def stackOf (pa : Nat) : Nat := pa / 0x1000 % 16

/-- The granule of an HBM address: HBM has fewer than 2^24. -/
def granuleOf (pa : Nat) : Nat := pa / 0x10000 % 0x1000000

/-- The physical address of an address within a stack. -/
def ofStack (st a : Nat) : Nat := hbmBase + a / 0x1000 * 0x10000 + st * 0x1000 + a % 0x1000

/-- The L3 slice of an HBM address (R363). -/
def sliceOf (pa : Nat) : Nat := (pa / 128 % 32) ^^^ (pa / 65536 % 32)

/-- The physical address of cluster memory. -/
def cluMemAddr (c ofs : Nat) : Nat := cluMemBase + c * 0x800000 + ofs

/-! ## The check code (R574, R575) -/

/-- The weight of an 8-bit value. -/
def weight8 (n : Nat) : Nat := ((List.range 8).map (fun i => bitNat (natBit n i))).sum

/-- The columns H(0) to H(71) of R574. -/
def eccColumns : List Nat :=
  (List.range 256).filter (fun n => weight8 n == 3) ++ ((List.range 256).filter (fun n => weight8 n == 5)).take 8
    ++ (List.range 8).map (2 ^ ·)

/-- The syndrome of a word whose inverted bits are `m`: the code is linear, so it is the syndrome of the bits (R575).
DESIGN CHOICE, log 35. -/
def syndrome (m : BitVec 72) : Nat :=
  (eccColumns.zipIdx.map (fun e => if natBit m.toNat e.2 then e.1 else 0)).foldl (· ^^^ ·) 0

/-- The classes of a word (R575). -/
inductive EccClass where
  | clean | correctable (bit : Nat) | uncorrectable
  deriving DecidableEq, Repr

/-- The class a syndrome gives. -/
def eccClass (m : BitVec 72) : EccClass :=
  let y := syndrome m
  if y = 0 then .clean
  else match eccColumns.findIdx? (· == y) with
    | some j => .correctable j
    | none => .uncorrectable

/-- The data bits used from a word stored as `d` with inverted bits `m` (R575). DESIGN CHOICE, log 35. -/
def eccData (d : Nat) (m : BitVec 72) : Nat :=
  let raw := d ^^^ (m.toNat % 2 ^ 64)
  match eccClass m with
  | .correctable j => if j < 64 then raw ^^^ 2 ^ j else raw
  | _ => raw

/-- The check bits of a data word (R574). -/
def checkBits (d : Nat) : Nat :=
  ((eccColumns.take 64).zipIdx.map (fun e => if natBit d e.2 then e.1 else 0)).foldl (· ^^^ ·) 0

/-! ## Lines -/

/-- The key of a line in a cache: 64 agents a line. -/
def lineKey (agent line : Nat) : Nat := line * 64 + agent

/-- Whether a line state holds dirty bytes. -/
def LineState.dirty : LineState → Bool
  | .m => true
  | .w d => d
  | _ => false

/-- The dirty copy of a line, where a cache holds one (R366: at most one). -/
def State.dirtyCopy (s : State) (line : Nat) : Option CacheLine :=
  (s.coh.lines.find? (fun e => e.1 / 64 = line && e.2.st.dirty)).map (·.2)

/-- The data of a copy. -/
def CacheLine.moved (c : CacheLine) : LineData := ⟨c.data, c.err⟩

/-- The line whose data a transaction has in hand: a recall's victim, else its own. -/
def Txn.subject (t : Txn) : Nat :=
  match t.phase with
  | .clear v _ => v
  | _ => t.line

/-- Whether a request type grants a state (R373). -/
def CohKind.grants : CohKind → Bool
  | .rdS | .rdX | .upg | .ownNoData => true
  | _ => false

/-- The request an agent has outstanding for a line. -/
def State.outstanding (s : State) (agent line : Nat) : Option Outstanding :=
  s.coh.outstanding.find? (fun o => o.req.agent.val = agent ∧ o.req.line.toNat = line)

/-- Whether a transaction's requester has taken its grant. -/
def State.granteeHas (s : State) (t : Txn) : Bool := t.phase == .granted && (s.outstanding t.req.agent t.line).isNone

/-- The data of a line that a transaction has in hand: come to the home, on its way there, or on its way to a requester that
is to own the line (R371). -/
def State.movingData (s : State) (line : Nat) : Option LineData :=
  (s.coh.txns.find? (fun t => t.subject == line)).bind (fun t =>
    if s.granteeHas t then none
    else t.dirty.or (s.coh.msgs.findSome? (fun m => match m with
      | .answer _ l _ _ (some d) => if l = line then some d else none
      | .data _ a l d => if t.kind.grants && a == t.req.agent.val && l == line then some d else none
      | _ => none)))

/-- The data of a line that memory may not have: a dirty copy's, or what a transaction has in hand (R361). -/
def State.liveLine (s : State) (line : Nat) : Option LineData := ((s.dirtyCopy line).map CacheLine.moved).or (s.movingData line)

/-- A byte of a line's bits. -/
def lineByte (d : BitVec 1024) (i : Nat) : Byte := BitVec.ofNat 8 (d.toNat / 2 ^ (8 * i))

/-- A byte as package memory now stores it: the live line's, else the home's (R361). -/
def State.rawByte (s : State) (pa : Nat) : Byte :=
  match s.liveLine (pa / 128) with
  | some d => lineByte d.bits (pa % 128)
  | none => Sparse.get 0 s.mem pa

/-- The inverted bits of the stored 64-bit word at index `w` (its address divided by 8). DESIGN CHOICE, log 35. -/
def State.wordErr (s : State) (w : Nat) : BitVec 72 :=
  match s.liveLine (w / 16) with
  | some d => (lookupKey d.err (w % 16)).getD 0
  | none => Sparse.get 0 s.errs w

/-- The stored bytes at an address, as a number. -/
def State.rawNat (s : State) (pa : Nat) : Nat → Nat
  | 0 => 0
  | k + 1 => (s.rawByte pa).toNat + 256 * State.rawNat s (pa + 1) k

/-- The 64-bit word at index `w` as it is used. -/
def State.useWord (s : State) (w : Nat) : Nat := eccData (s.rawNat (8 * w) 8) (s.wordErr w)

/-- A byte as it is used: of a clean word, the stored byte; of a damaged one, the byte of the word R575 gives. -/
def State.memByte (s : State) (pa : Nat) : Byte :=
  if s.wordErr (pa / 8) = 0 then s.rawByte pa else BitVec.ofNat 8 (s.useWord (pa / 8) / 2 ^ (8 * (pa % 8)))

/-- Bytes from an address on, as they are used. -/
def State.memBytes (s : State) (pa : Nat) : Nat → List Byte
  | 0 => []
  | k + 1 => s.memByte pa :: State.memBytes s (pa + 1) k

/-- A little-endian number read from memory. -/
def State.memNat (s : State) (pa k : Nat) : Nat := bytesToNat (s.memBytes pa k)

/-- A 64-bit word read from memory. -/
def State.memWord (s : State) (pa : Nat) : Word := BitVec.ofNat 64 (s.memNat pa 8)

/-- Whether a word of the range is uncorrectable (R575, R578). -/
def State.memUE (s : State) (pa len : Nat) : Bool :=
  decide (0 < len) && (List.range ((pa + len - 1) / 8 + 1 - pa / 8)).any (fun i => eccClass (s.wordErr (pa / 8 + i)) == .uncorrectable)

/-! ## Injection (R593 to R595) -/

/-- The inverted bits of the stored word at an index take a value. -/
def State.setErr (s : State) (w : Nat) (m : BitVec 72) : State := { s with errs := Sparse.set id 0 s.errs w m }

/-- The bits an INJ register inverts. -/
def injMask (w : Word) : BitVec 72 :=
  let a := 2 ^ F.inj_BIT_A.get w
  let b := 2 ^ F.inj_BIT_B.get w
  BitVec.ofNat 72 (if F.inj_TWO.get w = 1 then a ^^^ (if a = b then 0 else b) else a)

/-- Whether a page's armed injection fires for a detector on a word of a request: its mode among `modes`, its detector,
and its context filter (R593, R595). DEDUCED, log 36. -/
def State.injFires (s : State) (p : Page) (i det : Nat) (modes : List Nat) (ctx : Option Nat) : Bool :=
  let w := s.reg (R.inj p i)
  F.inj_ARM.get w == 1 && modes.contains (F.inj_MODE.get w) && F.inj_DET.get w == det
    && (F.inj_CTX_EN.get w == 0 || ctx == some (F.inj_CTX.get w))

/-- An injection that fired: MODE 0 and 1 clear ARM (R593). -/
def State.injFired (s : State) (p : Page) (i : Nat) : State :=
  if s.fld (R.inj p i) F.inj_MODE = 2 then s else s.setFld (R.inj p i) F.inj_ARM 0

/-- Words are stored with the bits of an armed injection inverted: MODE 0 strikes the first, MODE 2 every one (R593).
DESIGN CHOICE, log 35. DEDUCED, log 36. -/
def State.strikeWords (s : State) (p : Page) (i : Nat) (ws : List Nat) : State :=
  let m := injMask (s.reg (R.inj p i))
  ((if s.fld (R.inj p i) F.inj_MODE = 0 then ws.take 1 else ws).foldl
    (fun s w => s.setErr w (Sparse.get 0 s.errs w ^^^ m)) s).injFired p i

/-- The detector that guards a word of package memory: the ECC lanes of its stack, its cluster's memory, or the memories of
the keeper core that makes the request (R594). -/
def injPlace (pa : Nat) (req : Loc) : Option (Page × Nat × Nat) :=
  match rangeOf pa with
  | .hbm => some (.hbm, stackOf pa, 0)
  | .cluMem => some (.clu, (pa - cluMemBase) / 0x800000, 0)
  | .keeper => some (.host, 0, 192 + req.toNat / 32 % 2)
  | _ => none

/-! ## Writes at the home -/

/-- The canonical form of package memory: addresses strictly rising, and no byte listed that reads as an unlisted one does
(0: DESIGN CHOICE, log 3). -/
def Memory.wf (m : List Host.Cell) : Bool := Sparse.wf id (fun _ => (0 : Byte)) m

/-- A stored byte takes a value. -/
def State.putByte (s : State) (pa : Nat) (b : Byte) : State := { s with mem := Sparse.set id 0 s.mem pa b }

/-- Stored bytes from an address on take values. -/
def State.putBytes (s : State) (pa : Nat) : List Byte → State
  | [] => s
  | b :: bs => State.putBytes (s.putByte pa b) (pa + 1) bs

/-- The words a write covers whole lose their errors: the new word replaces the damaged one (R581). -/
def State.clearErrs (s : State) (pa len : Nat) : State :=
  { s with errs := s.errs.filter (fun e => !(decide (pa ≤ 8 * e.1) && decide (8 * e.1 + 8 ≤ pa + len))) }

/-- Whether an HBM address maps to an unavailable stack (R68). -/
def State.stackGone (s : State) (pa : Nat) : Bool := rangeOf pa == .hbm && !s.stackAvail (stackOf pa)

/-- A line's bits and inverted bits go to memory (R579: moved as its stored bits), but to no stack that is gone (R68). The
words stored belong to no request: a store injection armed at their stack strikes them where it filters no context (R595). -/
def State.writeLineBack (s : State) (line : Nat) (d : LineData) : State :=
  if s.stackGone (line * 128) then s
  else
    let s := (s.putBytes (line * 128) (natToBytes 128 d.bits.toNat))
    let s := { s with errs := s.errs.filter (fun e => e.1 / 16 != line) }
    let s := d.err.foldl (fun s e => s.setErr (line * 16 + e.1) e.2) s
    if s.injFires .hbm (stackOf (line * 128)) 0 [0, 2] none then
      s.strikeWords .hbm (stackOf (line * 128)) ((List.range 16).map (line * 16 + ·))
    else s

/-- The bytes that a mask names are taken from `new`. -/
def mergeLine (old new : BitVec 1024) (mask : BitVec 128) : BitVec 1024 :=
  BitVec.ofNat 1024 (((List.range 128).map (fun i => ((if mask.getLsbD i then lineByte new i else lineByte old i).toNat) * 2 ^ (8 * i))).sum)

/-- The bytes that a request that grants a state writes. -/
def Outstanding.writes (o : Outstanding) : BitVec 128 :=
  match o.kind with
  | .rdS => 0
  | .ownNoData => BitVec.allOnes 128
  | _ => o.req.mask

/-- A line's data with a request's own write merged in; a word written in part keeps no inverted bits (R581). -/
def Outstanding.written (o : Outstanding) (d : LineData) : LineData :=
  ⟨mergeLine d.bits o.req.data o.writes, d.err.filter (fun e => !(List.range 8).any (fun i => o.writes.getLsbD (8 * e.1 + i)))⟩

/-- The stored data of a line at its home. -/
def State.homeData (s : State) (line : Nat) : LineData :=
  ⟨BitVec.ofNat 1024 (bytesToNat ((List.range 128).map (fun i => Sparse.get 0 s.mem (line * 128 + i)))),
   (s.errs.filter (fun e => e.1 / 16 = line)).map (fun e => (e.1 % 16, e.2))⟩

/-- The current data of a line, wherever it is. -/
def State.lineData (s : State) (line : Nat) : LineData := (s.liveLine line).getD (s.homeData line)

/-- A transaction whose line is taken from under it has its requester's write performed, where it has granted a state that is
not taken up yet, and ends at its CMP_ACK; one that waits for answers goes on when a MISS comes. DEDUCED, log 56. -/
def State.cutTxn (s : State) (t : Txn) : State :=
  let line := t.subject
  let out := s.outstanding t.req.agent line
  let s := match t.phase, out with
    | .granted, some o => s.writeLineBack line (o.written (s.homeData line))
    | _, _ => s
  let drop := t.phase == .granted && out.isSome
  let agent := (t.waiting ++ t.wbWait ++ t.wbIn).headD t.req.agent
  let cut := if t.phase = .granted then t
    else { t with waiting := [agent], wbWait := [], wbIn := [], acks := [], forwarded := false, dirty := none }
  let kept := s.coh.msgs.filter (fun m => match m with
    | .snoop _ l _ _ | .answer _ l _ _ _ => l != line
    | .data _ a l _ => !(l == line && a == t.req.agent.val && t.kind.grants)
    | .grant _ l g _ => !(l == line && g.isSome)
    | _ => true)
  let more := if t.phase = .granted then (if drop then [CohMsg.cmpAck t.req.agent line] else [])
    else [CohMsg.answer agent line .miss false none]
  { s with coh := { s.coh with
      msgs := kept ++ more
      txns := s.coh.txns.map (fun x => if x = t then cut else x)
      outstanding := if drop then s.coh.outstanding.filter (fun o => !(o.req.agent == t.req.agent && o.req.line.toNat == line))
        else s.coh.outstanding } }

/-- Every copy of a line leaves the caches, live data to memory first; the directory entry becomes UNCACHED (R373).
DEDUCED, log 39. -/
def State.recallLine (s : State) (line : Nat) : State :=
  let s := match s.liveLine line with
    | some d => s.writeLineBack line d
    | none => s
  let s := match s.coh.txns.find? (fun t => t.subject == line) with
    | some t => s.cutTxn t
    | none => s
  { s with coh := { s.coh with lines := s.coh.lines.filter (fun e => e.1 / 64 != line)
                               msgs := s.coh.msgs.filter (fun m => match m with
                                 | .wb _ l | .wbAck _ l => l != line
                                 | _ => true)
                               dir := eraseKey s.coh.dir line
                               dirErr := eraseKey s.coh.dirErr line
                               dirUse := s.coh.dirUse.filter (· != line) } }

/-- The lines a byte range touches. -/
def linesOf (pa len : Nat) : List Nat := if len = 0 then [] else (List.range ((pa + len - 1) / 128 + 1 - pa / 128)).map (pa / 128 + ·)

/-- The words that a byte range covers only in part. -/
def partWords (pa len : Nat) : List Nat :=
  if len = 0 then []
  else ((if pa % 8 = 0 ∧ 8 ≤ len then [] else [pa / 8]) ++ (if (pa + len) % 8 = 0 then [] else [(pa + len) / 8])).dedup

/-- A word that a partial write merges into is written back corrected, where its error is correctable (R575). -/
def State.mendWord (s : State) (w : Nat) : State :=
  match eccClass (s.wordErr w) with
  | .correctable _ => (s.putBytes (8 * w) (natToBytes 8 (s.useWord w))).setErr w 0
  | _ => s

/-- A write performed at its home: copies of its lines leave the caches, then the bytes are written (R373, R384).
DEDUCED, log 56. -/
def State.homeWrite (s : State) (pa : Nat) (bs : List Byte) : State :=
  let s := (linesOf pa bs.length).foldl State.recallLine s
  let s := (partWords pa bs.length).foldl State.mendWord s
  (s.putBytes pa bs).clearErrs pa bs.length

/-- A 64-bit word written at its home. -/
def State.homeWriteWord (s : State) (pa : Nat) (v : Word) : State := s.homeWrite pa (natToBytes 8 v.toNat)

/-- Whether a transaction holds a line: its own, or the victim it recalls. -/
def Txn.holds (t : Txn) (line : Nat) : Bool :=
  t.line == line || (match t.phase with
    | .clear v _ => v == line
    | _ => false)

/-- Whether a transaction is in progress on a line: the line is BUSY (R368). -/
def State.txnBusy (s : State) (line : Nat) : Bool := s.coh.txns.any (fun t => t.holds line)

/-- The home of a line: its compute die and controller (R317). -/
def homeOf (line : Nat) : Nat × Nat := (stackOf (line * 128) / 4, stackOf (line * 128) % 4)

/-- The transactions of a line's home. -/
def State.homeTxns (s : State) (line : Nat) : List Txn := s.coh.txns.filter (fun t => homeOf t.line = homeOf line)

/-- The lowest transaction slot of a line's home that is free, of 256; none where all are taken (R376). -/
def State.freeSlot (s : State) (line : Nat) : Option Nat :=
  let used := (s.homeTxns line).map (·.slot)
  if used.isEmpty then some 0 else (List.range 256).find? (fun k => !used.contains k)

/-- Whether a whole access must wait for a line: a transaction is in progress on it, a request for it is outstanding, an
eviction of it is on its way (R367), or its home refuses every request (R376: SLOTS, MODE_SWITCH). DEDUCED, log 56. -/
def State.lineBusy (s : State) (line : Nat) : Bool :=
  s.txnBusy line || s.coh.outstanding.any (fun o => decide (o.req.line.toNat = line)) || s.coh.switchTo.isSome
    || (s.freeSlot line).isNone || s.coh.lines.any (fun e => decide (e.1 / 64 = line) && (match e.2.st with
    | .w _ => true
    | _ => false))

/-- Whether a whole access must wait for a line of a range. DEDUCED, log 56. -/
def State.rangeBusy (s : State) (pa len : Nat) : Bool := (linesOf pa len).any s.lineBusy

/-! ## Die-to-die paths (R18 to R20, R585) -/

/-- Whether a die-to-die link carries nothing now: it retrains, or it is dead (R584, R585). Links 0 to 3 join compute die d
to the host die, links 4 to 7 compute die d to compute die (d + 1) mod 4. -/
def State.linkHeld (s : State) (k : Nat) : Bool :=
  match (s.rep.links.find? (fun e => e.1 = k)).map (·.2) with
  | some l => l.retraining || l.dead
  | none => false

/-- The links between two dies (R18 to R20); `even` is whether the traffic goes to an even-numbered stack or to no stack.
DEDUCED, log 41. -/
def pathLinks (a b : Nat) (even : Bool) : List Nat :=
  if a = b then []
  else if a = 4 then [b]
  else if b = 4 then [a]
  else if b = (a + 1) % 4 then [4 + a]
  else if a = (b + 1) % 4 then [4 + b]
  else if even then [4 + a, 4 + (a + 1) % 4]
  else [4 + (a + 3) % 4, 4 + (a + 2) % 4]

/-- Whether traffic between two dies waits at a link. DEDUCED, log 41. -/
def State.pathHeld (s : State) (a b : Nat) (even : Bool) : Bool := (pathLinks a b even).any s.linkHeld

/-- Whether traffic between a die and an address waits at a link: its stack's die, its cluster's die, or the host die. What
comes back is addressed to no stack (R19). DEDUCED, log 41. -/
def State.memHeld (s : State) (die pa : Nat) : Bool :=
  match rangeOf pa with
  | .hbm => s.pathHeld die (stackOf pa / 4) (stackOf pa % 2 == 0) || s.pathHeld (stackOf pa / 4) die true
  | .cluMem => s.pathHeld die ((pa - cluMemBase) / 0x800000 / 32) true || s.pathHeld ((pa - cluMemBase) / 0x800000 / 32) die true
  | _ => s.pathHeld die 4 true

/-- Whether a request of SYS finds its bytes nowhere: a reserved range (R316). -/
def isReserved (pa : Nat) : Bool := rangeOf pa == .reserved

/-- A number that the package's hardware reads with SYS: all ones in a reserved range (R316). -/
def State.sysNat (s : State) (pa k : Nat) : Nat := if isReserved pa then 2 ^ (8 * k) - 1 else s.memNat pa k

/-- Whether a SYS access to a range of memory can be performed: HBM of an available stack, or the keeper range. -/
def State.sysOk (s : State) (pa len : Nat) : Bool :=
  let ok := fun a => (rangeOf a == .hbm && s.stackAvail (stackOf a)) || rangeOf a == .keeper
  len == 0 || (ok pa && ok (pa + len - 1))

/-- Whether bytes lie in a granule that the verified warden image spans (R607, R608). -/
def State.wardenImage (s : State) (pa len : Nat) : Bool :=
  let b := s.fld R.secWardenOk F.secWardenOk_ADDR * 65536
  s.bit R.secWardenOk F.secWardenOk_VALID && decide (b < pa + len) && decide (pa < b + s.fld R.secWardenOk F.secWardenOk_LEN64K * 65536)

/-! ## The paths of the protocol's messages (R18 to R23) -/

/-- The node of a line's home: the directory agents are nodes 0 to 127. -/
def homeNode (line : Nat) : Nat := 128 + stackOf (line * 128)

/-- The die of a node. -/
def nodeDie (n : Nat) : Nat := if n < 32 then n / 8 else if n < 128 then 4 else (n - 128) / 4

/-- The traffic classes (R22). -/
inductive PathClass where
  | request | response | snoop
  deriving DecidableEq, Repr

/-- The path of a message: its source, its destination and its class (R22, R23). -/
def CohMsg.path : CohMsg → Nat × Nat × PathClass
  | .snoop a l _ _ => (homeNode l, a, .snoop)
  | .answer a l _ _ _ => (a, homeNode l, .response)
  | .data src a _ _ => (src, a, .response)
  | .grant a l _ _ => (homeNode l, a, .response)
  | .cmpAck a l => (a, homeNode l, .response)
  | .wb a l => (a, homeNode l, .request)
  | .wbAck a l => (homeNode l, a, .response)
  | .nack a l _ => (homeNode l, a, .response)

/-- Whether a message waits at a die-to-die link on its way (R18 to R20): one to a home is addressed to its stack. -/
def State.msgHeld (s : State) (m : CohMsg) : Bool :=
  let p := m.path
  s.pathHeld (nodeDie p.1) (nodeDie p.2.1) (p.2.1 < 128 || (p.2.1 - 128) % 2 == 0)

/-- A message is put on its way. -/
def State.coSend (s : State) (m : CohMsg) : State := { s with coh := { s.coh with msgs := s.coh.msgs ++ [m] } }

/-- The oldest message that a test accepts is taken, where it is the first of its path and no link holds it (R23). -/
def State.coTake (s : State) (p : CohMsg → Bool) : Option (CohMsg × State) :=
  match s.coh.msgs.find? p with
  | none => none
  | some m =>
    if s.coh.msgs.find? (fun x => x.path == m.path) == some m && !s.msgHeld m then
      some (m, { s with coh := { s.coh with msgs := s.coh.msgs.erase m } })
    else none

/-- The number of a class in a path's depth. -/
def PathClass.code : PathClass → Nat
  | .request => 0
  | .response => 1
  | .snoop => 2

/-- Whether every path of the protocol has room for what is on it (R21): the depth of a path is not stated, and is at least
two. DESIGN CHOICE, log 96. -/
def State.pathsFit (s : State) : Bool :=
  s.coh.msgs.all (fun m =>
    let n := (s.coh.msgs.filter (fun x => x.path == m.path)).length
    decide (n ≤ 2) || decide (n - 2 ≤ Config.pathDepth m.path.1 m.path.2.1 m.path.2.2.code))

/-- What an agent or a home does, unless a path that it sends on has no room: then it stalls (R21). -/
def State.orStall (old new : State) : State := if new.pathsFit then new else old

/-! ## The directory (R368, R369) -/

/-- The lines of the directory entries of a home. -/
def State.homeEntries (s : State) (h : Nat × Nat) : List Nat := (s.coh.dir.filter (fun e => homeOf e.1 = h)).map (·.1)

/-- The set of a line in its home's directory, of 16,384 (R368). DESIGN CHOICE, log 57. -/
def dirSetOf (line : Nat) : Nat := Config.dirSet line % 16384

/-- A directory entry is written on behalf of a request: it is its set's most recently used (R369), and a store injection
armed at the directory strikes it (R593, R594). -/
def State.setDir (s : State) (line : Nat) (e : DirEntry) (ctx : Option CtxId) : State :=
  let h := homeOf line
  let s := { s with coh := { s.coh with dir := insertKey s.coh.dir line e, dirErr := eraseKey s.coh.dirErr line
                                        dirUse := s.coh.dirUse.filter (· != line) ++ [line] } }
  if s.injFires .coh h.1 h.2 [0, 2] (ctx.map (·.toNat)) then
    ({ s with coh := { s.coh with dirErr := insertKey s.coh.dirErr line (injMask (s.reg (R.inj .coh h.1))) } }).injFired .coh h.1
  else s

/-- An agent leaves a line's entry; with no holder left the line is UNCACHED (R368, R375). -/
def State.dirDrop (s : State) (agent line : Nat) : State :=
  let gone := fun (s : State) => { s with coh := { s.coh with dir := eraseKey s.coh.dir line, dirErr := eraseKey s.coh.dirErr line } }
  match lookupKey s.coh.dir line with
  | some (.shared as f) =>
    let rest := as.filter (· != agent)
    if rest.isEmpty then gone s
    else { s with coh := { s.coh with dir := insertKey s.coh.dir line (.shared rest (if f = some agent then none else f)) } }
  | some (.exclusive o) => if o = agent then gone s else s
  | none => s

/-- The least recently used of some entries. -/
def State.oldestOf (s : State) (ls : List Nat) : Option Nat :=
  match ls.find? (fun l => !s.coh.dirUse.contains l) with
  | some l => some l
  | none => s.coh.dirUse.find? (fun l => ls.contains l)

/-- The entries of a line's directory set, where the set has no free way: the lines in it, BUSY ones included (R369).
DESIGN CHOICE, log 57. -/
def State.fullSet (s : State) (line : Nat) : Option (List Nat) :=
  let ls := (s.homeEntries (homeOf line) ++ (s.homeTxns line).map (·.line)).dedup
  if ls.length < 16 then none
  else
    let mine := ls.filter (fun l => dirSetOf l = dirSetOf line)
    if mine.length < 16 then none else some mine

/-- The victim a full set would recall: none when every way is BUSY (R369). -/
def State.recallVictim (s : State) (ls : List Nat) : Option Nat :=
  s.oldestOf (ls.filter (fun l => (lookupKey s.coh.dir l).isSome && !s.txnBusy l))

/-- Whether no way of a line's directory set can be had for it: every one is BUSY (R369, R376: DIR_SET). -/
def State.noWay (s : State) (line : Nat) : Bool :=
  (lookupKey s.coh.dir line).isNone && (match s.fullSet line with
    | some ls => (s.recallVictim ls).isNone
    | none => false)

/-- Whether a cacheable whole access must wait for a line of a range: besides, it may need a directory entry. -/
def State.waysBusy (s : State) (pa len : Nat) : Bool := s.rangeBusy pa len || (linesOf pa len).any s.noWay

/-- Room is made for a line's directory entry: the least recently used entry of a full set is recalled (R369).
DESIGN CHOICE, log 57. -/
def State.dirRoom (s : State) (line : Nat) : State :=
  if (lookupKey s.coh.dir line).isSome then s
  else match s.fullSet line with
    | none => s
    | some ls => match s.recallVictim ls with
      | none => s
      | some v => (s.recallLine v).addFld (R.cohRecallCnt (homeOf line).1 (homeOf line).2) F.cohRecallCnt_COUNT 1

/-- The pieces of a byte range by line: line, offset in it, length. -/
def linePieces (pa len : Nat) : List (Nat × Nat × Nat) :=
  (linesOf pa len).map (fun l =>
    let a := max pa (l * 128)
    let b := min (pa + len) (l * 128 + 128)
    (l, a - l * 128, b - a))

end Sys2Proof.Machine
end

