-- ==== Sys2Proof/Machine/Flags.lean ====
section
/-! DEFINITION. The status flags and the error records: setting an interrupt status bit and the message it makes due
(R399), the record window of a page (R587), the package error log (R588, R597, R598), and the status codes (R266). -/

namespace Sys2Proof.Machine

/-! ## Completion statuses (R266) -/

/-- The completion statuses. -/
inductive Status where
  | ok | reservedField | fieldCode | fieldValue | formatCode | formatPair | formatScale | layoutFormat | shape
  | filterSize | accRange | stride | spadRange | window | overlap | progInvalid | opcode | ctxMismatch | sequence
  | waitTarget | creditLine | bounds | buffer | grantExceeded | rngExhausted | rngKeyInvalid | indexRange
  | accHazardTimeout | waitTimeout | ownerMismatch | translation | granule | unavailable | aborted | hostLost
  | uncorrectable
  deriving DecidableEq, Repr

/-- The code of a status. -/
def Status.code : Status → Nat
  | .ok => 0x00 | .reservedField => 0x01 | .fieldCode => 0x02 | .fieldValue => 0x03 | .formatCode => 0x04
  | .formatPair => 0x05 | .formatScale => 0x06 | .layoutFormat => 0x07 | .shape => 0x08 | .filterSize => 0x09
  | .accRange => 0x0A | .stride => 0x0B | .spadRange => 0x0C | .window => 0x0D | .overlap => 0x0E
  | .progInvalid => 0x0F | .opcode => 0x10 | .ctxMismatch => 0x11 | .sequence => 0x12 | .waitTarget => 0x13
  | .creditLine => 0x14 | .bounds => 0x15 | .buffer => 0x16 | .grantExceeded => 0x17 | .rngExhausted => 0x20
  | .rngKeyInvalid => 0x21 | .indexRange => 0x22 | .accHazardTimeout => 0x23 | .waitTimeout => 0x24
  | .ownerMismatch => 0x25 | .translation => 0x26 | .granule => 0x27 | .unavailable => 0x28 | .aborted => 0x29
  | .hostLost => 0x2A | .uncorrectable => 0x2B

/-- Whether a status faults the context of the command that receives it (R266). -/
def faultsCode (c : Nat) : Bool := c != 0 && c != 0x28 && c != 0x29 && c != 0x2A

/-! ## Interrupt status (R399, R628) -/

/-- The interrupt condition of a page: IRQ_STS AND IRQ_EN is not zero. -/
def State.irqCond (s : State) (p : Page) (i : Nat) : Bool := (s.reg (R.irqSts p i) &&& s.reg (R.irqEn p i)) != 0

/-- A message of the page becomes due. -/
def State.pushIrq (s : State) (p : Page) (i : Nat) : State :=
  { s with host := { s.host with irqDue := s.host.irqDue ++ [(p, i)] } }

/-- A change of the page's interrupt registers; a message becomes due when the condition becomes true (R399). -/
def State.irqChange (s : State) (p : Page) (i : Nat) (f : State → State) : State :=
  let t := f s
  if !s.irqCond p i && t.irqCond p i then t.pushIrq p i else t

/-- A bit of IRQ_STS is set. -/
def State.raise (s : State) (p : Page) (i bit : Nat) : State :=
  s.irqChange p i (fun t => t.setBit (R.irqSts p i) bit true)

/-! ## Error records (R586 to R589, R597, R598, R677) -/

/-- An error record before it is placed: its page and the fields of R586. -/
structure ErrRec where
  page : Page
  inst : Nat
  sev : Nat
  code : Nat
  loc : Loc
  ctx : Option Nat := none
  sys : Bool := false
  addr : Nat := 0
  kind : Nat := 0
  syn : Nat := 0
  reqLoc : Nat := 0
  inj : Bool := false
  deriving DecidableEq, Repr

/-- The four words of a record (R586), with COUNT 1. -/
def ErrRec.words (r : ErrRec) (now : Word) : List Word :=
  [BitVec.ofNat 64 (1 + r.sev * 4 + r.code * 16 + r.loc.toNat * 2 ^ 16 + (r.ctx.getD 0) * 2 ^ 32
      + bitNat r.ctx.isSome * 2 ^ 44 + bitNat r.sys * 2 ^ 45 + 2 ^ 48),
   BitVec.ofNat 64 (r.addr % 2 ^ 52 + r.kind * 2 ^ 52),
   BitVec.ofNat 64 (r.syn + r.reqLoc * 2 ^ 16 + bitNat r.inj * 2 ^ 63),
   now]

/-- The ring size of the error log: 2^SIZE records, SIZE 6 to 16, other values taken as 12 (R597). -/
def State.elogSize (s : State) : Nat :=
  let n := s.fld R.pkgElogCfg F.pkgElogCfg_SIZE
  2 ^ (if 6 ≤ n ∧ n ≤ 16 then n else 12)

/-- A record found the log full, or its write failed (R597, R598). DEDUCED, log 42. -/
def State.elogLose (s : State) : State :=
  (s.satFld R.pkgElogLost F.pkgElogLost_COUNT 1).raise .pkg 0 17

/-- A record is appended to the package error log while ELOG_CFG.EN is 1 (R597, R598). DEDUCED, log 42 and 85. -/
def State.elogAppend (s : State) (ws : List Word) : State :=
  if s.bit R.pkgElogCfg F.pkgElogCfg_EN then
    let tail := s.fld R.pkgElogTail F.pkgElogTail_TAIL
    let head := s.fld R.pkgElogHead F.pkgElogHead_HEAD
    let a := s.fld R.pkgElogBase F.pkgElogBase_ADDR * 32 + 32 * (tail % s.elogSize)
    if (tail + 2 ^ 17 - head) % 2 ^ 17 ≥ s.elogSize then s.elogLose
    else if !s.sysOk a 32 || s.wardenImage a 32 then s.elogLose
    else
      let s := (ws.zipIdx).foldl (fun s e => s.homeWriteWord (a + 8 * e.2) e.1) s
      (s.setFld R.pkgElogTail F.pkgElogTail_TAIL (tail + 1)).raise .pkg 0 16
  else s

/-- A record reaches its page window (R587): whole when the window is free, as one more occurrence when it merges, as
OVERFLOW otherwise. DEDUCED, log 42. -/
def State.windowPut (s : State) (r : ErrRec) (ws : List Word) : State :=
  let q0 := s.reg (R.errRec r.page r.inst 0)
  if F.errQ0_VALID.get q0 = 0 then
    let s := ws.zipIdx.foldl (fun s e => s.setReg (R.errRec r.page r.inst e.2) e.1) s
    s.raise r.page r.inst 63
  else if F.errQ0_CODE.get q0 = r.code ∧ F.errQ0_LOC.get q0 = r.loc.toNat then
    s.satFld (R.errRec r.page r.inst 0) F.errQ0_COUNT 1
  else s.setFld (R.errRec r.page r.inst 0) F.errQ0_OVERFLOW 1

/-- An error record is raised: page window, log (R588) and, for a FATAL record, PKG.IRQ_STS.FATAL (R597). -/
def State.record (s : State) (r : ErrRec) : State :=
  let ws := r.words (s.nowAt (r.page.dieOf r.inst))
  let entered := F.errQ0_VALID.get (s.reg (R.errRec r.page r.inst 0)) = 0
  let s := s.windowPut r ws
  let s := if s.fld R.pkgElogCfg F.pkgElogCfg_MIN_SEV ≤ r.sev ∧ (entered ∨ 2 ≤ r.sev) then s.elogAppend ws else s
  if r.sev = 3 then s.raise .pkg 0 18 else s

/-- ACCESS_DENIED in the page written (R16, R589). DEDUCED, log 17. -/
def State.denied (s : State) (a : Agent) (r : Reg) : State :=
  s.record { page := r.page, inst := r.inst, sev := 0, code := 1, loc := pageLoc r.page r.inst, sys := true,
             addr := r.ofs - r.page.base r.inst, kind := 3, reqLoc := (agentLoc a).toNat }

/-- A SYS write to the verified warden image is discarded, with ACCESS_DENIED in the SEC page (R608). DEDUCED, log 85. -/
def State.imageDenied (s : State) (pa : Nat) (req : Loc) : State :=
  s.record { page := .sec, inst := 0, sev := 0, code := 1, loc := pageLoc .sec 0, sys := true, addr := pa, kind := 1,
             reqLoc := req.toNat }

/-- SAFE_LIMIT in the page of a refused or clamped request (R592). DEDUCED, log 17. -/
def State.safeLimit (s : State) (r : Reg) : State :=
  s.record { page := r.page, inst := r.inst, sev := 0, code := 0xB, loc := pageLoc r.page r.inst, sys := true,
             addr := r.ofs - r.page.base r.inst, kind := 3 }

/-- ADDR_RESERVED in the XLT page of the requester's die (R316, R623). -/
def State.addrReserved (s : State) (die : Nat) (pa : Nat) (req : Loc) : State :=
  s.record { page := .xlt, inst := die, sev := 0, code := 5, loc := pageLoc .xlt die, sys := true, addr := pa, kind := 1,
             reqLoc := req.toNat }

/-- MEM_UNAVAIL: an access met an unavailable stack (R68). DEDUCED, log 18. -/
def State.memUnavail (s : State) (pa : Nat) (ctx : Option Nat) (req : Loc) : State :=
  s.record { page := .pkg, inst := 0, sev := 2, code := 0x15, loc := locStack (stackOf pa), ctx := ctx,
             sys := ctx.isNone, addr := pa, kind := 1, reqLoc := req.toNat }

/-- A SYS access of the package's hardware, from a die, at an address that no memory answers: it is recorded (R68, R316).
DEDUCED, log 85. -/
def State.sysMet (s : State) (die a : Nat) (req : Loc) : State :=
  if isReserved a then s.addrReserved die a req else if s.stackGone a then s.memUnavail a none req else s

/-- Bytes that the package's hardware writes with SYS: discarded where no memory answers (R68, R316). -/
def State.sysWrite (s : State) (die a : Nat) (bs : List Byte) (req : Loc) : State :=
  if s.sysOk a bs.length then s.homeWrite a bs else s.sysMet die a req

/-! ## Uncorrectable and correctable words of package memory (R577, R578) -/

/-- The page and place of storage that hold a word of package memory for a record: its stack's HBM page, or the CLU page
for cluster memory (R677, R589). -/
def memPlace (pa : Nat) : Page × Nat × Loc × Nat × Nat :=
  match rangeOf pa with
  | .cluMem =>
    let c := (pa - cluMemBase) / 0x800000
    (.clu, c, locCluster c 9, (pa - cluMemBase) % 0x800000, 6)
  | .keeper => (.host, 0, locHost 2 0, pa, 6)
  | _ => (.hbm, stackOf pa, locStack (stackOf pa), pa, 1)

/-- The page and place of a cache that holds lines: the region cache's, or for an L3 slice the HOST page (R677). -/
def cachePlace (agent : Nat) : Page × Nat × Loc := if agent < 32 then (.rgn, agent, locRegion agent 0x11) else (.host, 0, locHost 1 (agent - 32))

/-- Where the storage of a word as it is used lies: the cache that holds its line dirty, else its home. -/
def State.wordPlace (s : State) (w : Nat) : Page × Nat × Loc × Nat × Nat :=
  match s.coh.lines.find? (fun e => e.1 / 64 = w / 16 && e.2.st.dirty) with
  | some e =>
    let pl := cachePlace (e.1 % 64)
    (pl.1, pl.2.1, pl.2.2, 8 * w, 1)
  | none => memPlace (8 * w)

/-- A record about one word of package memory whose inverted bits are `m`: MEM_UE or MEM_CE (R577, R578). -/
def State.memRecord (s : State) (w : Nat) (m : BitVec 72) (ue : Bool) (ctx : Option Nat) (req : Loc) (inj : Bool) : State :=
  let pl := s.wordPlace w
  s.record { page := pl.1, inst := pl.2.1, sev := if ue then 2 else 1, code := if ue then 0x11 else 0x10, loc := pl.2.2.1,
             ctx := ctx, sys := ctx.isNone, addr := pl.2.2.2.1, kind := pl.2.2.2.2, syn := syndrome m,
             reqLoc := req.toNat, inj := inj }

/-- A correctable word read from a stack is counted (R645), and every correctable word is recorded (R577). -/
def State.memCE (s : State) (w : Nat) (m : BitVec 72) (ctx : Option Nat) (req : Loc) (inj : Bool) : State :=
  let pl := s.wordPlace w
  let s := if pl.1 = .hbm then s.satFld (R.hbmCeCnt pl.2.1) F.hbmCeCnt_COUNT 1 else s
  s.memRecord w m false ctx req inj

/-- A word is read by a request, which an armed read injection may strike (MODE 1, R593): a correctable word is counted and
recorded (R577), an uncorrectable one is recorded. The result says whether the word was uncorrectable. DEDUCED, log 36. -/
def State.readWord (s : State) (w : Nat) (ctx : Option Nat) (req : Loc) : Bool × State :=
  let fire := match injPlace (8 * w) req with
    | some (p, i, det) => if s.injFires p i det [1] ctx then some (p, i) else none
    | none => none
  let m := match fire with
    | some (p, i) => s.wordErr w ^^^ injMask (s.reg (R.inj p i))
    | none => s.wordErr w
  let s := match fire with
    | some (p, i) => s.injFired p i
    | none => s
  match eccClass m with
  | .clean => (false, s)
  | .correctable _ => (false, s.memCE w m ctx req fire.isSome)
  | .uncorrectable => (true, s.memRecord w m true ctx req fire.isSome)

/-- Words are read in order; the first uncorrectable one ends the reading. -/
def State.readWords (s : State) (ctx : Option Nat) (req : Loc) : List Nat → Bool × State
  | [] => (false, s)
  | w :: ws =>
    match s.readWord w ctx req with
    | (true, s) => (true, s)
    | (false, s) => State.readWords s ctx req ws

/-- The 64-bit words that a byte range touches. -/
def wordsOf (pa len : Nat) : List Nat := if len = 0 then [] else (List.range ((pa + len - 1) / 8 + 1 - pa / 8)).map (pa / 8 + ·)

/-- A range read by a request at its home (R578). The result says whether it consumed an uncorrectable word. -/
def State.consume (s : State) (pa len : Nat) (ctx : Option Nat) (req : Loc) : Bool × State := s.readWords ctx req (wordsOf pa len)

/-- A write by a request reads the words that it covers only in part, to merge into them (R581). -/
def State.mergeRead (s : State) (pa len : Nat) (ctx : Option Nat) (req : Loc) : Bool × State := s.readWords ctx req (partWords pa len)

/-- A word that a request of a context puts into a buffer and reads again meets the injection armed at the buffer's detector,
in any mode (R593, R594). Its place in the buffer, which the record's ADDR gives, the spec does not state: a free value. The
result says whether the word was uncorrectable. DEDUCED, log 36. DESIGN CHOICE, log 37. -/
def State.bufferStrike (s : State) (p : Page) (i det : Nat) (loc : Loc) (ctx : Nat) (req : Loc) : Bool × State :=
  if s.injFires p i det [0, 1, 2] (some ctx) then
    let m := injMask (s.reg (R.inj p i))
    let f := (s.injFired p i).takeFresh
    let ue := eccClass m == .uncorrectable
    (ue, f.2.record { page := p, inst := i, sev := if ue then 2 else 1, code := if ue then 0x11 else 0x10, loc := loc,
                      ctx := some ctx, addr := 8 * ((Config.freeWord f.1).toNat % 2 ^ 49), kind := 6, syn := syndrome m,
                      reqLoc := req.toNat, inj := true })
  else (false, s)

/-- Words stored by a request meet an armed store injection: MODE 0 strikes the first, MODE 2 every one (R593).
DEDUCED, log 36. -/
def State.injectStore (s : State) (pa len : Nat) (ctx : Option Nat) (req : Loc) : State :=
  if len = 0 then s
  else match injPlace pa req with
  | none => s
  | some (p, i, det) =>
    if s.injFires p i det [0, 2] ctx then s.strikeWords p i (wordsOf pa len) else s

/-- A write at its home on behalf of a request, with any armed store injection. -/
def State.storeBytes (s : State) (pa : Nat) (bs : List Byte) (ctx : Option Nat) (req : Loc) : State :=
  (s.homeWrite pa bs).injectStore pa bs.length ctx req

end Sys2Proof.Machine
end

