-- ==== Sys2Proof/Machine/Frames.lean ====
section
/-! DEFINITION. The frames of the Zenwald link: their words (R438 to R442), the route table (R446), and what becomes of a
frame that cannot leave (R448). Credits on their way are shared with the queues (R270). -/

namespace Sys2Proof.Machine

/-! ## Words (R438 to R442) -/

/-- The words of a frame after its link word. -/
def Frame.words : Frame → List Word
  | .msg m =>
    [BitVec.ofNat 64 (m.destPkg + m.destQ * 2 ^ 12 + m.srcPkg * 2 ^ 29 + m.srcUnit * 2 ^ 41 + m.srcLine * 2 ^ 51
        + m.hops * 2 ^ 56),
     BitVec.ofNat 64 (m.opcode + m.seq * 2 ^ 8 + m.ctx * 2 ^ 28 + m.srcLq * 2 ^ 40)]
    ++ (List.range 6).map (fun i => BitVec.ofNat 64 (m.body.toNat / 2 ^ (64 * i)))
  | .credit c =>
    [BitVec.ofNat 64 (c.destPkg + (c.unit * 2 ^ 12 + c.line * 2 ^ 22) + c.srcPkg * 2 ^ 29 + c.hops * 2 ^ 56),
     BitVec.ofNat 64 (c.count + c.status * 2 ^ 17 + c.lq * 2 ^ 25)]
  | .hello h =>
    [BitVec.ofNat 64 (1 + h.fabric * 2 ^ 8 + h.pkg * 2 ^ 24 + h.port * 2 ^ 36 + h.size * 2 ^ 39),
     BitVec.ofNat 64 (h.licMax + h.candPkg * 2 ^ 13 + h.candHops * 2 ^ 25 + bitNat h.candValid * 2 ^ 31
        + bitNat h.armed * 2 ^ 32 + bitNat h.ready * 2 ^ 33 + h.reason * 2 ^ 34),
     0]
  | .cadReq x => [BitVec.ofNat 64 (2 + x * 2 ^ 8), 0, 0]
  | .cadRsp x up t2 t3 => [BitVec.ofNat 64 (3 + x * 2 ^ 8 + up.toNat * 2 ^ 24), t2, t3]

/-- KIND of a frame (R437). -/
def Frame.kind : Frame → Nat
  | .msg _ => 1
  | .credit _ => 2
  | _ => 3

/-- The virtual channel of a frame (R437). -/
def Frame.vc : Frame → Nat
  | .msg _ => 0
  | .credit _ => 1
  | _ => 2

/-- Bits [hi:lo] of a word. -/
def wbits (w : Word) (hi lo : Nat) : Nat := natBits w.toNat hi lo

/-- The frame that words 1 on of a kind spell; none where a kind, SUB or length is not one of the tables. -/
def frameOfWords (kind : Nat) (ws : List Word) : Option Frame :=
  match kind, ws with
  | 1, [r, h, b0, b1, b2, b3, b4, b5] =>
    some (.msg { destPkg := wbits r 11 0, destQ := wbits r 28 12, srcPkg := wbits r 40 29, srcUnit := wbits r 50 41,
                 srcLine := wbits r 55 51, hops := wbits r 61 56, opcode := wbits h 7 0, seq := wbits h 27 8,
                 ctx := wbits h 39 28, srcLq := wbits h 46 40,
                 body := b5 ++ b4 ++ b3 ++ b2 ++ b1 ++ b0 })
  | 2, [r, c] =>
    some (.credit { destPkg := wbits r 11 0, unit := wbits r 21 12, line := wbits r 26 22, srcPkg := wbits r 40 29,
                    hops := wbits r 61 56, count := wbits c 16 0, status := wbits c 24 17, lq := wbits c 31 25 })
  | 3, [a, b, c] =>
    match wbits a 7 0 with
    | 1 => some (.hello { fabric := wbits a 23 8, pkg := wbits a 35 24, port := wbits a 38 36, size := wbits a 51 39,
                          licMax := wbits b 12 0, candPkg := wbits b 24 13, candHops := wbits b 30 25,
                          candValid := wbits b 31 31 == 1, armed := wbits b 32 32 == 1, ready := wbits b 33 33 == 1,
                          reason := wbits b 37 34 })
    | 2 => some (.cadReq (wbits a 23 8))
    | 3 => some (.cadRsp (wbits a 23 8) (BitVec.ofNat 32 (wbits a 55 24)) b c)
    | _ => none
  | _, _ => none

/-- SIZE of a fabric configuration: 1 to 4,096, other values taken as 4,096 (R463). -/
def fabSizeOf (n : Nat) : Nat := if 1 ≤ n ∧ n ≤ 4096 then n else 4096

/-- The declared fabric size. -/
def State.fabSize (s : State) : Nat := fabSizeOf (s.fld (R.optFabCfg 0) F.optFabCfg_SIZE)

/-- FAB_STS.UNLICENSED follows SIZE and LIC_MAX (R463). -/
def State.markUnlicensed (s : State) : State :=
  s.setFld (R.optFabSts 0) F.optFabSts_UNLICENSED (bitNat (decide (s.fabSize > s.fld (R.optFabSts 0) F.optFabSts_LIC_MAX)))

/-! ## Ports and routes -/

/-- A port's state. -/
def State.port (s : State) (p : Nat) : OptPort := Sparse.get OptPort.fresh s.opt p

/-- A port's state is set. -/
def State.setPort (s : State) (p : Nat) (x : OptPort) : State := { s with opt := Sparse.set id OptPort.fresh s.opt p x }

/-- OPT.STS.STATE of a port. -/
def State.optState (s : State) (p : Nat) : Nat := s.fld (R.optSts p) F.optSts_STATE

/-- This package's ID on the fabric (R46). -/
def State.pkgId (s : State) : Nat := s.fld (R.optFabCfg 0) F.optFabCfg_PKG_ID

/-- The route entry of a package: its port, when VALID (R446). -/
def State.route (s : State) (pkg : Nat) : Option Nat :=
  let e := natBits (s.reg (R.optRt 0 (pkg / 16))).toNat (4 * (pkg % 16) + 3) (4 * (pkg % 16))
  if natBit e 3 then some (e % 8) else none

/-- Whether frames may be given to a port: it is in DATA, or in RECOVERY, where they wait (R448, R453). -/
def State.portOpen (s : State) (p : Nat) : Bool := s.optState p == 3 || s.optState p == 4

/-- A frame joins those ready at a port. -/
def State.pushFrame (s : State) (p : Nat) (f : Frame) : State :=
  let x := s.port p
  s.setPort p { x with ready := x.ready ++ [f] }

/-- A CREDIT frame that cannot leave by a port: its credits are lost (R448). -/
def State.loseCredit (s : State) (p : Nat) : State := (s.satFld (R.optDropCnt p) F.optDropCnt_CRED_LOST 1).raise .opt p 6

/-- A CREDIT frame leaves by its route, or is discarded with its credits (R448). -/
def State.routeCredit (s : State) (c : CreditFrame) (transit : Bool) : State :=
  match s.route c.destPkg with
  | none => s.loseCredit 0
  | some p =>
    if s.portOpen p && !(transit && c.hops == 63) then
      s.pushFrame p (.credit (if transit then { c with hops := c.hops + 1 } else c))
    else s.loseCredit p

/-- Credits leave for a line: on this package they are on their way to it; for another a CREDIT frame carries them
(R270, R449). -/
def State.sendCredits (s : State) (src pkg unit line count status lq : Nat) (g : Option (Nat × Nat × Nat)) : State :=
  if pkg = s.pkgId then
    { s with sch := { s.sch with credits := s.sch.credits ++ [⟨src, unit, line, count, status, lq, g⟩] } }
  else s.routeCredit ⟨pkg, unit, line, s.pkgId, 0, count, status, lq⟩ false

/-- A MSG frame that cannot leave by a port: its credit goes back with UNAVAILABLE (R448). -/
def State.refuseMsg (s : State) (m : MsgFrame) (p : Nat) : State :=
  ((s.satFld (R.optDropCnt p) F.optDropCnt_ROUTE_REFUSED 1).raise .opt p 5).sendCredits (1024 + p / 2) m.srcPkg m.srcUnit m.srcLine 1
    0x28 m.srcLq none

/-- A MSG frame leaves by its route, or its credit goes back with UNAVAILABLE (R448). -/
def State.routeMsg (s : State) (m : MsgFrame) (transit : Bool) : State :=
  match s.route m.destPkg with
  | none => s.refuseMsg m 0
  | some p =>
    if s.portOpen p && !(transit && m.hops == 63) then
      s.pushFrame p (.msg (if transit then { m with hops := m.hops + 1 } else m))
    else s.refuseMsg m p

end Sys2Proof.Machine
end

