-- ==== Sys2Proof/Machine/SlotBase.lean ====
section
/-! DEFINITION. The ring slots (R464 to R469): their registers and state, what a teardown and a refusal do to them, and the
end of snapshots and snapshot operations (R514, R517, R518). A slot is named by its package number, 8 × die + slot. -/

namespace Sys2Proof.Machine

/-- A slot's state. -/
def State.slot (s : State) (k : Nat) : SlotSt := Sparse.get SlotSt.idle s.slots k

/-- A slot's state is set. -/
def State.setSlotSt (s : State) (k : Nat) (x : SlotSt) : State := { s with slots := Sparse.set id SlotSt.idle s.slots k x }

/-- A field of SLOTn_CFG. -/
def State.slotCfg (s : State) (k : Nat) (f : Fld) : Nat := s.fld (R.dieSlotCfg (k / 8) (k % 8)) f

/-- Whether a slot is armed. -/
def State.slotArmed (s : State) (k : Nat) : Bool := s.slotCfg k F.dieSlotCfg_ARM == 1

/-- A slot's context. -/
def State.slotCtx (s : State) (k : Nat) : Nat := s.slotCfg k F.dieSlotCfg_CTX

/-- A slot's hop unit. -/
def State.hopUnit (s : State) (k : Nat) : Nat := s.slotCfg k F.dieSlotCfg_HOP_UNIT

/-- SLOTn_STS.STATE: 0 DISARMED, 1 WAIT_STEP, 2 REDUCE, 3 SEALING, 4 GATHER. -/
def State.slotState (s : State) (k : Nat) : Nat := s.fld (R.dieSlotSts (k / 8) (k % 8)) F.dieSlotSts_STATE

/-- STATE changes. -/
def State.setSlotState (s : State) (k n : Nat) : State := s.setFld (R.dieSlotSts (k / 8) (k % 8)) F.dieSlotSts_STATE n

/-- The armed slots whose hop unit is a unit. -/
def State.slotsOfUnit (s : State) (u : Nat) : List Nat := (List.range 32).filter (fun k => s.slotArmed k && s.hopUnit k == u)

/-- Whether a unit is the hop unit of an armed slot (R466): its command queues issue nothing meanwhile. -/
def State.isHopUnit (s : State) (u : Nat) : Bool := !(s.slotsOfUnit u).isEmpty

/-- Whether a slot of a unit counts as a command in flight there: it is armed and not in WAIT_STEP (R466). -/
def State.slotWorking (s : State) (u : Nat) : Bool := (s.slotsOfUnit u).any (fun k => s.slotState k != 1)

/-- The images in use: image 0, and images 1 and 2 where D1 and D2 are not 0 (R505). -/
def State.imagesUsed (s : State) (k : Nat) : List Nat :=
  let c := R.dieSnapCfg (k / 8) (k % 8)
  [0] ++ (if s.fld c F.dieSnapCfg_D1 = 0 then [] else [1]) ++ (if s.fld c F.dieSnapCfg_D2 = 0 then [] else [2])

/-- The open snapshot's incomplete images are abandoned, and it closes (R514). -/
def State.abandonSnap (s : State) (k : Nat) : State :=
  let r := R.dieSnapSts (k / 8) (k % 8)
  match (s.slot k).snap with
  | none => s
  | some _ =>
    let done := s.fld r F.dieSnapSts_DONE
    let n := ((s.imagesUsed k).filter (fun i => !natBit done i)).length
    let s := s.setSlotSt k { s.slot k with snap := none }
    let s := (s.satFld r F.dieSnapSts_ABANDON n).setFld r F.dieSnapSts_OPEN 0
    if n = 0 then s else s.raise .die (k / 8) 3

/-- A snapshot operation ends with a RESULT (R518). -/
def State.endSnapOp (s : State) (k result : Nat) : State :=
  let r := R.dieSnapOpsts (k / 8) (k % 8)
  match (s.slot k).op with
  | none => s
  | some _ =>
    let s := s.setSlotSt k { s.slot k with op := none, fetched := [] }
    ((s.setFld r F.dieSnapOpsts_BUSY 0).setFld r F.dieSnapOpsts_RESULT result).raise .die (k / 8) 4

/-- A slot disarms (R469, R514): its work is discarded, and an open snapshot abandoned. -/
def State.disarmSlot (s : State) (k : Nat) : State :=
  let s := s.abandonSnap k
  let s := s.setSlotSt k { SlotSt.idle with op := (s.slot k).op }
  (s.setFld (R.dieSlotCfg (k / 8) (k % 8)) F.dieSlotCfg_ARM 0).setSlotState k 0

/-- A slot whose context or hop unit is lost: it disarms at once, and an operation ends with ABORTED (R469, R517). -/
def State.dropSlot (s : State) (k : Nat) : State :=
  let s := s.endSnapOp k 7
  if s.slotArmed k then s.disarmSlot k else s

/-- The ring slots of a context whose teardown begins (R469, R517). -/
def State.dropSlots (s : State) (ctx : Nat) : State :=
  ((List.range 32).filter (fun k => s.slotCtx k == ctx && (s.slotArmed k || (s.slot k).op.isSome))).foldl State.dropSlot s

/-- An entry of a queue was refused (R468, R520): the slot whose chunk entries carry that queue is BROKEN, and a fill sent
from it ends with BROKEN. -/
def State.slotRefused (s : State) (u q : Nat) : State :=
  (List.range 32).foldl (fun s k =>
    if s.hopUnit k ≠ u then s
    else if s.slotArmed k && s.slotCfg k F.dieSlotCfg_CHUNK_LQ == q then
      s.setFld (R.dieSlotSts (k / 8) (k % 8)) F.dieSlotSts_BROKEN 1
    else match (s.slot k).op with
      | some o => if F.dieSnapOp_OP.get o.word = 2 ∧ s.fld (R.dieSnapCfg (k / 8) (k % 8)) F.dieSnapCfg_SNAP_LQ = q then s.endSnapOp k 4 else s
      | none => s) s

/-- Data that a slot's outbound read brought. -/
def State.slotFetched (s : State) (k key : Nat) (data : List Byte) : State :=
  let x := s.slot k
  s.setSlotSt k { x with fetched := insertKey x.fetched key data }

/-- An outbound request of a slot is lost (R422): a snapshot operation cannot end with OK. -/
def State.slotLost (s : State) (k : Nat) : State :=
  let x := s.slot k
  s.setSlotSt k { x with op := x.op.map (fun o => { o with lost := true }) }

end Sys2Proof.Machine
end

