-- ==== Sys2Proof/Machine/Caches.lean ====
section
/-! DEFINITION. The caches: their capacity and evictions (R362, R367), whole cached accesses (R370, R373), the copies inside
the cores (R363), and reads and writes through a cache that holds a line, with the code that protects its words and tags
(R576, R578, R580) and the injections armed at its detectors (R593 to R595). -/

namespace Sys2Proof.Machine

/-! ## Copies -/

/-- A copy of a line in a cache. -/
def State.copy (s : State) (agent line : Nat) : Option CacheLine := lookupKey s.coh.lines (lineKey agent line)

/-- A copy takes a value, or is gone. -/
def State.setCopy (s : State) (agent line : Nat) (c : Option CacheLine) : State :=
  { s with coh := { s.coh with lines := match c with
      | some c => insertKey s.coh.lines (lineKey agent line) c
      | none => eraseKey s.coh.lines (lineKey agent line) } }

/-- A copy that falls to a state below its own: in S, so do the cores' copies; else they are gone (R363). -/
def CacheLine.lower (c : CacheLine) (st : LineState) : CacheLine :=
  { c with st := st, cores := if st = .s then c.cores.map (fun x => { x with st := LineState.s }) else [] }

/-- Whether a cache serves a hit on a line it holds (R333): the request carries SYS, or the context that brought it in. -/
def CacheLine.serves (c : CacheLine) (ctx : Option CtxId) : Bool := ctx.isNone || c.ctx == ctx

/-- Whether a copy takes a way: in W, the write-back buffer holds it (R365). -/
def CacheLine.inWay (c : CacheLine) : Bool :=
  match c.st with
  | .w _ => false
  | _ => true

/-! ## The directory as an access reads it (R389) -/

/-- A directory read of a line's entry: a damaged entry, or an armed read injection, gives a record, and an uncorrectable
one an unknown owner (R389, R576, R594). DESIGN CHOICE, log 37. -/
def State.dirRead (s : State) (line : Nat) (ctx : Option CtxId) : Bool × State :=
  let h := homeOf line
  let nat := ctx.map (·.toNat)
  let fire := (lookupKey s.coh.dir line).isSome && s.injFires .coh h.1 h.2 [1] nat
  let held := (lookupKey s.coh.dirErr line).getD 0
  let m := if fire then held ^^^ injMask (s.reg (R.inj .coh h.1)) else held
  let s := if fire then s.injFired .coh h.1 else s
  if m = 0 then (false, s)
  else
    let ue := eccClass m == .uncorrectable
    (ue, s.record { page := .coh, inst := h.1, sev := 1, code := if ue then 0x14 else 0x10, loc := locDie h.1 h.2 0x18,
                    ctx := nat, sys := ctx.isNone, addr := dirSetOf line, kind := 5, syn := syndrome m, inj := fire })

/-- The broadcast recall of an unknown owner is counted and signalled (R389). -/
def State.dirLost (s : State) (line : Nat) : State :=
  let h := homeOf line
  (s.addFld (R.cohBcastCnt h.1 h.2) F.cohBcastCnt_COUNT 1).raise .coh h.1 0

/-- A whole access reads a line's directory entry; an uncorrectable one is recovered first (R389). -/
def State.dirMeet (s : State) (line : Nat) (ctx : Option CtxId) : State :=
  match s.dirRead line ctx with
  | (false, s) => s
  | (true, s) => (s.recallLine line).dirLost line

/-- The directory entries of the lines of a range are read. -/
def State.dirsMeet (s : State) (pa len : Nat) (ctx : Option CtxId) : State :=
  if rangeOf pa = .hbm then (linesOf pa len).foldl (fun s l => s.dirMeet l ctx) s else s

/-! ## Capacity and evictions (R362, R367) -/

/-- The ways of a directory agent's cache; each has 2,048 sets. -/
def agentWays (agent : Nat) : Nat := if agent < 32 then 16 else 12

/-- The set of a cache that a line falls into. DESIGN CHOICE, log 95. -/
def cacheSetOf (cache sets line : Nat) : Nat := Config.cacheSet cache line % sets

/-- A cache gives a line up as a whole (R364, R367): a write-back from M, a notice from E or F, nothing from S. -/
def State.giveUp (s : State) (agent line : Nat) : State :=
  match s.copy agent line with
  | none => s
  | some c =>
    let s := if c.st = .m then s.writeLineBack line c.moved else s
    let s := if c.st = .s then s else s.dirDrop agent line
    s.setCopy agent line none

/-- A cache evicts a line (R367): as a whole where nothing is under way on it, else by the message that leaves. -/
def State.evictLine (s : State) (agent line : Nat) : State :=
  match s.copy agent line with
  | none => s
  | some c =>
    if c.st = .s || !s.txnBusy line then s.giveUp agent line
    else (s.setCopy agent line (some (c.lower (.w (c.st == .m))))).coSend (.wb agent line)

/-- Of the lines that compete for a full set of `ways`, the one that leaves: the spec gives no policy, so a free value
chooses. DESIGN CHOICE, log 95. -/
def State.victimOf (s : State) (ways : Nat) (set : Nat → Nat) (line : Nat) (held : List Nat) : Option Nat × State :=
  if held.length < ways then (none, s)
  else
    let mine := held.filter (fun l => set l = set line)
    if mine.length < ways then (none, s)
    else
      let f := s.takeFresh
      (mine[(Config.freeWord f.1).toNat % mine.length]?, f.2)

/-- Room is made in a cache for a line that it does not hold. -/
def State.makeRoom (s : State) (agent line : Nat) : State :=
  let held := (s.coh.lines.filter (fun e => e.1 % 64 = agent && e.1 / 64 != line && e.2.inWay)).map (fun e => e.1 / 64)
  match s.victimOf (agentWays agent) (cacheSetOf agent 2048) line held with
  | (some v, s) => s.evictLine agent v
  | (none, s) => s

/-! ## The snoops of a request that needs them (R373) -/

/-- The agents a directory entry names. -/
def DirEntry.agents : DirEntry → List Nat
  | .shared as _ => as
  | .exclusive o => [o]

/-- The snoops a request needs (R373), by the entry for its line, and whether their data goes to the home. -/
def snoopsOf (k : CohKind) (req : Nat) (e : Option DirEntry) : List (Nat × Snoop) × Bool :=
  let inv := fun (as : List Nat) => as.map (fun a => (a, Snoop.snpInv))
  let own := fun (as : List Nat) (f : Option Nat) => as.map (fun a => (a, if f = some a then Snoop.snpX else Snoop.snpInv))
  match k, e with
  | _, none => ([], false)
  | .rdS, some (.shared _ f) => (match f with
    | some a => if a = req then [] else [(a, .snpS)]
    | none => [], false)
  | .rdS, some (.exclusive o) => (if o = req then [] else [(o, .snpS)], false)
  | .rdX, some (.shared as f) => (own (as.filter (· != req)) f, false)
  | .rdX, some (.exclusive o) => (if o = req then [] else [(o, .snpX)], false)
  | .upg, some (.shared as f) =>
    (if as.contains req then inv (as.filter (· != req)) else own (as.filter (· != req)) f, false)
  | .upg, some (.exclusive o) => (if o = req then [] else [(o, .snpX)], false)
  | .ownNoData, some e => (inv (e.agents.filter (· != req)), false)
  | .rdCur, some (.shared _ _) => ([], true)
  | .rdCur, some (.exclusive o) => ([(o, .snpCur)], true)
  | .wrLine, some e => (inv e.agents, true)
  | .wrPart, some (.shared as _) => (inv as, true)
  | .wrPart, some (.exclusive o) => ([(o, .snpX)], true)
  | .atom, some (.shared as _) => (inv as, true)
  | .atom, some (.exclusive o) => ([(o, .snpX)], true)

/-- The directory entry after a transaction that grants (R373). -/
def afterGrant (k : CohKind) (req : Nat) (wasUncached : Bool) (e : Option DirEntry) : DirEntry :=
  match k with
  | .rdS =>
    if wasUncached then .exclusive req
    else match e with
      | some e => .shared (req :: e.agents.filter (· != req)) (some req)
      | none => .shared [req] (some req)
  | _ => .exclusive req

/-! ## Cached accesses (R370, R373), as one whole transaction each -/

/-- A cache answers the SNP_S of a whole access (R371): it keeps S, a dirty copy goes to memory, and one that has no copy
answers MISS. -/
def State.shareDown (s : State) (agent line : Nat) : State :=
  match s.copy agent line with
  | none => s.dirDrop agent line
  | some c =>
    let s := if c.st = .m then s.writeLineBack line c.moved else s
    s.setCopy agent line (some (c.lower .s))

/-- A read miss served (RD_S of R373): the home follows its entry, the data comes from the copy that forwards it or from
memory, and the requester takes E when the line was UNCACHED, otherwise F. DEDUCED, log 56. -/
def State.readMiss (s : State) (agent line : Nat) (ctx : Option CtxId) : State :=
  let s := ((s.dirMeet line ctx).dirRoom line).makeRoom agent line
  let e := lookupKey s.coh.dir line
  let ss := ((snoopsOf .rdS agent e).1).map (·.1)
  let d := ((ss.findSome? (fun a => s.copy a line)).map CacheLine.moved).getD (s.lineData line)
  let s := ss.foldl (fun s a => s.shareDown a line) s
  let st := if e.isNone then LineState.e else LineState.f
  (s.setCopy agent line (some ⟨st, ctx, d.bits, d.err, []⟩)).setDir line (afterGrant .rdS agent e.isNone (lookupKey s.coh.dir line)) ctx

/-- A read by a cache: a hit that is refused gives its copy up first (R333, R364). -/
def State.cacheRead (s : State) (agent line : Nat) (ctx : Option CtxId) : State :=
  match s.copy agent line with
  | none => s.readMiss agent line ctx
  | some c => if c.serves ctx then s else (s.giveUp agent line).readMiss agent line ctx

/-- A copy with bytes written in it: it is in M, and the words they touch lose their inverted bits. -/
def CacheLine.wrote (c : CacheLine) (ofs : Nat) (bs : List Byte) : CacheLine :=
  let old := c.data.toNat / 2 ^ (8 * ofs) % 2 ^ (8 * bs.length)
  let new := c.data.toNat - old * 2 ^ (8 * ofs) + bytesToNat bs * 2 ^ (8 * ofs)
  { c with st := .m, data := BitVec.ofNat 1024 new,
           err := c.err.filter (fun e => !(decide (ofs < 8 * e.1 + 8) && decide (8 * e.1 < ofs + bs.length))) }

/-- A write by a cache that does not own the line (RD_X, UPG or OWN_NODATA of R373): every other copy goes, and the bytes are
merged into its own, or into the line's. DEDUCED, log 56. -/
def State.writeMiss (s : State) (agent line : Nat) (ctx : Option CtxId) (ofs : Nat) (bs : List Byte) : State :=
  let s := (s.dirMeet line ctx).dirRoom line
  let own := s.copy agent line
  let s := if own.isNone then s.makeRoom agent line else s
  let d := s.lineData line
  let c := own.getD ⟨.m, ctx, d.bits, d.err, []⟩
  let s := { s with coh := { s.coh with lines := s.coh.lines.filter (fun e => e.1 / 64 != line) } }
  (s.setCopy agent line (some (c.wrote ofs bs))).setDir line (.exclusive agent) ctx

/-- A write by a cache: an owner's needs no request (R365), and a refused hit gives its copy up first (R364). A copy that
serves the request keeps its context. -/
def State.cacheWrite (s : State) (agent line : Nat) (ctx : Option CtxId) (ofs : Nat) (bs : List Byte) : State :=
  match s.copy agent line with
  | none => s.writeMiss agent line ctx ofs bs
  | some c =>
    if !c.serves ctx then (s.giveUp agent line).writeMiss agent line ctx ofs bs
    else if c.st = .m ∨ c.st = .e then s.setCopy agent line (some (c.wrote ofs bs))
    else s.writeMiss agent line ctx ofs bs

/-! ## The copies inside a slice's cores (R362 to R364) -/

/-- The ways and sets of a core's cache: the L1 instruction and L1 data caches, and the L2. -/
def coreWays (lvl : Nat) : Nat × Nat := if lvl < 2 then (4, 128) else (8, 2048)

/-- A line leaves a core's cache: its bytes are the slice's already. -/
def State.coreDrop (s : State) (core lvl line : Nat) : State :=
  let a := 32 + sliceOf (128 * line)
  match s.copy a line with
  | none => s
  | some c => s.setCopy a line (some { c with cores := c.cores.filter (fun x => !(x.core == core && x.lvl == lvl)) })

/-- Room is made in a core's cache for a line. -/
def State.coreRoom (s : State) (core lvl line : Nat) : State :=
  let held := (s.coh.lines.filter (fun e => e.1 / 64 != line && e.2.cores.any (fun x => x.core == core && x.lvl == lvl))).map
    (fun e => e.1 / 64)
  match s.victimOf (coreWays lvl).1 (cacheSetOf (64 + 4 * core + lvl) (coreWays lvl).2) line held with
  | (some v, s) => s.coreDrop core lvl v
  | (none, s) => s

/-- The state that a slice gives a core's copy, never above its own (R363): M for a write; for a read E where no other core has
the line and the slice owns it, else F, but S where the slice has S. -/
def coreGrant (write alone : Bool) (st : LineState) : LineState :=
  if write then .m
  else match st with
  | .s => .s
  | .f => .f
  | _ => if alone then .e else .f

/-- The cores' copies after an access through the slice that reaches it from none of them: a write takes them, a read leaves
them in S. -/
def CacheLine.resolve (c : CacheLine) (write : Bool) : CacheLine :=
  { c with cores := if write then [] else c.cores.map (fun x => { x with st := LineState.s }) }

/-- A cacheable access through a slice resolves the copies of the cores as R373 has it, with the slice as the home, and a
server core's leaves a copy in its L1 and its L2 (R363). A copy whose context does not serve the request is given up first
(R364). DESIGN CHOICE, log 95. -/
def State.coreTouch (s : State) (core : Option Nat) (fetch write : Bool) (ctx : Option CtxId) (line : Nat) : State :=
  let a := 32 + sliceOf (128 * line)
  match core with
  | none => s.setCopy a line ((s.copy a line).map (fun c => c.resolve write))
  | some core =>
    let l1 := if fetch then 0 else 1
    let s := (s.coreRoom core l1 line).coreRoom core 2 line
    match s.copy a line with
    | none => s
    | some c =>
      let mine := c.cores.find? (fun x => x.core == core && (ctx.isNone || x.ctx == ctx))
      let others := { c with cores := c.cores.filter (·.core != core) }
      let hit := mine.any (fun x => !write || x.st == LineState.m || x.st == LineState.e)
      let st := if write then LineState.m else (mine.map (·.st)).getD (coreGrant write others.cores.isEmpty c.st)
      let rest := if hit then others.cores else (others.resolve write).cores
      let keep := c.cores.filter (fun x => x.core == core && x.lvl != l1 && x.lvl != 2 && !write && mine.isSome)
      let tag := (mine.map (·.ctx)).getD ctx
      s.setCopy a line (some { c with cores := rest ++ keep ++ [⟨core, l1, st, tag⟩, ⟨core, 2, st, tag⟩] })

/-! ## Reads and writes through a cache -/

/-- A detector of a cache (R594): its page, its number there, and the block that holds the storage. -/
structure CacheDet where
  page : Page
  inst : Nat
  det : Nat
  loc : Loc
  deriving DecidableEq, Repr

/-- The detectors of a directory agent's data and tags: a region cache's, or an L3 slice's. -/
def cacheDets (agent : Nat) : List CacheDet :=
  if agent < 32 then [⟨.rgn, agent, 0, locRegion agent 0x11⟩, ⟨.rgn, agent, 1, locRegion agent 0x11⟩]
  else [⟨.host, 0, agent - 32, locHost 1 (agent - 32)⟩, ⟨.host, 0, agent, locHost 1 (agent - 32)⟩]

/-- The detectors that a server core's access meets: those of its L1 and L2, then those of the slice. -/
def coreDets (core agent : Nat) : List CacheDet :=
  [⟨.host, 0, 128 + core, locHost 0 core⟩, ⟨.host, 0, 64 + core, locHost 0 core⟩] ++ cacheDets agent

/-- The first of some detectors whose armed injection fires. -/
def State.firesAt (s : State) (dets : List CacheDet) (modes : List Nat) (ctx : Option Nat) : Option CacheDet :=
  dets.find? (fun d => s.injFires d.page d.inst d.det modes ctx)

/-- The copy of a line that an agent's cache holds and serves a request from (R333). -/
def State.servedCopy (s : State) (agent line : Nat) (ctx : Option Nat) : Option CacheLine :=
  match lookupKey s.coh.lines (lineKey agent line) with
  | some c =>
    (match c.st with
    | .w _ => none
    | _ => if c.serves (ctx.map (BitVec.ofNat 12)) then some c else none)
  | none => none

/-- The inverted bits of a word of a copy. -/
def CacheLine.wordErr (c : CacheLine) (w : Nat) : BitVec 72 := (lookupKey c.err (w % 16)).getD 0

/-- A record about a word that a cache holds (R577, R578, R580, R677). -/
def State.cacheRecord (s : State) (d : CacheDet) (sev code w : Nat) (m : BitVec 72) (ctx : Option Nat) (req : Loc) (inj : Bool) :
    State :=
  s.record { page := d.page, inst := d.inst, sev := sev, code := code, loc := d.loc, ctx := ctx, sys := ctx.isNone,
             addr := 8 * w, kind := 1, syn := syndrome m, reqLoc := req.toNat, inj := inj }

/-- A word is read by a request through an agent's cache: from a copy that serves it, else at its home. A clean copy with an
uncorrectable word is invalidated, and the request is served as a miss (R580); such a word of an M line is consumed.
DEDUCED, log 36. -/
def State.cacheWord (s : State) (agent : Nat) (dets : List CacheDet) (ctx : Option Nat) (req : Loc) (w : Nat) : Bool × State :=
  match s.servedCopy agent (w / 16) ctx with
  | none => s.readWord w ctx req
  | some c =>
    let f := s.firesAt dets [1] ctx
    let m := match f with
      | some d => c.wordErr w ^^^ injMask (s.reg (R.inj d.page d.inst))
      | none => c.wordErr w
    let s := match f with
      | some d => s.injFired d.page d.inst
      | none => s
    let d := f.getD ⟨(cachePlace agent).1, (cachePlace agent).2.1, 0, (cachePlace agent).2.2⟩
    match eccClass m with
    | .clean => (false, s)
    | .correctable _ => (false, s.cacheRecord d 1 0x10 w m ctx req f.isSome)
    | .uncorrectable =>
      if c.st.dirty then (true, s.cacheRecord d 2 0x11 w m ctx req f.isSome)
      else
        let s := s.cacheRecord d 1 0x13 w m ctx req f.isSome
        let s := { s with coh := { s.coh with lines := eraseKey s.coh.lines (lineKey agent (w / 16)) } }
        s.readWord w ctx req

/-- Words are read through caches in order; the first consumed uncorrectable one ends the reading. -/
def State.cacheWords (s : State) (agentOf : Nat → Nat) (detsOf : Nat → List CacheDet) (ctx : Option Nat) (req : Loc) :
    List Nat → Bool × State
  | [] => (false, s)
  | w :: ws =>
    match s.cacheWord (agentOf (w / 16)) (detsOf (agentOf (w / 16))) ctx req w with
    | (true, s) => (true, s)
    | (false, s) => State.cacheWords s agentOf detsOf ctx req ws

/-- The bits of a word of a copy are inverted. -/
def State.strikeCopy (s : State) (agent w : Nat) (m : BitVec 72) : State :=
  match lookupKey s.coh.lines (lineKey agent (w / 16)) with
  | none => s
  | some c =>
    let err := Sparse.set id 0 c.err (w % 16) (c.wordErr w ^^^ m)
    { s with coh := { s.coh with lines := insertKey s.coh.lines (lineKey agent (w / 16)) { c with err := err } } }

/-- Words stored in a cache meet an armed store injection: MODE 0 strikes the first, MODE 2 every one (R593).
DEDUCED, log 36. -/
def State.injectCache (s : State) (agent : Nat) (dets : List CacheDet) (ws : List Nat) (ctx : Option Nat) : State :=
  match s.firesAt dets [0, 2] ctx with
  | none => s
  | some d =>
    let m := injMask (s.reg (R.inj d.page d.inst))
    let ws := if s.fld (R.inj d.page d.inst) F.inj_MODE = 0 then ws.take 1 else ws
    (ws.foldl (fun s w => s.strikeCopy agent w m) s).injFired d.page d.inst

/-- The words of a line. -/
def lineWords (line : Nat) : List Nat := (List.range 16).map (line * 16 + ·)

/-- A cacheable read of a line: one that misses is stored in the cache word by word. -/
def State.cacheFill (s : State) (agent : Nat) (dets : List CacheDet) (ctx : Option CtxId) (line : Nat) : State :=
  if (lookupKey s.coh.lines (lineKey agent line)).any (fun c => c.serves ctx) then s
  else (s.cacheRead agent line ctx).injectCache agent dets (lineWords line) (ctx.map (·.toNat))

/-- A cacheable write of part of a line. -/
def State.cacheStore (s : State) (agent : Nat) (dets : List CacheDet) (ctx : Option CtxId) (line ofs : Nat) (bs : List Byte) : State :=
  (s.cacheWrite agent line ctx ofs bs).injectCache agent dets (wordsOf (line * 128 + ofs) bs.length) (ctx.map (·.toNat))

/-- A cacheable read of a range brings in the lines it misses. -/
def State.cachedFill (s : State) (agentOf : Nat → Nat) (detsOf : Nat → List CacheDet) (ctx : Option CtxId) (pa len : Nat) : State :=
  (linesOf pa len).foldl (fun s l => s.cacheFill (agentOf l) (detsOf (agentOf l)) ctx l) s

/-- A cacheable write of a range. -/
def State.cachedStore (s : State) (agentOf : Nat → Nat) (detsOf : Nat → List CacheDet) (ctx : Option CtxId) (pa : Nat) (bs : List Byte) :
    State :=
  (linePieces pa bs.length).foldl (fun s p =>
    s.cacheStore (agentOf p.1) (detsOf (agentOf p.1)) ctx p.1 p.2.1 ((bs.drop (p.1 * 128 + p.2.1 - pa)).take p.2.2)) s

end Sys2Proof.Machine
end

