-- ==== Sys2Proof/Machine/Translate.lean ====
section
/-! DEFINITION. Device translation and protection: the page walk (R320 to R327), the caches of translations (R337), the
granule owner and group tables (R330 to R333), and a request's way from a device address to its byte. -/

namespace Sys2Proof.Machine

/-! ## The granule owner table (R330 to R332) -/

/-- The address of a granule's owner table entry. -/
def State.gotAddr (s : State) (g : Nat) : Nat := s.fld (R.xltGotBase 4) F.xltGotBase_ADDR * 65536 + 2 * g

/-- The owner table entry of a granule. -/
def State.gotEntry (s : State) (g : Nat) : Nat := s.sysNat (s.gotAddr g) 2

/-- The kinds of a granule. -/
inductive GranuleKind where
  | system | owned | shared | released
  deriving DecidableEq, Repr

/-- KIND of an owner table entry. -/
def granuleKind (e : Nat) : GranuleKind :=
  match natBits e 13 12 with
  | 0 => .system
  | 1 => .owned
  | 2 => .shared
  | _ => .released

/-- The address of the byte of a group's map that holds a context's bit. -/
def State.groupAddr (s : State) (n x : Nat) : Nat := s.fld (R.xltGrpBase 4) F.xltGrpBase_ADDR * 131072 + 512 * n + x / 8

/-- Whether context `x` is a member of group `n` (R331). -/
def State.inGroup (s : State) (n x : Nat) : Bool := natBit (s.sysNat (s.groupAddr n x) 1) (x % 8)

/-- Whether a request of a context passes the owner table at a granule (R332). -/
def State.granulePass (s : State) (ctx : Nat) (g : Nat) (isRead : Bool) : Bool :=
  let e := s.gotEntry g
  let ro := natBit e 14
  !natBit e 15 && (!ro || isRead) &&
    match granuleKind e with
    | .owned => natBits e 11 0 == ctx
    | .shared => natBits e 11 8 == 0 && s.inGroup (natBits e 7 0) ctx
    | _ => false

/-- Whether an HBM address lies in a granule of kind SYSTEM. -/
def State.systemGranule (s : State) (pa : Nat) : Bool :=
  rangeOf pa == .hbm && granuleKind (s.gotEntry (granuleOf pa)) == .system

/-! ## Contexts (R285) -/

/-- The physical address of a context's table entry. -/
def State.ctxEntry (s : State) (ctx : Nat) : Nat := s.fld R.pkgCtxTbl F.pkgCtxTbl_ADDR * 64 + 64 * ctx

/-- Word Qn of a context's table entry. -/
def State.ctxQ (s : State) (ctx n : Nat) : Nat := s.sysNat (s.ctxEntry ctx + 8 * n) 8

/-- REGIONS of a context. -/
def State.ctxRegions (s : State) (ctx : Nat) : Nat := natBits (s.ctxQ ctx 0) 63 32

/-- Whether a flat region belongs to a context's partition. -/
def State.ctxHasRegion (s : State) (ctx r : Nat) : Bool := natBit (s.ctxRegions ctx) r

/-! ## The page walk (R320 to R326) -/

/-- The causes a walk can end with (R326). -/
inductive Cause where
  | notPresent (level : Nat) | ctx | malformed | table | permission | range
  deriving DecidableEq, Repr

/-- The code of a cause. -/
def Cause.code : Cause → Nat
  | .notPresent _ => 1 | .ctx => 2 | .malformed => 3 | .table => 4 | .permission => 5 | .range => 6

/-- A leaf: the page's device base, its size, its physical base and its bits. -/
structure Leaf where
  va : Nat
  size : Nat
  pa : Nat
  r : Bool
  w : Bool
  x : Bool
  c : Bool
  deriving DecidableEq, Repr

/-- A walk's end: its leaf or cause, the tables it met (level and address), for the walk cache, the addresses of the
words it read, and the address that it could not read. -/
structure WalkEnd where
  res : Except Cause Leaf
  tables : List (Nat × Nat)
  reads : List Nat
  stop : Option Nat := none

/-- Whether a leaf grants an access (R325). -/
def Leaf.grants (l : Leaf) : AccessKind → Bool
  | .read => l.r
  | .write => l.w
  | .atomic => l.r && l.w
  | .fetch => l.r && l.x

/-- Whether a table's 8-byte word lies where the walker may read it (R326 check 1, R327). -/
def State.tableReadable (s : State) (pa : Nat) : Bool := rangeOf pa == .hbm && s.stackAvail (stackOf pa) && s.systemGranule pa

/-- The end of a walk at a leaf: check 6 and check 5 of R326. -/
def leafEnd (l : Leaf) (a : AccessKind) : Except Cause Leaf :=
  if !l.grants a then .error .permission
  else match rangeOf l.pa with
    | .hbm => .ok l
    | .pcie _ => .ok l
    | _ => .error .range

/-- The walk from level `L` with its table's address, by the checks of R326 in order at each level; an uncorrectable word
ends it with cause TABLE (R578). -/
def State.walkFrom (s : State) (ctx va : Nat) (a : AccessKind) : Nat → Nat → List (Nat × Nat) → List Nat → WalkEnd
  | L, table, met, rd =>
    let pa := table + 8 * natBits va (20 + 9 * L) (12 + 9 * L)
    if !s.tableReadable pa then { res := .error .table, tables := met, reads := rd, stop := some pa }
    else if s.memUE pa 8 then { res := .error .table, tables := met, reads := rd ++ [pa] }
    else
      let rd := rd ++ [pa]
      let e := (s.memWord pa).toNat
      let ps := natBit e 5
      let size := 4096 * 512 ^ L
      let base := natBits e 51 12 * 4096
      if !natBit e 0 then { res := .error (.notPresent L), tables := met, reads := rd }
      else if natBits e 63 52 ≠ ctx then { res := .error .ctx, tables := met, reads := rd }
      else if natBits e 11 6 ≠ 0 then { res := .error .malformed, tables := met, reads := rd }
      else match L with
        | 0 => { res := leafEnd ⟨va / 4096 * 4096, 4096, base, natBit e 1, natBit e 2, natBit e 3, natBit e 4⟩ a, tables := met, reads := rd }
        | L' + 1 =>
          if ps then
            if L' + 1 = 3 ∨ base % size ≠ 0 then { res := .error .malformed, tables := met, reads := rd }
            else { res := leafEnd ⟨va / size * size, size, base, natBit e 1, natBit e 2, natBit e 3, natBit e 4⟩ a, tables := met, reads := rd }
          else State.walkFrom s ctx va a L' base ((L', base) :: met) rd

/-- The whole walk of a context's address (R321, R322). The read of Q1 is check 1 at the start. -/
def State.walk (s : State) (ctx va : Nat) (a : AccessKind) : WalkEnd :=
  let q1 := s.ctxEntry ctx + 8
  if !s.tableReadable q1 then { res := .error .table, tables := [], reads := [], stop := some q1 }
  else if s.memUE q1 8 then { res := .error .table, tables := [], reads := [q1] }
  else
    let q := (s.memWord q1).toNat
    if natBits q 11 0 ≠ 0 ∨ natBits q 63 52 ≠ 0 then { res := .error .malformed, tables := [], reads := [q1] }
    else s.walkFrom ctx va a 3 (natBits q 51 12 * 4096) [] [q1]

/-! ## Cached translations (R337, R338) -/

/-- The die whose walker serves a TLB: the cluster's die, or the host die for a PCIe port. -/
def tlbDie (t : Nat) : Nat := if t < 128 then t / 32 else 4

/-- A record about a stored entry of a TLB or walk cache (R577, R580, R677). Which entry of the structure it is the spec
does not say: its index is a free value below the number of entries. DESIGN CHOICE, log 37. -/
def State.entryRecord (s : State) (p : Page) (i : Nat) (ue : Bool) (loc : Loc) (ctx entries : Nat) (m : BitVec 72) (req : Loc)
    (inj : Bool) : State :=
  let f := s.takeFresh
  f.2.record { page := p, inst := i, sev := 1, code := if ue then 0x13 else 0x10, loc := loc, ctx := some ctx,
               addr := (Config.freeWord f.1).toNat % entries, kind := 5, syn := syndrome m, reqLoc := req.toNat, inj := inj }

/-- A stored entry with inverted bits `err` is read: an armed read injection strikes it (R593), a correctable error is
recorded, and an uncorrectable one invalidates the entry with CLEAN_UE (R580). The result says whether the entry is lost.
DEDUCED, log 36. -/
def State.entryRead (s : State) (p : Page) (i det : Nat) (loc : Loc) (ctx entries : Nat) (err : BitVec 72) (req : Loc) : Bool × State :=
  let fire := s.injFires p i det [1] (some ctx)
  let m := if fire then err ^^^ injMask (s.reg (R.inj p i)) else err
  let s := if fire then s.injFired p i else s
  match eccClass m with
  | .clean => (false, s)
  | .correctable _ => (false, s.entryRecord p i false loc ctx entries m req fire)
  | .uncorrectable => (true, s.entryRecord p i true loc ctx entries m req fire)

/-- The inverted bits with which an entry is stored: those of an armed store injection (R593). DEDUCED, log 36. -/
def State.entryStore (s : State) (p : Page) (i det ctx : Nat) : BitVec 72 × State :=
  if s.injFires p i det [0, 2] (some ctx) then (injMask (s.reg (R.inj p i)), s.injFired p i) else (0, s)

/-- The location code of the walker that serves a TLB: its die's, or the I/O translation of the port. -/
def walkerLoc (t : Nat) : Loc := if t < 128 then locDie (t / 32) 0 0x19 else locHost 9 (t - 128)

/-- The deepest cached table for an address, level by level from the deepest; a damaged entry leaves the walk cache. -/
def State.walkStart (s : State) (t ctx va : Nat) : List Nat → Option (Nat × Nat) × State
  | [] => (none, s)
  | L :: Ls =>
    match s.xl.walkCache.find? (fun e => e.die = tlbDie t ∧ e.ctx = ctx ∧ e.level = L ∧ e.tag = va / 2 ^ (21 + 9 * L)) with
    | none => State.walkStart s t ctx va Ls
    | some e =>
      match s.entryRead .xlt (tlbDie t) 0 (walkerLoc t) ctx 512 e.err (walkerLoc t) with
      | (false, s) => (some (L, e.table), s)
      | (true, s) => State.walkStart { s with xl := { s.xl with walkCache := s.xl.walkCache.erase e } } t ctx va Ls

/-- A walk for TLB `t` with the walk cache of its die: the deepest cached table for the address is the start. The words it
reads carry SYS (R319, R327), and are read as a request's are (R577, R578): one found uncorrectable ends it with cause TABLE.
A table in a reserved range or on an unavailable stack is recorded (R68, R316). -/
def State.cachedWalk (s : State) (t ctx va : Nat) (a : AccessKind) : Except Cause Leaf × List (Nat × Nat) × State :=
  match s.walkStart t ctx va [0, 1, 2] with
  | (start, s) =>
    let e := match start with
      | some (L, table) => s.walkFrom ctx va a L table [] []
      | none => s.walk ctx va a
    match s.readWords none (walkerLoc t) (e.reads.map (· / 8)) with
    | (true, s) => (.error .table, e.tables, s)
    | (false, s) => (e.res, e.tables, match e.stop with
      | some pa => s.sysMet (tlbDie t) pa (walkerLoc t)
      | none => s)

/-- New entries of the die's walk cache, stored one by one. -/
def State.newWalkEntries (s : State) (die ctx va : Nat) : List (Nat × Nat) → List WalkEntry × State
  | [] => ([], s)
  | e :: es =>
    match s.entryStore .xlt die 0 ctx with
    | (err, s) =>
      let r := State.newWalkEntries s die ctx va es
      (⟨die, ctx, e.1, va / 2 ^ (21 + 9 * e.1), e.2, err⟩ :: r.1, r.2)

/-- The tables met by a walk that ended with a translation enter the die's walk cache of 512 entries (R337).
DEDUCED, log 54. -/
def State.fillWalkCache (s : State) (die ctx va : Nat) (met : List (Nat × Nat)) : State :=
  let r := s.newWalkEntries die ctx va met
  let old := s.xl.walkCache.filter (fun e => !r.1.any (fun n => n.die = e.die ∧ n.ctx = e.ctx ∧ n.level = e.level ∧ n.tag = e.tag))
  let mine := (r.1 ++ old.filter (fun e => e.die = die)).take 512
  { r.2 with xl := { r.2.xl with walkCache := mine ++ old.filter (fun e => e.die ≠ die) } }

/-- The page, instance and detector of a TLB (R594), its block and its entries (R337, R416). -/
def tlbPlace (t : Nat) : Page × Nat × Nat × Loc × Nat :=
  if t < 128 then (.clu, t, 1, locCluster t 0x0A, 1024) else (.pcie, t - 128, 0, locHost 9 (t - 128), 2048)

/-- A translation enters a TLB: 1,024 entries a cluster's (R337), 2,048 a port's (R416). DEDUCED, log 54. -/
def State.fillTlb (s : State) (t ctx : Nat) (l : Leaf) : State :=
  let pl := tlbPlace t
  match s.entryStore pl.1 pl.2.1 pl.2.2.1 ctx with
  | (err, s) =>
    let e : TlbEntry := ⟨t, ctx, l.va, l.size, l.pa, l.r, l.w, l.x, l.c, err⟩
    let mine := (e :: s.xl.tlb.filter (fun x => x.tlb = t)).take pl.2.2.2.2
    { s with xl := { s.xl with tlb := mine ++ s.xl.tlb.filter (fun x => x.tlb ≠ t) } }

/-- The translation a TLB holds for an address of a context (R29); a damaged entry leaves the TLB (R580). -/
def State.tlbRead (s : State) (t ctx va : Nat) : Option Leaf × State :=
  match s.xl.tlb.find? (fun e => e.tlb = t ∧ e.ctx = ctx ∧ e.va ≤ va ∧ va < e.va + e.size) with
  | none => (none, s)
  | some e =>
    let pl := tlbPlace t
    match s.entryRead pl.1 pl.2.1 pl.2.2.1 pl.2.2.2.1 ctx pl.2.2.2.2 e.err pl.2.2.2.1 with
    | (false, s) => (some ⟨e.va, e.size, e.pa, e.r, e.w, e.x, e.c⟩, s)
    | (true, s) => (none, { s with xl := { s.xl with tlb := s.xl.tlb.erase e } })

/-- A translation, and what a request learns of it: the physical address and whether the page is cacheable. -/
structure Xlated where
  pa : Nat
  c : Bool
  deriving DecidableEq, Repr

/-- A fatal translation is kept in XLT.LAST_FATAL of the requester's die, with its flag (R340, R360). -/
def State.lastFatal (s : State) (die ctx va code : Nat) : State :=
  (s.setReg (R.xltLastFatal die) (BitVec.ofNat 64 (va % 2 ^ 48 + ctx * 2 ^ 48 + code * 2 ^ 60))).raise .xlt die 2

/-- A request's translation through TLB `t`: a hit is used as it stands; a miss walks (WALKS counts), and a walk that ends
with a leaf fills the caches. A cluster's lookups and misses are counted in its CLU page (R646). -/
def State.translate (s : State) (t ctx va : Nat) (a : AccessKind) : Except Cause Xlated × State :=
  let die := tlbDie t
  if va ≥ 2 ^ 48 then (.error .range, s.lastFatal die ctx va 6)
  else
    let s := if t < 128 then s.addFld (R.cluTlbLookup t) F.cluTlbLookup_COUNT 1 else s
    match s.tlbRead t ctx va with
    | (some l, s) =>
      if l.grants a then (.ok ⟨l.pa + (va - l.va), l.c⟩, s) else (.error .permission, s.lastFatal die ctx va 5)
    | (none, s) =>
      let s := if t < 128 then s.addFld (R.cluTlbMiss t) F.cluTlbMiss_COUNT 1 else s
      let s := s.addFld (R.xltWalks die) F.xltWalks_COUNT 1
      match s.cachedWalk t ctx va a with
      | (.ok l, met, s) => (.ok ⟨l.pa + (va - l.va), l.c⟩, (s.fillWalkCache die ctx va met).fillTlb t ctx l)
      | (.error (.notPresent L), _, s) => (.error (.notPresent L), s)
      | (.error c, _, s) => (.error c, s.lastFatal die ctx va c.code)

/-- Whether a translation through TLB `t` needs a table that lies beyond a link which carries nothing now: the walk waits (R18
to R20, R585). DEDUCED, log 41. -/
def State.walkHeld (s : State) (t ctx va : Nat) : Bool :=
  s.rep.links.any (fun e => e.2.retraining || e.2.dead)
    && !s.xl.tlb.any (fun e => decide (e.tlb = t ∧ e.ctx = ctx ∧ e.va ≤ va ∧ va < e.va + e.size))
    && (s.walk ctx va .read).reads.any (fun pa => s.memHeld (tlbDie t) pa)

/-! ## Requests of a context to package memory -/

/-- How a context's memory request ends when it is not performed. -/
inductive MemFail where
  | notPresent (level : Nat) (va : Nat)
  | fatal (st : Status)
  | busy
  /-- the address lies in the outbound window of a port (R411) -/
  | outbound (port pa : Nat)
  deriving DecidableEq, Repr

/-- How a home's read of its owner or group table fails, where it does: the table lies on an unavailable stack or the word is
uncorrectable, which is an uncorrectable error of the request that needs it (R68, R578), or in a reserved range, where all
ones come back, and an entry of all ones passes no context (R316, R332). DEDUCED, log 38. -/
def State.tableFail (s : State) (a len die : Nat) (req : Loc) : Option (Status × State) :=
  if isReserved a then some (.granule, s.addrReserved die a req)
  else if s.stackGone a then some (.uncorrectable, s.memUnavail a none req)
  else if s.memUE a len then some (.uncorrectable, (s.readWords none req (wordsOf a len)).2)
  else none

/-- The failure of the tables that the check of a granule for a context reads. -/
def State.tablesFail (s : State) (ctx pa : Nat) (req : Loc) : Option (Status × State) :=
  let die := stackOf pa / 4
  match s.tableFail (s.gotAddr (granuleOf pa)) 2 die req with
  | some f => some f
  | none =>
    let e := s.gotEntry (granuleOf pa)
    if granuleKind e = .shared ∧ natBits e 11 8 = 0 then s.tableFail (s.groupAddr (natBits e 7 0) ctx) 1 die req else none

/-- The check of a translated request at the home (R316, R332, R333, R68): GRANULE first, then the stack. DEDUCED, log 85. -/
def State.homeCheck (s : State) (ctx pa : Nat) (isRead : Bool) (req : Loc) : Option Status × State :=
  match rangeOf pa, s.tablesFail ctx pa req with
  | .hbm, some f => (some f.1, f.2)
  | .hbm, none =>
    if !s.granulePass ctx (granuleOf pa) isRead || (!isRead && s.wardenImage pa 1) then (some .granule, s)
    else if !s.stackAvail (stackOf pa) then (some .uncorrectable, s.memUnavail pa (some ctx) req)
    else (none, s)
  | _, _ => (some .granule, s)

/-- The port whose outbound window an address lies in. -/
def outPort (pa : Nat) : Option Nat :=
  match rangeOf pa with
  | .pcie q => some q
  | _ => none

/-- The region cache agent of a cluster. -/
def cacheOfTlb (t : Nat) : Nat := t / 4

/-- Words read through TLB `t` by a context: by way of the region cache where the page is cacheable, else at their home. -/
def State.pageWords (s : State) (t ctx : Nat) (c : Bool) (ws : List Nat) (req : Loc) : Bool × State :=
  if c then s.cacheWords (fun _ => cacheOfTlb t) cacheDets (some ctx) req ws else s.readWords (some ctx) req ws

/-- A translated read of up to one page: checked, the bytes as they are used. A C = 1 page is read through the region cache
(R328, R370). -/
def State.xRead (s : State) (t ctx : Nat) (x : Xlated) (len : Nat) (req : Loc) : Except MemFail (List Byte) × State :=
  match outPort x.pa, s.homeCheck ctx x.pa true req with
  | some q, _ => (.error (.outbound q x.pa), s)
  | none, (some st, s) => (.error (.fatal st), s)
  | none, (none, s) =>
    if (if x.c then s.waysBusy x.pa len else s.rangeBusy x.pa len) || s.memHeld (tlbDie t) x.pa then (.error .busy, s)
    else match s.pageWords t ctx x.c (wordsOf x.pa len) req with
      | (true, s) => (.error (.fatal .uncorrectable), s)
      | (false, s) =>
        let bs := s.memBytes x.pa len
        (.ok bs, if x.c then s.cachedFill (fun _ => cacheOfTlb t) cacheDets (some (BitVec.ofNat 12 ctx)) x.pa len
          else s.dirsMeet x.pa len (some (BitVec.ofNat 12 ctx)))

/-- A translated write of up to one page. A partial write that merges into an uncorrectable word consumes it (R581). -/
def State.xWrite (s : State) (t ctx : Nat) (x : Xlated) (bs : List Byte) (req : Loc) : Except MemFail Unit × State :=
  match outPort x.pa, s.homeCheck ctx x.pa false req with
  | some q, _ => (.error (.outbound q x.pa), s)
  | none, (some st, s) => (.error (.fatal st), s)
  | none, (none, s) =>
    if (if x.c then s.waysBusy x.pa bs.length else s.rangeBusy x.pa bs.length) || s.memHeld (tlbDie t) x.pa then (.error .busy, s)
    else match s.pageWords t ctx x.c (partWords x.pa bs.length) req with
      | (true, s) => (.error (.fatal .uncorrectable), s)
      | (false, s) =>
        if x.c then (.ok (), s.cachedStore (fun _ => cacheOfTlb t) cacheDets (some (BitVec.ofNat 12 ctx)) x.pa bs)
        else (.ok (), (s.dirsMeet x.pa bs.length (some (BitVec.ofNat 12 ctx))).storeBytes x.pa bs (some ctx) req)

/-- A read of up to one page by a context through TLB `t`. -/
def State.ctxRead (s : State) (t ctx va len : Nat) (a : AccessKind) (req : Loc) : Except MemFail (List Byte) × State :=
  if s.walkHeld t ctx va then (.error .busy, s)
  else match s.translate t ctx va a with
  | (.error (.notPresent L), s) => (.error (.notPresent L va), s)
  | (.error _, s) => (.error (.fatal .translation), s)
  | (.ok x, s) => s.xRead t ctx x len req

/-- A write of up to one page by a context through TLB `t`. -/
def State.ctxWrite (s : State) (t ctx va : Nat) (bs : List Byte) (req : Loc) : Except MemFail Unit × State :=
  if s.walkHeld t ctx va then (.error .busy, s)
  else match s.translate t ctx va .write with
  | (.error (.notPresent L), s) => (.error (.notPresent L va), s)
  | (.error _, s) => (.error (.fatal .translation), s)
  | (.ok x, s) => s.xWrite t ctx x bs req

/-- A read by a context of a range that may cross pages: page by page in ascending order. -/
def State.ctxReadSpan (s : State) (t ctx : Nat) (a : AccessKind) (req : Loc) : Nat → Nat → Nat → Except MemFail (List Byte) × State
  | 0, _, _ => (.ok [], s)
  | _ + 1, _, 0 => (.ok [], s)
  | fuel + 1, va, len + 1 =>
    let n := min (len + 1) (4096 - va % 4096)
    match s.ctxRead t ctx va n a req with
    | (.error e, s) => (.error e, s)
    | (.ok bs, s) =>
      match State.ctxReadSpan s t ctx a req fuel (va + n) (len + 1 - n) with
      | (.error e, s) => (.error e, s)
      | (.ok r, s) => (.ok (bs ++ r), s)

/-- A write by a context of a range that may cross pages. -/
def State.ctxWriteSpan (s : State) (t ctx : Nat) (req : Loc) : Nat → Nat → List Byte → Except MemFail Unit × State
  | 0, _, _ => (.ok (), s)
  | fuel + 1, va, bs =>
    if bs.isEmpty then (.ok (), s)
    else
      let n := min bs.length (4096 - va % 4096)
      match s.ctxWrite t ctx va (bs.take n) req with
      | (.error e, s) => (.error e, s)
      | (.ok _, s) => State.ctxWriteSpan s t ctx req fuel (va + n) (bs.drop n)

end Sys2Proof.Machine
end

