-- ==== Sys2Proof/Machine/Context.lean ====
section
/-! DEFINITION. Queues, credits and contexts as shared operations: the queue registers (R256, R311), sending and
returning credits (R270), the completion of a command (R263 to R269), and the teardown of a context (R289). -/

namespace Sys2Proof.Machine

/-! ## Queue registers -/

/-- The capacity of a ring of size code `n` (R256). -/
def ringCapacity (n : Nat) : Nat := if n = 12 then 65535 else 2 ^ (n + 4)

/-- The slots of a ring of size code `n`. -/
def ringSlots (n : Nat) : Nat := 2 ^ (n + 4)

/-- HEAD of a queue. -/
def State.qHead (s : State) (u q : Nat) : Nat := s.fld (R.unitQPtr u q) F.unitQPtr_HEAD
/-- TAIL of a queue. -/
def State.qTail (s : State) (u q : Nat) : Nat := s.fld (R.unitQPtr u q) F.unitQPtr_TAIL
/-- STATE of a queue. -/
def State.qState (s : State) (u q : Nat) : Nat := s.fld (R.unitQPtr u q) F.unitQPtr_STATE
/-- The context a queue is bound to. -/
def State.qCtx (s : State) (u q : Nat) : Nat := s.fld (R.unitQCfg u q) F.unitQCfg_CTX
/-- KIND of a queue. -/
def State.qKind (s : State) (u q : Nat) : Nat := s.fld (R.unitQCfg u q) F.unitQCfg_KIND
/-- EN of a queue. -/
def State.qEn (s : State) (u q : Nat) : Bool := s.bit (R.unitQCfg u q) F.unitQCfg_EN
/-- SIZE of a queue: a value above 12 is taken as 0 (R311). -/
def State.qSize (s : State) (u q : Nat) : Nat :=
  let n := s.fld (R.unitQCfg u q) F.unitQCfg_SIZE
  if 12 < n then 0 else n
/-- GRANTED of a queue of KIND 1 to 3: bits [55:39] of Qq_CFG (R311). -/
def grantedFld : Fld := ⟨55, 39⟩
/-- GRANTED of a queue. -/
def State.qGranted (s : State) (u q : Nat) : Nat := if s.qKind u q = 0 then 0 else s.fld (R.unitQCfg u q) grantedFld
/-- The entries a queue holds (R256). -/
def State.qCount (s : State) (u q : Nat) : Nat := (s.qTail u q + 65536 - s.qHead u q) % 65536
/-- The device address of ring entry `i` of a queue (R256). -/
def State.qEntryVa (s : State) (u q i : Nat) : Nat :=
  s.fld (R.unitQBase u q) F.unitQBase_RING * 64 + 64 * (i % ringSlots (s.qSize u q))
/-- A queue's STATE takes a code. -/
def State.setQState (s : State) (u q n : Nat) : State := s.setFld (R.unitQPtr u q) F.unitQPtr_STATE n
/-- LAST_STATUS takes a recorded status other than OK (R267). -/
def State.recordStatus (s : State) (u q code : Nat) : State :=
  if code = 0 then s else s.setFld (R.unitQPtr u q) F.unitQPtr_LAST_STATUS code

/-- A context's state (R286); FREE when nothing is listed. -/
def CtxSt.free : CtxSt := ⟨0, 0, 0, false, false, [], [], 0⟩
/-- What is known of a context. -/
def State.ctxSt (s : State) (c : Nat) : CtxSt := Sparse.get CtxSt.free s.sch.ctxs c
/-- A context's state is set, and STATE of Q7 of its table entry is written with it; CAUSE and LOC are written when it
becomes DOWN (R285, R289 step 6). -/
def State.setCtx (s : State) (c : Nat) (x : CtxSt) : State :=
  let s := { s with sch := { s.sch with ctxs := Sparse.set id CtxSt.free s.sch.ctxs c x } }
  let a := s.ctxEntry c + 56
  if s.wardenImage a 8 then s.imageDenied a (locHost 8 0)
  else
    let old := (s.memWord a).toNat
    let keep := if x.state = 6 then x.cause * 2 ^ 8 + x.loc * 2 ^ 16 else old / 256 % 2 ^ 24 * 256
    s.sysWrite 4 a (natToBytes 8 (x.state + keep)) (locHost 8 0)

/-- Whether a context is RUNNING, PREEMPTING, PREEMPTED or RESUMING: its memory requests may be made. -/
def State.ctxAlive (s : State) (c : Nat) : Bool := decide (1 ≤ (s.ctxSt c).state) && decide ((s.ctxSt c).state ≤ 4)

/-- The context resident on a unit. -/
def State.resident (s : State) (u : Nat) : Option Nat :=
  if s.bit (R.unitRes u) F.unitRes_RESIDENT then some (s.fld (R.unitRes u) F.unitRes_CTX) else none

/-- The commands of a queue in flight. -/
def State.inFlight (s : State) (u q : Nat) : List Flight := s.sch.flights.filter (fun f => f.u = u ∧ f.q = q)

/-- The commands of a unit in issue order. -/
def State.unitFlights (s : State) (u : Nat) : List Flight := s.sch.flights.filter (fun f => f.u = u)

/-- Whether none of a queue's commands is in flight. -/
def State.qDrained (s : State) (u q : Nat) : Bool := (s.inFlight u q).all (fun f => f.stage == .completed)

/-- Whether a request of a queue is parked. -/
def State.qParked (s : State) (u q : Nat) : Bool := s.xl.parks.any (fun p => p.die = unitDie u ∧ p.qid = queueId u q)

/-- Whether a queue is stopped: at a rest point, a decision point, or before a W0-mode fence. -/
def State.qStopped (s : State) (u q : Nat) : Bool :=
  match lookupKey s.sch.stops (queueId u q) with
  | none => false
  | some (.toward _) => false
  | some _ => true

/-- STATE of a queue that is not lost, down or disabled follows what it does: 3 while a request of it is parked (R341, R343),
4 while it is stopped, 2 with a head that waits, 0 empty, 1 issuing. -/
def State.settleQ (s : State) (u q : Nat) : State :=
  if 5 ≤ s.qState u q then s
  else s.setQState u q (if s.qParked u q then 3 else if s.qStopped u q then 4
    else if (lookupKey s.sch.heads (queueId u q)).isSome then 2 else if s.qCount u q = 0 then 0 else 1)

/-! ## Buffers (R281, R282) -/

/-- A buffer table entry. -/
structure Buf where
  base : Nat
  rd : Bool
  wr : Bool
  valid : Bool
  bound : Nat
  deriving DecidableEq, Repr

/-- The address of entry `i` of a context's buffer table (R281). -/
def State.bufAddr (s : State) (ctx i : Nat) : Nat := natBits (s.ctxQ ctx 3) 51 4 * 16 + 16 * i

/-- The bits of entry `i` of a context's buffer table, read with SYS (R281, R319); at or above BUF_COUNT no entry is valid.
DEDUCED, log 55. -/
def State.bufBits (s : State) (ctx i : Nat) : BitVec 128 :=
  if i < natBits (s.ctxQ ctx 4) 16 0 then BitVec.ofNat 128 (s.sysNat (s.bufAddr ctx i) 16) else 0

/-- A buffer table entry from its bits (R281). -/
def bufOf (b : BitVec 128) : Buf :=
  ⟨natBits b.toNat 47 0, natBit b.toNat 48, natBit b.toNat 49, natBit b.toNat 50, natBits b.toNat 111 64⟩

/-- Check 1 of R282: the buffer may be named for the access. -/
def Buf.ok (b : Buf) (write : Bool) : Bool := b.valid && (if write then b.wr else b.rd)

/-- Entry `i` of a context's buffer table as it stands now. -/
def State.buf (s : State) (ctx i : Nat) : Buf := bufOf (s.bufBits ctx i)

/-- Check 1 of R282 for an entry as it stands now. -/
def State.bufOk (s : State) (ctx i : Nat) (write : Bool) : Bool := (s.buf ctx i).ok write

/-- The buffer indices that a command names: the sides of a DMA_COPY of KIND 0, and the source of a PREFETCH (R348, R357). -/
def bufNames (e : BitVec 512) : List (Option Nat) :=
  let side := fun o => if entBits e o 1 0 = 0 then some (entBits e o 17 2) else none
  match Ent.opcode e with
  | 0x40 => [side 16, side 32]
  | 0x42 => [side 16]
  | _ => []

/-! ## Credits (R270, R271) -/

/-- Whether a credit line is valid. -/
def State.crlValid (s : State) (u n : Nat) : Bool := s.bit (R.unitCrl u n) F.unitCrl_VALID

/-- Credits reach a line: added, saturating at 65,536 with CRL_OVF; discarded on a line that is not valid (R270). -/
def State.addCredits (s : State) (u n k : Nat) : State :=
  if s.crlValid u n then
    let c := s.fld (R.unitCrl u n) F.unitCrl_CREDITS + k
    let s := s.setFld (R.unitCrl u n) F.unitCrl_CREDITS (min c 65536)
    if c > 65536 then s.raise .unit u 3 else s
  else s

/-! ## Sending (R264, R265, R270) -/

/-- Entries a send buffer holds. -/
def sendBufSize : Nat := 32

/-- Whether a unit's send buffer has room. -/
def State.sendRoom (s : State) (u : Nat) : Bool := decide ((s.sch.sendBuf.filter (fun e => e.u = u)).length < sendBufSize)

/-- The entries that are in a unit's send buffer, oldest first: a token that finds it full waits outside for a place (R270).
DEDUCED, log 43. -/
def State.sendEntries (s : State) (u : Nat) : List SendEntry := (s.sch.sendBuf.filter (fun e => e.u = u)).take sendBufSize

/-- A token or message enters a unit's send buffer. -/
def State.pushSend (s : State) (u line q seq ctx : Nat) (isMsg : Bool) (e : BitVec 512) : State :=
  { s with sch := { s.sch with sendBuf := s.sch.sendBuf ++ [⟨u, line, q, seq, ctx, isMsg, e, s.now⟩] } }

/-! ## Teardown (R289, R290) -/

/-- A line is written back and invalidated; a stack that is gone takes nothing, and the write fails (R68). -/
def State.flushLine (s : State) (line : Nat) : State :=
  let s := if s.stackGone (line * 128) && (s.liveLine line).isSome then
      s.memUnavail (line * 128) none (locStack (stackOf (line * 128))) else s
  s.recallLine line

/-- A sync of every granule (R334): every cached line, and every line that a transaction is bringing to a cache, is written
back and invalidated. -/
def State.flushLines (s : State) (p : Nat → Bool) : State :=
  let held : List Nat := s.coh.lines.map (fun (e : Nat × CacheLine) => e.1 / 64)
  let moving : List Nat := s.coh.txns.map Txn.subject
  ((held ++ moving).dedup.filter p).foldl State.flushLine s

/-- The granules OWNED by a context become RELEASED, their ID kept, and its group bits clear (R335). -/
def State.releaseGranules (s : State) (ctx : Nat) : State :=
  let got := s.fld (R.xltGotBase 4) F.xltGotBase_ADDR * 65536
  let grp := s.fld (R.xltGrpBase 4) F.xltGrpBase_ADDR * 131072
  let s := s.flushLines (fun _ => true)
  let owned := (s.mem.filter (fun e => decide (got ≤ e.1) && decide (e.1 < got + 25165824) && e.1 % 2 == 1)).map
    (fun e => (e.1 - got) / 2)
  let s := owned.foldl (fun s g =>
    let e := s.gotEntry g
    if granuleKind e = .owned ∧ natBits e 11 0 = ctx then
      s.putBytes (got + 2 * g) (natToBytes 2 (e + 0x2000))
    else s) s
  let maps := s.mem.filter (fun e => decide (grp ≤ e.1) && decide (e.1 < grp + 131072) && (e.1 - grp) % 512 == ctx / 8)
  maps.foldl (fun s e => s.putByte e.1 (e.2 &&& ~~~(BitVec.ofNat 8 (2 ^ (ctx % 8))))) s

/-- The units that hold anything of a context: where it is resident, or a queue or credit line is bound to it. The queue
and line registers that are set are those the register file lists. -/
def State.ctxUnits (s : State) (ctx : Nat) : List Nat :=
  (s.regs.filterMap (fun e =>
    if (e.1.name = .unitRes ∧ F.unitRes_RESIDENT.get e.2 = 1 ∧ F.unitRes_CTX.get e.2 = ctx)
      ∨ (e.1.name = .unitQCfg ∧ F.unitQCfg_EN.get e.2 = 1 ∧ F.unitQCfg_CTX.get e.2 = ctx)
      ∨ (e.1.name = .unitCrl ∧ F.unitCrl_VALID.get e.2 = 1 ∧ F.unitCrl_CTX.get e.2 = ctx)
    then some e.1.inst else none)).dedup

/-- Every queue bound to a context takes STATE DOWN, and every credit line bound to it clears VALID and CREDITS (R289 step
3, R270). Queues that are not enabled are bound to nothing. -/
def State.downQueues (s : State) (ctx : Nat) : State :=
  let qs := s.regs.filterMap (fun e =>
    if e.1.name = .unitQCfg ∧ F.unitQCfg_EN.get e.2 = 1 ∧ F.unitQCfg_CTX.get e.2 = ctx then some (e.1.inst, e.1.idx) else none)
  let ls := s.regs.filterMap (fun e =>
    if e.1.name = .unitCrl ∧ F.unitCrl_VALID.get e.2 = 1 ∧ F.unitCrl_CTX.get e.2 = ctx then some (e.1.inst, e.1.idx) else none)
  let s := qs.foldl (fun s p => s.setQState p.1 p.2 6) s
  let s := ls.foldl (fun s p => (s.setFld (R.unitCrl p.1 p.2) F.unitCrl_VALID 0).setFld (R.unitCrl p.1 p.2) F.unitCrl_CREDITS 0) s
  let mine := fun (k : Nat) => qs.any (fun p => queueId p.1 p.2 = k)
  { s with sch := { s.sch with heads := s.sch.heads.filter (fun e => !mine e.1)
                               stops := s.sch.stops.filter (fun e => !mine e.1)
                               fbFetch := s.sch.fbFetch.filter (fun k => !mine k) } }

/-- The channels of a context end: what is written stays written (R289 step 2). -/
def State.dropChans (s : State) (p : Chan → Bool) : State :=
  let gone := s.xl.chans.filter (fun e => p e.2)
  let s := { s with xl := { s.xl with chans := s.xl.chans.filter (fun e => !p e.2) } }
  gone.foldl (fun s e =>
    let c := e.1 / 16
    let ch := e.1 % 16
    (((s.setReg (R.dmaCh c ch) 0).setBit (R.dmaSts c) ch false).setBit (R.dmaSts c) (16 + ch) false)) s

/-- Parked requests and latched fault records of a context are discarded (R344). -/
def State.dropParks (s : State) (p : Park → Bool) (lat : BitVec 256 → Bool) : State :=
  let s := { s with xl := { s.xl with parks := s.xl.parks.filter (fun k => !p k)
                                      latches := s.xl.latches.filter (fun l => !lat l.2.2) } }
  let s := { s with pcie := s.pcie.map (fun e => (e.1, { e.2 with parked := e.2.parked.filter (fun k => !k.parked || s.xl.parks.any (fun x =>
    match x.who with
    | .pcie port bdf => decide (port.val = e.1) && decide (bdf = k.req.bdf.toNat)
    | _ => false)) })) }
  (List.range 5).foldl (fun s d =>
    if s.xl.latches.any (fun l => l.1 = d) then s else s.setFld (R.xltSts d) F.xltSts_FQ_HELD 0) s

/-- A unit's engines. -/
def State.unitEng (s : State) (u : Nat) : UnitEng := Sparse.get UnitEng.idle s.eng.units u

/-- A unit's engines are set. -/
def State.setEng (s : State) (u : Nat) (e : UnitEng) : State :=
  { s with eng := { s.eng with units := Sparse.set id UnitEng.idle s.eng.units u e } }

/-- The engines of a unit stop: passes, lane sums, reads and outputs in flight are discarded (R166); the weight registers
keep what they hold, and the cycles go on. -/
def State.haltEngines (s : State) (u : Nat) : State :=
  let e := s.unitEng u
  let s := s.setEng u { e with free := 0, entered := [], tails := [], jobs := [], drain := none, outs := [], wrote := [] }
  ((s.setReg (R.accOwn u) 0).setFld (R.arrSts u) ⟨2, 0⟩ 0).setFld (R.vecSts u) ⟨1, 0⟩ 0

/-- Each unit where a context is resident acts under R166: its commands end, its tokens are released, and its 8,192
entries become FINITE zero. -/
def State.stopUnits (s : State) (ctx : Nat) : State :=
  let us := (s.regs.filterMap (fun e =>
    if e.1.name = .unitRes ∧ F.unitRes_RESIDENT.get e.2 = 1 ∧ F.unitRes_CTX.get e.2 = ctx then some e.1.inst else none)).dedup
  let s := { s with sch := { s.sch with flights := s.sch.flights.filter (fun f => f.ctx ≠ ctx)
                                        sendBuf := s.sch.sendBuf.filter (fun e => e.ctx ≠ ctx) } }
  us.foldl (fun s u => (s.clearAcc u).haltEngines u) s

/-- Cluster TLB entries and cached tables of a context leave (R289 step 4). -/
def State.dropTlb (s : State) (ctx : Nat) : State :=
  { s with xl := { s.xl with tlb := s.xl.tlb.filter (fun e => e.ctx ≠ ctx)
                             walkCache := s.xl.walkCache.filter (fun e => e.ctx ≠ ctx) } }

/-- Cluster memory windows of a context are set to zero and lose VALID (R336). DEDUCED, log 55. -/
def State.dropWindows (s : State) (ctx : Nat) : State :=
  let ws := s.regs.filterMap (fun e =>
    if e.1.name = .cluWin ∧ F.cluWin_VALID.get e.2 = 1 ∧ F.cluWin_CTX.get e.2 = ctx then some (e.1.inst, e.1.idx) else none)
  ws.foldl (fun s w =>
    let b := cluMemAddr w.1 (w.2 * 65536)
    let s := s.setFld (R.cluWin w.1 w.2) F.cluWin_VALID 0
    { s with mem := s.mem.filter (fun e => !(decide (b ≤ e.1) && decide (e.1 < b + 65536)))
             errs := s.errs.filter (fun e => !(decide (b ≤ 8 * e.1) && decide (8 * e.1 < b + 65536)))
             sch := { s.sch with winTags := eraseKey s.sch.winTags (w.1 * 128 + w.2) } }) s

/-- A stream disarms, and a token that waits for it is discarded (R93). -/
def State.disarmStream (s : State) (n : Nat) : State :=
  let s := s.setFld (R.timeAstrCfg n) F.timeAstrCfg_ARM 0
  { s with time := { s.time with waiting := eraseKey s.time.waiting n } }

/-- A stream is treated under R93: it disarms, and its unfired entries are discarded. -/
def State.endStream (s : State) (n : Nat) : State :=
  (s.disarmStream n).setFld (R.timeAstrTail n) F.timeAstrTail_TAIL (s.fld (R.timeAstrHead n) F.timeAstrHead_HEAD)

/-- The streams bound to a context are treated under R93, and its tokens that wait at the time base are discarded. -/
def State.dropStreams (s : State) (ctx : Nat) : State :=
  let ns := s.regs.filterMap (fun e =>
    if e.1.name = .timeAstrCfg ∧ F.timeAstrCfg_CTX.get e.2 = ctx then some e.1.idx else none)
  let ns := if ctx = 0 then (List.range 64).filter (fun n => s.fld (R.timeAstrCfg n) F.timeAstrCfg_CTX = 0) else ns
  let s := { s with time := { s.time with waiting := s.time.waiting.filter (fun e => e.2.ctx != ctx) } }
  ns.foldl State.endStream s

/-- The random-number key slots bound to a context lose VALID and their key (R138). -/
def State.clearKeySlot (s : State) (n : Nat) : State :=
  let s := s.setFld (R.secRkeyCfg n) F.secRkeyCfg_VALID 0
  (List.range 4).foldl (fun s k => s.setReg (R.secRkeyK (n * 4 + k)) 0) s

/-- The key slots of a context (R138): every slot whose CTX names it. Slots that hold their reset values need no clearing. -/
def State.dropKeys (s : State) (ctx : Nat) : State :=
  let ns := s.regs.filterMap (fun e =>
    if e.1.name = .secRkeyCfg ∧ F.secRkeyCfg_CTX.get e.2 = ctx then some e.1.idx
    else if ctx = 0 ∧ e.1.name = .secRkeyK ∧ s.fld (R.secRkeyCfg (e.1.idx / 4)) F.secRkeyCfg_CTX = 0 then some (e.1.idx / 4) else none)
  ns.dedup.foldl State.clearKeySlot s

/-- Requests of a context that wait in a home's age queue leave it (R381). -/
def State.dropAged (s : State) (ctx : Nat) : State :=
  { s with coh := { s.coh with ageQ := s.coh.ageQ.filter (fun e => e.2.ctx.map (·.toNat) ≠ some ctx) } }

/-- The command in progress in CTX_CMD, where it names this context (R675). -/
def State.cmdBusy (s : State) (ctx cmd : Nat) : Bool :=
  s.bit R.pkgCtxCmdSts F.pkgCtxCmdSts_BUSY && s.fld R.pkgCtxCmdSts F.pkgCtxCmdSts_CTX == ctx
    && s.fld R.pkgCtxCmdSts F.pkgCtxCmdSts_CMD == cmd

/-- The command in progress ends: BUSY clears, RESULT is written, CTX_DONE is set (R675). -/
def State.cmdEnd (s : State) (result : Nat) : State :=
  ((s.setFld R.pkgCtxCmdSts F.pkgCtxCmdSts_BUSY 0).setFld R.pkgCtxCmdSts F.pkgCtxCmdSts_RESULT result).raise .pkg 0 2

/-- The teardown of a context begins with a cause and a place (R286, R289 steps 1 to 5): a context that is RUNNING,
PREEMPTING, PREEMPTED or RESUMING; any other is left as it is (R582). -/
def State.beginTeardown (s : State) (ctx cause loc : Nat) : State :=
  if s.ctxAlive ctx then
    let s := s.setCtx ctx { s.ctxSt ctx with state := 5, cause := cause, loc := loc, uncorr := cause == 0x2B, saved := [], rests := [],
                                             since := s.now }
    let s := s.stopUnits ctx
    let s := s.dropChans (fun c => c.ctx == ctx)
    let s := s.downQueues ctx
    let s := s.dropParks (fun p => p.ctx == ctx) (fun r => natBits r.toNat 59 48 == ctx)
    let s := s.dropTlb ctx
    let s := s.dropWindows ctx
    let s := s.releaseGranules ctx
    let s := s.dropStreams ctx
    let s := s.dropKeys ctx
    let s := s.dropAged ctx
    s.dropSlots ctx
  else s

/-- The 4,096 bytes that a context's save area has for a unit become undefined (R290): free values, where the context's
own translation gives them a place it may write. DESIGN CHOICE, log 48. -/
def State.spoilArea (s : State) (ctx u : Nat) : State :=
  match (s.translate (unitCluster u) ctx (natBits (s.ctxQ ctx 6) 47 12 * 4096 + u * 4096) .write).1 with
  | .ok x =>
    if (s.homeCheck ctx x.pa false 0).1.isSome then s
    else { s.homeWrite x.pa ((List.range 4096).map (fun i => Config.freeByte (s.fresh + i))) with fresh := s.fresh + 4096 }
  | .error _ => s

/-- A context faults (R289): its teardown begins with the status as CAUSE. A fault during PREEMPTING or RESUMING leaves the
save area undefined (R290). DESIGN CHOICE, log 48. -/
def State.ctxFault (s : State) (ctx status : Nat) (loc : Loc) : State :=
  let s := if (s.ctxSt ctx).state = 2 ∨ (s.ctxSt ctx).state = 4 then (s.ctxUnits ctx).foldl (fun s u => s.spoilArea ctx u) s else s
  s.beginTeardown ctx status loc.toNat

/-! ## Completion (R263 to R269, R674) -/

/-- The wait entries a completed command took are freed, and the credit of each that carries one returns (R269).
DEDUCED, log 43. -/
def State.freeTaken (s : State) (u : Nat) (ts : List Taken) : State :=
  ts.foldl (fun s t => if t.srcValid then s.sendCredits u t.srcPkg t.srcUnit t.srcLine 1 0 0 none else s) s

/-- DONE_SEQ moves over every leading completed command of a queue, and they leave the list (R267). -/
def State.retire (s : State) (u q : Nat) : Nat → State
  | 0 => s
  | fuel + 1 =>
    match s.sch.flights.find? (fun f => f.u = u ∧ f.q = q) with
    | some f =>
      if f.stage = .completed then
        let s := s.setFld (R.unitQPtr u q) F.unitQPtr_DONE_SEQ f.seq
        State.retire { s with sch := { s.sch with flights := s.sch.flights.eraseP (fun g => g.u = u ∧ g.q = q ∧ g.seq = f.seq) } } u q fuel
      else s
    | none => s

/-- A change of one issued command. -/
def State.setFlight (s : State) (u q seq : Nat) (f : Flight → Flight) : State :=
  { s with sch := { s.sch with flights := s.sch.flights.map (fun g => if g.u = u ∧ g.q = q ∧ g.seq = seq then f g else g) } }

/-- The oldest issued command of a queue that has not completed, of a kind. -/
def State.flight (s : State) (u q : Nat) (p : Flight → Bool) : Option Flight :=
  s.sch.flights.find? (fun f => f.u = u && f.q = q && f.stage != .completed && p f)

/-- Whether W0_MODE of a context is 1 (R285, R296). -/
def State.w0Mode (s : State) (ctx : Nat) : Bool := natBit (s.ctxQ ctx 0) 1

/-- Whether queues of a context stop on a unit after REST commands (R292): REST_REQ is 1 there, and the context is the one
being preempted, not in W0 mode (R296). -/
def State.restStops (s : State) (u ctx : Nat) : Bool :=
  s.bit (R.unitRes u) F.unitRes_REST_REQ && (s.ctxSt ctx).state == 2 && !s.w0Mode ctx

/-- A queue stops. -/
def State.stopQ (s : State) (u q : Nat) (k : StopKind) : State :=
  ({ s with sch := { s.sch with stops := insertKey s.sch.stops (queueId u q) k } }).settleQ u q

/-- What a queue does after a completed command with REST at 1: LAST_REST, and the stops of R292 and R303. A queue that
resumed toward a rest point passes others (R293). -/
def State.afterRest (s : State) (f : Flight) : State :=
  if Ent.rest f.entry then
    let id := Ent.restId f.entry
    let s := s.setFld (R.unitRes f.u) F.unitRes_LAST_REST id
    let passes := match lookupKey s.sch.stops (queueId f.u f.q) with
      | some (.toward n) => n != id
      | _ => false
    if Ent.decide f.entry then s.stopQ f.u f.q (.decide id s.now)
    else if s.restStops f.u f.ctx && !passes then s.stopQ f.u f.q (.rest id)
    else s
  else s

/-- The status of a completion that leaves no fault: its token enters the send buffer when DONE_EN is 1 (R264, R265). -/
def State.tokenOut (s : State) (f : Flight) (status detail : Nat) : State :=
  if Ent.doneEn f.entry && Ent.opcode f.entry != 0x09 then
    let body := tokenBody f.seq (Ent.opcode f.entry) status detail (s.nowAt (unitDie f.u)) f.q
    s.pushSend f.u (Ent.doneLine f.entry) f.q f.seq f.ctx false (deliveredEntry 0x01 0 f.seq 0 0 0 false body)
  else s

/-- A command completes, once, with a status and a detail (R263): its channel is free (R347), its wait entries are freed, its status is recorded, its
token leaves (unless its status faults the context: R289 step 1), HOST_LOST stops its queue (R424), and DONE_SEQ follows
(R267). -/
def State.complete (s : State) (f : Flight) (status detail : Nat) (loc : Loc) : State :=
  let s := s.setFlight f.u f.q f.seq (fun g => { g with stage := .completed, taken := [] })
  let s := if f.eng = .dma then s.dropChans (fun k => k.u == f.u && k.q == f.q && k.seq == f.seq) else s
  let s := s.recordStatus f.u f.q status
  if faultsCode status then (s.retire f.u f.q s.sch.flights.length).ctxFault f.ctx status loc
  else
    let s := s.freeTaken f.u f.taken
    let s := s.tokenOut f status detail
    let s := if status = 0x2A then (s.setQState f.u f.q 5).raise .host 0 2 else s
    let s := s.afterRest f
    s.retire f.u f.q s.sch.flights.length

/-- A command that fails a check completes with the status (R262, R266). DEDUCED, log 27. -/
def State.failCmd (s : State) (f : Flight) (st : Status) (loc : Loc) : State := s.complete f st.code 0 loc

end Sys2Proof.Machine
end

