-- ==== Sys2Proof/Machine/Park.lean ====
section
/-! DEFINITION. Translation requests: fault records and their queues (R339, R340, R342), parking (R341), and outbound PCIe
requests of the package's own agents (R411, R412, R420 to R424). -/

namespace Sys2Proof.Machine

/-! ## Fault queues -/

/-- A fault record (R339). -/
def faultRecord (va ctx : Nat) (loc : Loc) (write fetch : Bool) (level seq qid restart : Nat) (time : Word) : BitVec 256 :=
  BitVec.ofNat 256 ((va % 2 ^ 48 + ctx * 2 ^ 48 + 2 ^ 60)
    + (loc.toNat + bitNat write * 2 ^ 16 + bitNat fetch * 2 ^ 17 + level * 2 ^ 18 + seq * 2 ^ 20 + qid * 2 ^ 40) * 2 ^ 64
    + restart % 2 ^ 64 * 2 ^ 128 + time.toNat * 2 ^ 192)

/-- Whether a die's fault queue is full (R360). -/
def State.fqFull (s : State) (die : Nat) : Bool :=
  (s.fld (R.xltFqTail die) F.xltFqTail_TAIL + 65536 - s.fld (R.xltFqHead die) F.xltFqHead_HEAD) % 65536 == 4096

/-- A record is appended to its die's ring (R340). A ring outside memory takes nothing (R68, R316). -/
def State.fqAppend (s : State) (die : Nat) (r : BitVec 256) : State :=
  let t := s.fld (R.xltFqTail die) F.xltFqTail_TAIL
  let a := s.fld (R.xltFqBase die) F.xltFqBase_ADDR * 131072 + 32 * (t % 4096)
  let s := if s.wardenImage a 32 then s.imageDenied a (locDie die 0 0x1C) else s.sysWrite die a (natToBytes 32 r.toNat) (locDie die 0 0x1C)
  (s.setFld (R.xltFqTail die) F.xltFqTail_TAIL (t + 1)).raise .xlt die 0

/-- A fault record enters the ring, or waits in the requester's latch when the ring is full or an older record of the die
still waits (R340, R342: the oldest fault goes first). DEDUCED, log 63. -/
def State.faultQueued (s : State) (die qid : Nat) (r : BitVec 256) : State :=
  if s.fqFull die || s.xl.latches.any (fun l => l.1 = die) then
    let s := { s with xl := { s.xl with latches := s.xl.latches ++ [(die, qid, r)] } }
    ((s.satFld (R.xltFqOvf die) F.xltFqOvf_COUNT 1).setFld (R.xltSts die) F.xltSts_FQ_HELD 1).raise .xlt die 1
  else s.fqAppend die r

/-- A requester parks on NOT_PRESENT with its record (R341). -/
def State.park (s : State) (die qid : Nat) (who : Requester) (ctx va : Nat) (a : AccessKind) (level seq restart : Nat)
    (loc : Loc) : State :=
  let write := a == .write || a == .atomic
  let s := { s with xl := { s.xl with parks := s.xl.parks ++ [Park.mk die qid who ctx va a] } }
  s.faultQueued die qid (faultRecord va ctx loc write (a == .fetch) level seq qid restart (s.nowAt die))

/-- A local sequencer's request of a queue parks: the queue takes STATE 3 (R341). -/
def State.parkSeq (s : State) (u q : Nat) (who : Requester) (ctx va : Nat) (a : AccessKind) (level seq restart : Nat) : State :=
  (s.park (u / 256) (queueId u q) who ctx va a level seq restart (locUnit u 0)).settleQ u q

/-! ## Outbound PCIe requests -/

/-- A PCIe port's state. -/
def State.pport (s : State) (q : Nat) : PciePort := Sparse.get PciePort.idle s.pcie q

/-- A PCIe port's state is set. -/
def State.setPport (s : State) (q : Nat) (x : PciePort) : State := { s with pcie := Sparse.set id PciePort.idle s.pcie q x }

/-- Whether a port is in endpoint mode (R406). -/
def State.pcieEndpoint (s : State) (q : Nat) : Bool := s.bit (R.pcieLinkSts q) F.pcieLinkSts_MODE_CUR

/-- Whether outbound requests are sent: the link is up, and an endpoint's Bus Master Enable is 1 (R412). A link in recovery
is not down: its requests wait and are replayed (R422). -/
def State.outOpen (s : State) (q : Nat) : Bool :=
  2 ≤ s.fld (R.pcieLinkSts q) F.pcieLinkSts_STATE && (!s.pcieEndpoint q || s.bit (R.pcieLinkSts q) F.pcieLinkSts_BME)

/-- The PCIe address of an address in a port's outbound window (R411). -/
def State.outAddr (s : State) (q pa : Nat) : Nat :=
  (s.fld (R.pcieOutBase q) F.pcieOutBase_ADDR * 4096 + (pa - (pcieBase + q * 0x10000000000))) % 2 ^ 64

/-- The cached translation that a request has used (R338), as its context, its page's device base and its size. -/
def State.pageOf (s : State) (v : Nat × Nat) : Nat × Nat × Nat :=
  match s.xl.tlb.find? (fun e => e.ctx = v.1 ∧ e.va ≤ v.2 ∧ v.2 < e.va + e.size) with
  | some e => (v.1, e.va, e.size)
  | none => (v.1, v.2 / 4096 * 4096, 4096)

/-- An outbound write leaves for a port; a command's queue remembers the port until a flush proves arrival (R421). -/
def State.outWrite (s : State) (q pa : Nat) (bs : List Byte) (ro : Bool) (o : OutOwner) (via : Option (Nat × Nat)) : State :=
  let x := s.pport q
  let s := s.setPport q { x with outW := x.outW ++ [⟨s.outAddr q pa, bs, ro, o, via.map s.pageOf⟩] }
  match o with
  | .cmd u lq _ =>
    let k := queueId u lq
    let ps := Sparse.get [] s.sch.outPorts k
    { s with sch := { s.sch with outPorts := Sparse.set id [] s.sch.outPorts k (if ps.contains q then ps else ps ++ [q]) } }
  | _ => s

/-- An outbound read leaves for a port; at most 512 are outstanding (R405), further ones wait unsent. -/
def State.outRead (s : State) (q addr len : Nat) (o : OutOwner) (via : Option (Nat × Nat)) : State :=
  let x := s.pport q
  if 512 ≤ x.outR.length then s else s.setPport q { x with outR := x.outR ++ [⟨addr, len, o, s.now, via.map s.pageOf⟩] }

/-- Whether a command has outbound requests under way. -/
def State.outBusy (s : State) (u q seq : Nat) : Bool :=
  (List.range 4).any (fun p => (s.pport p).outW.any (fun w => w.owner = .cmd u q seq) || (s.pport p).outR.any (fun r => r.owner = .cmd u q seq))

/-- A queue takes STATE 5 because its fetch was not served (R424). -/
def State.fetchLost (s : State) (u q : Nat) : State :=
  ((s.setQState u q 5).recordStatus u q 0x2A).raise .host 0 2

end Sys2Proof.Machine
end

