-- ==== Sys2Proof/Machine/Queues.lean ====
section
/-! DEFINITION. The queue commands: ring fetch and header checks (R258 to R262), issue (R268, R275, R276), completion
(R263), tokens, messages and credits (R270 to R274), and the control commands (R278 to R280). -/

namespace Sys2Proof.Machine

/-- The local queue of a queue ID. -/
def qidQueue (k : Nat) : Nat := k % 128
/-- The unit of a queue ID. -/
def qidUnit (k : Nat) : Nat := k / 128 % 1024

/-! ## Rest (R292, R293, R296) -/

/-- Whether a command queue counts as still for rest: empty with nothing in flight, or HOST_LOST with nothing in flight
(R425); stopped after a REST command (R293), or in W0 mode before a fence (R296), where REST flags are ignored. A parked one
never is (R345). -/
def State.queueStill (s : State) (u q ctx : Nat) : Bool :=
  !s.qParked u q &&
    ((s.qDrained u q && (s.qCount u q == 0 || s.qState u q == 5)) ||
      (match lookupKey s.sch.stops (queueId u q) with
      | some .w0 => true
      | some (.rest _) => !s.w0Mode ctx
      | some (.decide _ _) => !s.w0Mode ctx
      | _ => false))

/-- The REST_ID a queue is stopped at, where it is stopped after a REST command. -/
def State.stopId (s : State) (u q : Nat) : Option Nat :=
  match lookupKey s.sch.stops (queueId u q) with
  | some (.rest n) => some n
  | some (.decide n _) => some n
  | _ => none

/-- The command queues of a context on a unit. -/
def State.cmdQueues (s : State) (u ctx : Nat) : List Nat :=
  (List.range 128).filter (fun q => s.qEn u q && s.qKind u q == 0 && s.qCtx u q == ctx)

/-- The REST_IDs at which queues of a context are stopped on a unit. -/
def State.restIds (s : State) (u ctx : Nat) : List Nat := ((s.cmdQueues u ctx).filterMap (fun q => s.stopId u q)).dedup

/-- Whether a unit is at rest for a context (R293, R296). -/
def State.unitResting (s : State) (u ctx : Nat) : Bool :=
  (s.cmdQueues u ctx).all (fun q => s.queueStill u q ctx) && (s.w0Mode ctx || decide ((s.restIds u ctx).length ≤ 1))
    && (s.sch.sendBuf.all (fun e => !(e.u == u && e.ctx == ctx))) && !s.slotWorking u

/-- A unit that is no longer at rest says so: IS_AT_REST is 0 (R293, R311). -/
def State.leaveRest (s : State) (u : Nat) : State :=
  if s.bit (R.unitRes u) F.unitRes_IS_AT_REST && !(match s.resident u with
      | some c => s.unitResting u c
      | none => false) then s.setFld (R.unitRes u) F.unitRes_IS_AT_REST 0
  else s

/-! ## TAIL writes (R257) -/

/-- A driver's TAIL write of a queue, by its kind. -/
def State.tailWrite (s : State) (u q tail : Nat) : State :=
  let n := (tail + 65536 - s.qHead u q) % 65536
  let cap := ringCapacity (s.qSize u q)
  if !s.qEn u q then
    (s.setFld (R.unitQPtr u q) F.unitQPtr_HEAD tail).setFld (R.unitQPtr u q) F.unitQPtr_TAIL tail
  else match s.qKind u q with
  | 0 => if n > cap then s.raise .unit u 0 else s.setFld (R.unitQPtr u q) F.unitQPtr_TAIL tail
  | 3 =>
    if n > cap - s.qGranted u q then s.raise .unit u 0
    else
      let old := Sparse.get [] s.sch.prov (queueId u q)
      let new := old.take n ++ List.replicate (n - old.length) ⟨q, 0, 0, 0, false⟩
      let s := { s with sch := { s.sch with prov := Sparse.set id [] s.sch.prov (queueId u q) new } }
      s.setFld (R.unitQPtr u q) F.unitQPtr_TAIL tail
  | _ => s

/-- A TAIL write of a command queue of an unavailable unit: the descriptors it submits are not executed and complete with
UNAVAILABLE (R67). DEDUCED, log 91. -/
def State.tailLost (s : State) (u q tail : Nat) : State :=
  if s.qEn u q && s.qKind u q == 0 && decide (0 < (tail + 65536 - s.qTail u q) % 65536)
      && decide ((tail + 65536 - s.qHead u q) % 65536 ≤ ringCapacity (s.qSize u q)) then
    ((s.setFld (R.unitQPtr u q) F.unitQPtr_HEAD tail).setFld (R.unitQPtr u q) F.unitQPtr_TAIL tail).recordStatus u q 0x28
  else s

/-- QUEUE_TAIL_WRITE (R257): a register write to Qq_PTR; TAIL is its only writable field. -/
def execQueueTailWrite (_a : Agent) (u : Fin 1024) (q : Fin 128) (tail : BitVec 16) (s : State) : Host.Outcome State Fault Refusal :=
  if s.pageInReset .unit u then .next s
  else if !s.unitAvail u then .next (s.tailLost u q tail.toNat)
  else .next ((s.tailWrite u q tail.toNat).leaveRest u)

/-! ## Ring fetch (R258, R262, R341) -/

/-- The header checks of R262, in order; the first that fails gives the status. -/
def State.headerCheck (s : State) (u q : Nat) (e : BitVec 512) : Option Status :=
  let ctx := s.qCtx u q
  let ws := Ent.waits e
  if (engineOf (Ent.opcode e)).isNone then some .opcode
  else if Ent.reservedHeader e || Ent.srcNonzero e || (Ent.decide e && !Ent.rest e) then some .reservedField
  else if Ent.ctx e ≠ ctx then some .ctxMismatch
  else if Ent.seq e ≠ s.fld (R.unitQCfg u q) F.unitQCfg_NEXT_SEQ then some .sequence
  else if ws.any (fun w => !(s.qEn u w && s.qKind u w == 1 && s.qCtx u w == ctx)) || (ws.length == 2 && ws[0]? == ws[1]?) then
    some .waitTarget
  else if (Ent.doneEn e && !(s.crlValid u (Ent.doneLine e) && s.fld (R.unitCrl u (Ent.doneLine e)) F.unitCrl_CTX == ctx))
      || (Ent.opcode e == 0x09 && !Ent.doneEn e) then some .creditLine
  else none

/-- An entry read at the head of a command queue: its header is checked (R262). After a switch to the fallback, NEXT_SEQ
takes the entry's SEQ first (R303). A command that fails the check completes with the status: DONE_SEQ takes its SEQ where
every earlier command of the queue has completed (R267). -/
def State.headEntry (s : State) (u q : Nat) (e : BitVec 512) : State :=
  let k := queueId u q
  let s := if s.sch.fbFetch.contains k then
      { (s.setFld (R.unitQCfg u q) F.unitQCfg_NEXT_SEQ (Ent.seq e)) with sch := { s.sch with fbFetch := s.sch.fbFetch.filter (· ≠ k) } }
    else s
  match s.headerCheck u q e with
  | some st =>
    let s := s.recordStatus u q st.code
    (if s.qDrained u q then s.setFld (R.unitQPtr u q) F.unitQPtr_DONE_SEQ (Ent.seq e) else s).ctxFault (s.qCtx u q) st.code (locUnit u 0)
  | none =>
    let s := s.addFld (R.unitQCfg u q) F.unitQCfg_NEXT_SEQ 1
    { (s.setQState u q 2) with sch := { s.sch with heads := insertKey s.sch.heads k ⟨e, true, s.now⟩ } }

/-- An entry that a command queue's fetch has brought enters the hardware queue store, where an armed injection may strike it
(R594): an uncorrectable one does not issue, and the context faults (R578). DEDUCED, log 38. -/
def State.fetched (s : State) (u q : Nat) (e : BitVec 512) : State :=
  match s.bufferStrike .unit u 1 (locUnit u 5) (s.qCtx u q) (locUnit u 0) with
  | (true, s) => s.ctxFault (s.qCtx u q) Status.uncorrectable.code (locUnit u 0)
  | (false, s) => s.headEntry u q e

/-- A checked head that has not issued goes back to its ring: NEXT_SEQ takes its SEQ again, so that the fetch after a
save or a release passes R262 anew. DEDUCED, log 46. -/
def State.unfetch (s : State) (u q : Nat) : State :=
  match lookupKey s.sch.heads (queueId u q) with
  | some h =>
    { (s.setFld (R.unitQCfg u q) F.unitQCfg_NEXT_SEQ (Ent.seq h.entry)) with
      sch := { s.sch with heads := eraseKey s.sch.heads (queueId u q) } }
  | none => s

/-- Whether a command queue's fetch may be made: enabled, of KIND 0, not empty, bound to the unit's resident context, which
is RUNNING or PREEMPTING, and not parked, stopped, lost, down or disabled. -/
def State.canFetch (s : State) (u q : Nat) : Bool :=
  s.running && !s.unitInReset u && s.qEn u q && s.qKind u q == 0 && s.qCount u q != 0 && s.resident u == some (s.qCtx u q)
    && ((s.ctxSt (s.qCtx u q)).state == 1 || (s.ctxSt (s.qCtx u q)).state == 2) && decide (s.qState u q < 3)
    && !s.isHopUnit u

/-- The fetch of the entry at HEAD under the queue's context. -/
def State.fetch (s : State) (u q : Nat) : State :=
  match s.ctxRead (unitCluster u) (s.qCtx u q) (s.qEntryVa u q (s.qHead u q)) 64 .fetch (locUnit u 0) with
  | (.ok bs, s) => s.fetched u q (entryOf bs)
  | (.error (.notPresent L va), s) => s.parkSeq u q (.fetch (Fin.ofNat 1024 u) (Fin.ofNat 128 q)) (s.qCtx u q) va .fetch L (s.fld (R.unitQCfg u q) F.unitQCfg_NEXT_SEQ) (s.qHead u q)
  | (.error (.fatal st), s) => s.ctxFault (s.qCtx u q) st.code (locUnit u 0)
  | (.error .busy, s) => s
  | (.error (.outbound p pa), s) =>
    if !s.outOpen p then s.fetchLost u q
    else if (s.pport p).outR.any (fun r => r.owner = .fetch u q) then s
    else s.outRead p (s.outAddr p pa) 64 (.fetch u q) (some (s.qCtx u q, s.qEntryVa u q (s.qHead u q)))

/-- RING_FETCH (R341): one fetch at the head of a command queue that holds no fetched entry. -/
def execRingFetch (u : Fin 1024) (q : Fin 128) (s : State) : Host.Outcome State Fault Refusal :=
  if s.canFetch u q && (lookupKey s.sch.heads (queueId u q)).isNone then .next (s.fetch u q) else .next s

/-! ## Issue (R268, R275, R347) -/

/-- Whether every wait of a head command is met. -/
def State.waitsMet (s : State) (u : Nat) (e : BitVec 512) : Bool := (Ent.waits e).all (fun w => s.qCount u w != 0)

/-- The first free channel of an atomizer (R347). -/
def State.freeChan (s : State) (c : Nat) : Option Nat := findBelow 16 (fun ch => (lookupKey s.xl.chans (c * 16 + ch)).isNone)

/-- The oldest entry of a KIND 1 queue is consumed: HEAD advances, and its source is remembered until it is freed.
DEDUCED, log 43. -/
def State.takeEntry (s : State) (u w : Nat) : Taken × State :=
  let k := queueId u w
  let ps := Sparse.get [] s.sch.prov k
  let t := ps.headD ⟨w, 0, 0, 0, false⟩
  let s := { s with sch := { s.sch with prov := Sparse.set id [] s.sch.prov k ps.tail } }
  (t, s.addFld (R.unitQPtr u w) F.unitQPtr_HEAD 1)

/-- The wait entries of a command are taken in the cycle it issues (R268). -/
def State.takeAll (s : State) (u : Nat) : List Nat → List Taken × State
  | [] => ([], s)
  | w :: ws =>
    let p := s.takeEntry u w
    let r := State.takeAll p.2 u ws
    (p.1 :: r.1, r.2)

/-- Whether a command behaves as if FENCE were 1 (R259, R280). -/
def fenced (e : BitVec 512) : Bool := Ent.fence e || Ent.opcode e == 0x0C

/-- Whether a W0-mode queue stops before its head: a FENCE command, its queue drained, under REST_REQ (R296). -/
def State.w0Stop (s : State) (u q : Nat) (e : BitVec 512) : Bool :=
  s.bit (R.unitRes u) F.unitRes_REST_REQ && (s.ctxSt (s.qCtx u q)).state == 2 && s.w0Mode (s.qCtx u q) && Ent.fence e && s.qDrained u q

/-- Whether a DMA command moves nothing: a count of its body is zero (R283, R350, R358). It holds no channel (R674). -/
def dmaNoop (e : BitVec 512) : Bool :=
  match Ent.opcode e with
  | 0x40 => bvBytes e 48 4 == 0 || bvBytes e 52 4 == 0
  | 0x42 => bvBytes e 32 4 == 0
  | _ => false

/-- Whether a command holds a channel of its atomizer (R347, R674). -/
def needsChan (e : BitVec 512) (eng : Engine) : Bool := eng == .dma && !dmaNoop e

/-- Whether a head command may issue. -/
def State.canIssue (s : State) (u q : Nat) (e : BitVec 512) (eng : Engine) : Bool :=
  s.waitsMet u e && (!fenced e || s.qDrained u q) && (!(Ent.doneEn e) || s.sendRoom u)
    && (!needsChan e eng || (s.freeChan (unitCluster u)).isSome)

/-- Whether the clock of a region switches: its units then stop issuing, for at most 2 µs (R39). DESIGN CHOICE, log 87. -/
def State.clkSwitches (s : State) (r : Nat) : Bool :=
  match lookupKey s.plat.dvfsProg r with
  | some p => p.left.head? == some true && decide (s.time.ticks - p.since < 2000)
  | none => false

/-- Whether a queue may issue commands now: its unit works and is no hop unit (R466), its region's clock does not switch
(R39), its context is resident, and it is not parked, stopped, lost, down or disabled. -/
def State.mayIssue (s : State) (u q : Nat) : Bool :=
  s.running && !s.clkSwitches (unitRegion u) && !s.unitInReset u && s.resident u == some (s.qCtx u q) && !s.isHopUnit u && decide (s.qState u q < 3)

/-- The engine that the head command of a queue is ready to issue to, and the command. -/
def State.ready (s : State) (u q : Nat) : Option (Engine × BitVec 512) :=
  match lookupKey s.sch.heads (queueId u q) with
  | none => none
  | some h =>
    match engineOf (Ent.opcode h.entry) with
    | some eng => if s.mayIssue u q && s.unitAvail u && !s.w0Stop u q h.entry && s.canIssue u q h.entry eng then some (eng, h.entry) else none
    | none => none

/-- The free channels of an atomizer. -/
def State.freeChans (s : State) (c : Nat) : Nat := ((List.range 16).filter (fun ch => (lookupKey s.xl.chans (c * 16 + ch)).isNone)).length

/-- The ready head commands of the queues whose queue ID is below a queue's: those that go before it. -/
def State.readyBelow (s : State) (k : Nat) : List (Nat × Engine × BitVec 512) :=
  (s.sch.heads.filter (fun h => decide (h.1 < k))).filterMap (fun h => (s.ready (qidUnit h.1) (qidQueue h.1)).map (fun x => (h.1, x)))

/-- Whether another ready head command goes first: one of a lower queue of the unit for the same engine (R276) or for an entry
of the same wait queue (R268); or the commands of the cluster that come before it, by unit and queue, take the last free
channels (R347). -/
def State.outranked (s : State) (u q : Nat) (e : BitVec 512) (eng : Engine) : Bool :=
  let rs := s.readyBelow (queueId u q)
  rs.any (fun r => qidUnit r.1 == u && (r.2.1 == eng || (Ent.waits r.2.2).any (Ent.waits e).contains)) ||
    (needsChan e eng && decide (s.freeChans (unitCluster u) ≤
      (rs.filter (fun r => unitCluster (qidUnit r.1) == unitCluster u && needsChan r.2.2 r.2.1)).length))

/-- Head commands whose waits a command that issued has left unmet wait from now on (R277). -/
def State.waitAgain (s was : State) (u : Nat) : State :=
  { s with sch := { s.sch with heads := s.sch.heads.map (fun h =>
      if qidUnit h.1 = u ∧ was.waitsMet u h.2.entry ∧ ¬ s.waitsMet u h.2.entry then (h.1, { h.2 with since := s.now }) else h) } }

/-- The buffer-table entries a command names, as they stand when it issues (R284). -/
def State.bufsOf (s : State) (ctx : Nat) (e : BitVec 512) : List (BitVec 128) :=
  (bufNames e).map (fun n => match n with
    | some i => s.bufBits ctx i
    | none => 0)

/-- The reads of a command's buffer-table entries, where no memory answers (R68, R316). -/
def State.bufsMet (s : State) (ctx : Nat) (e : BitVec 512) (req : Loc) (die : Nat) : State :=
  (bufNames e).foldl (fun s n => match n with
    | some i => s.sysMet die (s.bufAddr ctx i) req
    | none => s) s

/-- The cycle of its unit in which a command issues: the present one, or the next where its queue or its engine has had a
command in that cycle already (R276). DESIGN CHOICE, log 102. -/
def State.issueCycle (s : State) (u q : Nat) (eng : Engine) : Nat :=
  let fs := s.unitFlights u
  let c := (fs.map (·.issuedAt)).foldl max (s.unitEng u).cyc
  if fs.any (fun g => g.issuedAt == c && (g.eng == eng || g.q == q)) then c + 1 else c

/-- A head command issues: its wait entries are taken, its buffer-table entries are read (R284), HEAD advances, and it is in
flight at its engine. DEDUCED, log 43. -/
def State.issue (s : State) (u q : Nat) (e : BitVec 512) (eng : Engine) : State :=
  let p := s.takeAll u (Ent.waits e)
  let s := (p.2.addFld (R.unitQPtr u q) F.unitQPtr_HEAD 1).bufsMet (s.qCtx u q) e (locCluster (unitCluster u) 8) (unitDie u)
  let f : Flight := { u := u, q := q, seq := Ent.seq e, ctx := s.qCtx u q, eng := eng, entry := e, taken := p.1,
                      bufs := s.bufsOf (s.qCtx u q) e, stage := .issued, begun := false,
                      issuedAt := s.issueCycle u q eng, validAt := 0, claimAt := 0, relAt := 0, doneAt := 0,
                      detail := 0, plan := ⟨0, 0, 0, []⟩, waitNs := s.now }
  let s := { s with sch := { s.sch with heads := eraseKey s.sch.heads (queueId u q), flights := s.sch.flights ++ [f] } }
  let s := s.setQState u q (if s.qCount u q = 0 then 0 else 1)
  if needsChan e eng then
    match s.freeChan (unitCluster u) with
    | some ch =>
      let c := unitCluster u
      let isPf := Ent.opcode e == 0x42
      let s := s.setReg (R.dmaCh c ch) (BitVec.ofNat 64 (1 + bitNat isPf * 4 + f.ctx * 8 + queueId u q * 2 ^ 15 + f.seq * 2 ^ 32))
      let s := s.setBit (R.dmaSts c) ch true
      { s with xl := { s.xl with chans := insertKey s.xl.chans (c * 16 + ch) ⟨u, q, f.seq, f.ctx, e, 0, 0, 0, none⟩ } }
    | none => s
  else s

/-- A descriptor of a queue of an unavailable unit is not executed and completes UNAVAILABLE (R67). -/
def State.unavailable (s : State) (u q : Nat) (e : BitVec 512) : State :=
  let s := s.issue u q e .seq
  match s.flight u q (fun f => f.seq == Ent.seq e) with
  | some f => s.failCmd f .unavailable (locUnit u 0)
  | none => s

/-- COMMAND_ISSUE (R275): the head command of a queue issues, waits, lets another go first, or stops before a W0-mode
fence. -/
def execCommandIssue (u : Fin 1024) (q : Fin 128) (s : State) : Host.Outcome State Fault Refusal :=
  match lookupKey s.sch.heads (queueId u q) with
  | none => .next s
  | some h =>
    if !s.mayIssue u q then .next s
    else if !s.unitAvail u then .next (s.unavailable u q h.entry)
    else if s.w0Stop u q h.entry then .next (s.stopQ u q .w0)
    else match engineOf (Ent.opcode h.entry) with
    | none => .next s
    | some eng =>
      if s.canIssue u q h.entry eng && !s.outranked u q h.entry eng then .next (((s.issue u q h.entry eng).waitAgain s u).leaveRest u)
      else .next s

/-! ## The wait watchdog (R277, R592) -/

/-- UNIT.WDOG.WAIT_LIMIT as bounded by UNIT.SAFE.WAIT_MAX; 0 disables. DEDUCED, log 17. -/
def State.waitLimit (s : State) (u : Nat) : Nat :=
  let l := s.fld (R.unitWdog u) F.unitWdog_WAIT_LIMIT
  let m := s.fld (R.unitSafe u) F.unitSafe_WAIT_MAX
  if m ≠ 0 ∧ (l = 0 ∨ l > m) then m else l

/-- Whether a condition that began at `since` has lasted longer than WAIT_LIMIT. -/
def State.waitExpired (s : State) (u : Nat) (since : Word) : Bool :=
  s.waitLimit u != 0 && decide (s.elapsedNs since > s.waitLimit u * 1000)

/-- The context and the beginning of a condition that R277 times, while it holds. -/
def State.waitCond (s : State) (u : Nat) : WaitKind → Option (Nat × Word)
  | .head q =>
    match lookupKey s.sch.heads (queueId u q) with
    | some h => if s.waitsMet u h.entry then none else some (s.qCtx u q, h.since)
    | none => none
  | .decision q =>
    match lookupKey s.sch.stops (queueId u q) with
    | some (.decide _ since) => some (s.qCtx u q, since)
    | _ => none
  | .credit n =>
    match (s.sendEntries u).find? (fun e => e.line = n.val) with
    | some e => if s.fld (R.unitCrl u n) F.unitCrl_CREDITS = 0 then some (e.ctx, e.since) else none
    | none => none

/-- WAIT_TIMEOUT (R277). DEDUCED, log 2. -/
def execWaitTimeout (u : Fin 1024) (w : WaitKind) (s : State) : Host.Outcome State Fault Refusal :=
  match s.waitCond u w with
  | some (ctx, since) => if s.waitExpired u since then .next (s.ctxFault ctx 0x24 (locUnit u 0)) else .next s
  | none => .next s

/-! ## Completion (R263) -/

/-- Whether what a SEND or a GRANT has sent is on its way to another package, which alone knows when it arrives (R279). -/
def State.farSent (s : State) (f : Flight) : Bool :=
  let line := R.unitCrl f.u (Ent.doneLine f.entry)
  f.stage == .running 0 &&
    match Ent.opcode f.entry with
    | 0x09 => s.fld line F.unitCrl_DEST_PKG != s.pkgId && !s.sch.sendBuf.any (fun e => e.u == f.u && e.q == f.q && e.seq == f.seq && e.isMsg)
    | 0x0B => entBits f.entry 24 11 0 != s.pkgId
    | _ => false

/-- COMMAND_COMPLETE (R263): a command whose work is done and whose writes are performed, outbound ones acknowledged,
completes; so does a SEND or a GRANT whose message or credits have arrived at another package (R279). DEDUCED, log 44. -/
def execCommandComplete (u : Fin 1024) (q : Fin 128) (seq : BitVec 20) (s : State) : Host.Outcome State Fault Refusal :=
  match s.flight u q (fun f => f.seq = seq.toNat) with
  | some f =>
    match f.stage with
    | .finished st det => if s.outBusy u q f.seq then .next s else .next (s.complete f st det (locUnit u 0))
    | _ => if s.farSent f then .next (s.complete f 0 0 (locUnit u 0)) else .next s
  | none => .next s

/-! ## Tokens and messages (R270, R273, R274) -/

/-- An entry appended to a queue of KIND 1 to 3: written to its ring under the queue's context, TAIL advanced. -/
def State.appendEntry (s : State) (k : Nat) (e : BitVec 512) (src : Taken) : Except Status State × State :=
  let u := qidUnit k
  let q := qidQueue k
  match s.ctxWrite (unitCluster u) (s.qCtx u q) (s.qEntryVa u q (s.qTail u q)) (entryBytes e) (locUnit u 0) with
  | (.error (.fatal st), t) => (.error st, t)
  | (.error (.notPresent _ _), t) => (.error .translation, t)
  | (.error .busy, t) => (.error .ok, t)
  | (.error (.outbound p pa), t) =>
    let t := t.outWrite p pa (entryBytes e) false (.fetch u q) (some (t.qCtx u q, t.qEntryVa u q (t.qTail u q)))
    let t := { t with sch := { t.sch with prov := Sparse.set id [] t.sch.prov k (Sparse.get [] t.sch.prov k ++ [src]) } }
    (.ok (t.addFld (R.unitQPtr u q) F.unitQPtr_TAIL 1), t)
  | (.ok _, t) =>
    let t := { t with sch := { t.sch with prov := Sparse.set id [] t.sch.prov k (Sparse.get [] t.sch.prov k ++ [src]) } }
    (.ok (t.addFld (R.unitQPtr u q) F.unitQPtr_TAIL 1), t)

/-- Why a destination cannot take a delivery, by the conditions of R274 before the ring write, in order. A unit in reset
absorbs with ABORTED (R564). -/
def State.refusal (s : State) (k lineCtx : Nat) : Option Status :=
  let u := qidUnit k
  let q := qidQueue k
  if !s.unitAvail u then some .unavailable
  else if s.unitInReset u then some .aborted
  else if !s.qEn u q || s.qKind u q == 0 then some .unavailable
  else if s.qCtx u q ≠ lineCtx then some .ctxMismatch
  else if (s.ctxSt (s.qCtx u q)).state = 5 ∨ (s.ctxSt (s.qCtx u q)).state = 6 then some .aborted
  else if s.qCount u q ≥ ringCapacity (s.qSize u q) then some .unavailable
  else none

/-- A SEND whose message has been delivered or refused is done (R279). -/
def State.sendDone (s : State) (m : InFlight) : State :=
  if m.isMsg ∧ m.srcPkg = s.pkgId then s.setFlight m.srcUnit m.srcQ m.seq (fun f => { f with stage := .finished 0 0 }) else s

/-- A refused entry: its credit returns to its line with the status that the sending queue records (R274).
DEDUCED, log 44. -/
def State.refuse (s : State) (m : InFlight) (st : Status) : State :=
  (s.sendCredits (qidUnit m.destQ) m.srcPkg m.srcUnit m.srcLine 1 st.code m.srcQ none).sendDone m

/-- A token or message arrives at its destination queue (R274). `none`: its line is busy, and it waits. -/
def State.deliver (s : State) (m : InFlight) : Option State :=
  match s.refusal m.destQ m.lineCtx with
  | some st => some (s.refuse m st)
  | none =>
    let ctx := s.qCtx (qidUnit m.destQ) (qidQueue m.destQ)
    let e := deliveredEntry (if m.isMsg then 0x02 else 0x01) ctx m.seq m.srcPkg m.srcUnit m.srcLine true (entryBody m.entry)
    match s.appendEntry m.destQ e ⟨qidQueue m.destQ, m.srcPkg, m.srcUnit, m.srcLine, true⟩ with
    | (.ok s, _) => some (s.sendDone m)
    | (.error .ok, _) => none
    | (.error st, s) => some ((s.refuse m .aborted).ctxFault ctx st.code (locUnit (qidUnit m.destQ) 0))

/-- Whether the path between two units has room for one more entry (R21): its depth is not stated, and is at least two. DESIGN
CHOICE, log 96. -/
def State.unitPathRoom (s : State) (u v : Nat) : Bool :=
  let n := (s.sch.transit.filter (fun m => m.srcPkg == s.pkgId && m.srcUnit == u && qidUnit m.destQ == v)).length
  decide (n < 2) || decide (n - 2 < Config.pathDepth (1000 + u) (1000 + v) 3)

/-- TOKEN_SEND (R270): the oldest entry of a line in the send buffer leaves with one credit, for a queue of this package or
as a MSG frame. An entry found uncorrectable in the buffer does not leave, and its context faults (R578). DEDUCED, log 38. -/
def execTokenSend (u : Fin 1024) (line : Fin 32) (s : State) : Host.Outcome State Fault Refusal :=
  match (s.sendEntries u).find? (fun e => e.line = line.val) with
  | none => .next s
  | some e =>
    let r := s.reg (R.unitCrl u line)
    let here := F.unitCrl_DEST_PKG.get r = s.pkgId
    if F.unitCrl_VALID.get r = 0 ∨ F.unitCrl_CREDITS.get r = 0 then .next s
    else if here && !s.unitPathRoom u (qidUnit (F.unitCrl_DEST_Q.get r)) then .next s
    else match s.bufferStrike .unit u 2 (locUnit u 0) e.ctx (locUnit u 0) with
    | (true, s) => .next (s.ctxFault e.ctx Status.uncorrectable.code (locUnit u 0))
    | (false, s) =>
      let s := s.setFld (R.unitCrl u line) F.unitCrl_CREDITS (F.unitCrl_CREDITS.get r - 1)
      let s := { s with sch := { s.sch with sendBuf := s.sch.sendBuf.eraseP (fun x => x.u = u.val ∧ x.line = line.val) } }
      let m : InFlight := { srcPkg := s.pkgId, srcUnit := u, srcLine := line, srcQ := e.q, destQ := F.unitCrl_DEST_Q.get r,
                            lineCtx := F.unitCrl_CTX.get r, seq := e.seq, isMsg := e.isMsg, entry := e.entry }
      if here then .next { s with sch := { s.sch with transit := s.sch.transit ++ [m] } }
      else
        let f : MsgFrame := { destPkg := F.unitCrl_DEST_PKG.get r, destQ := m.destQ, srcPkg := s.pkgId, srcUnit := u,
                              srcLine := line, hops := 0, opcode := if e.isMsg then 2 else 1, seq := e.seq,
                              ctx := m.lineCtx, srcLq := e.q, body := BitVec.ofNat 384 (entryBody e.entry) }
        .next (s.routeMsg f false)

/-- The order in which entries that reach one queue in a cycle are appended (R273). -/
def lineRank (l : LineName) : Nat := (l.pkg.toNat * 1024 + l.unit) * 32 + l.line

/-- Whether an entry on its way is of a line. -/
def InFlight.ofLine (m : InFlight) (l : LineName) : Bool :=
  decide (m.srcPkg = l.pkg.toNat ∧ m.srcUnit = l.unit.val ∧ m.srcLine = l.line.val)

/-- Whether two entries are on one path: from one unit to one unit (R23). -/
def InFlight.samePath (a b : InFlight) : Bool :=
  a.srcPkg == b.srcPkg && a.srcUnit == b.srcUnit && qidUnit a.destQ == qidUnit b.destQ

/-- Whether the oldest entry of a line can arrive in a cycle in which those of some lines do: what was sent on its path before
it arrives too (R23). -/
def State.canArrive (s : State) (lines : List LineName) (l : LineName) : Bool :=
  match s.sch.transit.findIdx? (fun m => m.ofLine l) with
  | none => false
  | some i =>
    let firsts := lines.filterMap (fun x => s.sch.transit.findIdx? (fun m => m.ofLine x))
    (List.range i).all (fun j => firsts.contains j
      || !(s.sch.transit[j]?).any (fun m => (s.sch.transit[i]?).any (fun n => m.samePath n)))

/-- The oldest entry on its way from a line arrives. -/
def State.deliverLine (s : State) (l : LineName) : State :=
  let p := fun (m : InFlight) => m.ofLine l
  match s.sch.transit.find? (fun m => p m) with
  | none => s
  | some m =>
    if s.pathHeld (if m.srcPkg = s.pkgId then unitDie m.srcUnit else unitDie (m.destQ / 128)) (unitDie (m.destQ / 128)) true then s
    else match ({ s with sch := { s.sch with transit := s.sch.transit.eraseP (fun m => p m) } }).deliver m with
    | some t => t
    | none => s

/-- MESSAGE_DELIVER (R273, R274): entries of the named lines arrive in one cycle. DEDUCED, log 94. -/
def execMessageDeliver (lines : List LineName) (s : State) : Host.Outcome State Fault Refusal :=
  .next ((sortBy (fun a b => decide (lineRank a ≤ lineRank b)) (lines.filter (s.canArrive lines))).foldl State.deliverLine s)

/-- A refusal from another package ends the oldest SEND of its queue that has a message on its way there (R279). -/
def State.sendRefused (s : State) (c : CreditIn) : State :=
  match s.flight c.unit c.srcQ (fun f => s.farSent f && Ent.opcode f.entry == 0x09 && Ent.doneLine f.entry == c.line) with
  | some f => s.setFlight f.u f.q f.seq (fun g => { g with stage := .finished 0 0 })
  | none => s

/-- What arriving credits do: they are added (R270); a refusal's status is recorded for its queue, and CTX_MISMATCH faults
the sending context (R274, R449); a grant's arrival finishes its GRANT command (R279). DEDUCED, log 44. -/
def State.creditIn (s : State) (c : CreditIn) : State :=
  let s := if s.unitInReset c.unit then s else s.addCredits c.unit c.line c.count
  let s := match c.grantFrom with
    | some (u, q, seq) => s.setFlight u q seq (fun f => { f with stage := .finished 0 0 })
    | none => s
  if c.status = 0 then s
  else
    let s := ((s.recordStatus c.unit c.srcQ c.status).slotRefused c.unit c.srcQ).sendRefused c
    if c.status = 0x11 then s.ctxFault (s.qCtx c.unit c.srcQ) 0x11 (locUnit c.unit 0) else s

/-- CREDIT_ARRIVE (R270): the oldest credits on their way to a line reach it, in the order of their path (R23) and where no
link holds them. -/
def execCreditArrive (u : Fin 1024) (line : Fin 32) (s : State) : Host.Outcome State Fault Refusal :=
  let p := fun (c : CreditIn) => c.unit = u.val ∧ c.line = line.val
  match s.sch.credits.find? (fun c => p c) with
  | none => .next s
  | some c =>
    if s.sch.credits.find? (fun x => x.src == c.src && x.unit == c.unit) != some c
        || s.pathHeld (if c.src < 1024 then unitDie c.src else c.src - 1024) (unitDie u) true then .next s
    else .next (({ s with sch := { s.sch with credits := s.sch.credits.eraseP (fun c => p c) } }).creditIn c)

/-! ## Control commands (R278 to R280) -/

/-- The issued control command of a queue with an opcode, where one waits to be executed. -/
def State.control (s : State) (u q op : Nat) : Option Flight :=
  s.flight u q (fun f => f.stage == .issued && Ent.opcode f.entry == op)

/-- A command's stage changes. -/
def State.setStage (s : State) (f : Flight) (x : Stage) : State := s.setFlight f.u f.q f.seq (fun g => { g with stage := x })

/-- The failure of a control command, or its effect. -/
def controlRun (u q : Nat) (op : Nat) (mask : Nat) (s : State) (k : Flight → Host.Outcome State Fault Refusal) :
    Host.Outcome State Fault Refusal :=
  match s.control u q op with
  | none => .next s
  | some f => if entReserved f.entry 16 48 mask then k f else .next (s.failCmd f .reservedField (locUnit u 0))

/-- NOP (R279): it completes one cycle after issue. -/
def execNop (u : Fin 1024) (q : Fin 128) (s : State) : Host.Outcome State Fault Refusal :=
  controlRun u q 0x08 0 s (fun f => .next (s.complete f 0 0 (locUnit u 0)))

/-- SEND (R279): its payload enters the send buffer as a MSG for DONE_LINE; it completes when delivered or refused.
DEDUCED, log 44. -/
def execSend (u : Fin 1024) (q : Fin 128) (s : State) : Host.Outcome State Fault Refusal :=
  controlRun u q 0x09 (2 ^ 384 - 1) s (fun f =>
    if s.sendRoom u then
      .next ((s.pushSend u (Ent.doneLine f.entry) q f.seq f.ctx true f.entry).setStage f (.running 0))
    else .next s)

/-- A control command's memory request that was not performed: it parks (R341), faults its context, or waits. An ATOM to an
outbound window performs nothing and fails with GRANULE (R412). -/
def State.controlFail (s : State) (f : Flight) (a : AccessKind) : MemFail → State
  | .notPresent L va => s.parkSeq f.u f.q (.control (Fin.ofNat 1024 f.u) (Fin.ofNat 128 f.q)) f.ctx va a L f.seq 0
  | .fatal st => s.complete f st.code 0 (locUnit f.u 0)
  | .busy => s
  | .outbound _ _ => s.complete f 0x27 0 (locUnit f.u 0)

/-- An atomic at the home of an aligned word: copies leave the caches, then it executes (R373, R382). The unit's count of
atomics rises (R391). -/
def State.homeAtomic (s : State) (pa size : Nat) (op : Nat → Nat) (ctx : Option Nat) (req : Loc) : State :=
  let s := s.storeBytes pa (natToBytes size (op (bytesToNat (s.memBytes pa size)))) ctx req
  let st := stackOf pa
  s.addFld (R.cohAtomCnt (st / 4) (st % 4)) F.cohAtomCnt_COUNT 1

/-- MARK (R279): VALUE is added to the word as an atomic at its home. -/
def execMark (u : Fin 1024) (q : Fin 128) (s : State) : Host.Outcome State Fault Refusal :=
  controlRun u q 0x0A (2 ^ 48 - 1 + (2 ^ 64 - 1) * 2 ^ 64) s (fun f =>
    let va := entBits f.entry 16 47 0
    let v := bvBytes f.entry 24 8
    if s.qState u q = 3 then .next s
    else if va % 8 ≠ 0 then .next (s.failCmd f .fieldValue (locUnit u 0))
    else if s.walkHeld (unitCluster u) f.ctx va then .next s
    else match s.translate (unitCluster u) f.ctx va .atomic with
      | (.error (.notPresent L), s) => .next (s.controlFail f .atomic (.notPresent L va))
      | (.error _, s) => .next (s.controlFail f .atomic (.fatal .translation))
      | (.ok x, s) =>
        match outPort x.pa, s.homeCheck f.ctx x.pa false (locUnit u 0) with
        | some p, _ => .next (s.controlFail f .atomic (.outbound p x.pa))
        | none, (some st, s) => .next (s.controlFail f .atomic (.fatal st))
        | none, (none, s) =>
          if s.lineBusy (x.pa / 128) || s.memHeld (unitDie u) x.pa then .next s
          else match (s.dirsMeet x.pa 8 (some (BitVec.ofNat 12 f.ctx))).consume x.pa 8 (some f.ctx) (locUnit u 0) with
            | (true, s) => .next (s.controlFail f .atomic (.fatal .uncorrectable))
            | (false, s) => .next ((s.homeAtomic x.pa 8 (fun o => (o + v) % 2 ^ 64) (some f.ctx) (locUnit u 0)).complete f 0 0 (locUnit u 0)))

/-- GRANT (R271, R279): entries of a local queue become granted, and the credits leave for the named line. Whether a line
of another package is valid and bound to this queue is that package's state: a free value. DESIGN CHOICE, log 103. -/
def execGrant (u : Fin 1024) (q : Fin 128) (s : State) : Host.Outcome State Fault Refusal :=
  controlRun u q 0x0B (0x7F + 0x1FFFF * 2 ^ 32 + 0x7FFFFFF * 2 ^ 64) s (fun f =>
    let lq := entBits f.entry 16 6 0
    let n := entBits f.entry 20 16 0
    let pkg := entBits f.entry 24 11 0
    let tu := entBits f.entry 24 21 12
    let tl := entBits f.entry 24 26 22
    if !s.qEn u lq || s.qKind u lq == 0 || s.qCtx u lq != f.ctx then .next (s.failCmd f .waitTarget (locUnit u 0))
    else if s.qGranted u lq + n > ringCapacity (s.qSize u lq) then .next (s.failCmd f .grantExceeded (locUnit u 0))
    else
    let far := s.takeFresh
    let bound := if pkg = s.pkgId then s.crlValid tu tl && s.fld (R.unitCrl tu tl) F.unitCrl_DEST_Q == queueId u lq
          && s.fld (R.unitCrl tu tl) F.unitCrl_DEST_PKG == s.pkgId
        else natBit (Config.freeWord far.1).toNat 0
    let s := if pkg = s.pkgId then s else far.2
    if !bound then .next (s.failCmd f .creditLine (locUnit u 0))
    else if n = 0 then .next (s.complete f 0 0 (locUnit u 0))
    else
      let s := s.setFld (R.unitQCfg u lq) grantedFld (s.qGranted u lq + n)
      .next ((s.sendCredits u pkg tu tl n 0 0 (if pkg = s.pkgId then some (u, q, f.seq) else none)).setStage f (.running 0)))

/-- The ports an earlier command of a queue wrote to, other than the target, that still owe a flush (R421). -/
def State.flushPorts (s : State) (u q : Nat) (target : Option Nat) : List Nat :=
  (Sparse.get [] s.sch.outPorts (queueId u q)).filter (fun p => some p ≠ target)

/-- The zero-length reads of a FLAG that are not yet out are issued (R421). -/
def State.flushReads (s : State) (f : Flight) (ps : List Nat) : State :=
  ps.foldl (fun s p => if (s.pport p).outR.any (fun r => r.owner = .cmd f.u f.q f.seq) then s else s.outRead p 0 0 (.cmd f.u f.q f.seq) none) s

/-- The FLAG's own write, sent when every port has been flushed. -/
def State.flagWrite (s : State) (f : Flight) (va : Nat) (bs : List Byte) : State :=
  match s.ctxWrite (unitCluster f.u) f.ctx va bs (locUnit f.u 0) with
  | (.ok _, s) => s.complete f 0 0 (locUnit f.u 0)
  | (.error (.outbound p pa), s) =>
    if s.outOpen p then (s.outWrite p pa bs false (.cmd f.u f.q f.seq) (some (f.ctx, va))).setStage f (.finished 0 0)
    else s.complete f 0x2A 0 (locUnit f.u 0)
  | (.error e, s) => s.controlFail f .write e

/-- FLAG (R280, R421): its write follows every write of every earlier command of its queue. -/
def execFlag (u : Fin 1024) (q : Fin 128) (s : State) : Host.Outcome State Fault Refusal :=
  controlRun u q 0x0C (2 ^ 48 - 1 + (2 ^ 64 - 1) * 2 ^ 64) s (fun f =>
    let va := entBits f.entry 16 47 0
    if s.qState u q = 3 then .next s
    else if va % 8 ≠ 0 then .next (s.failCmd f .fieldValue (locUnit u 0))
    else if s.walkHeld (unitCluster u) f.ctx va then .next s
    else
      let target := match (s.translate (unitCluster u) f.ctx va .write).1 with
        | .ok x => outPort x.pa
        | .error _ => none
      let ps := s.flushPorts u q target
      if ps.isEmpty then .next (s.flagWrite f va (natToBytes 8 (bvBytes f.entry 24 8)))
      else if ps.any (fun p => !s.outOpen p) then .next (s.complete f 0x2A 0 (locUnit u 0))
      else .next (s.flushReads f ps))

/-- RESIDE (R279): a tensor tag is recorded for a scratchpad range or a cluster memory window. -/
def execReside (u : Fin 1024) (q : Fin 128) (s : State) : Host.Outcome State Fault Refusal :=
  controlRun u q 0x0D (0xFFF + 0xFFFFFFFF * 2 ^ 32 + 0x1FFFFF * 2 ^ 64 + 0x1FFFFF * 2 ^ 96) s (fun f =>
    let ent := entBits f.entry 16 3 0
    let win := entBits f.entry 16 11 5
    let tag := entBits f.entry 20 31 0
    let ofs := entBits f.entry 24 20 0
    let len := entBits f.entry 28 20 0
    let w := s.reg (R.cluWin (unitCluster u) win)
    if ofs % 64 ≠ 0 ∨ len % 64 ≠ 0 ∨ ofs + len > 0x180000 then .next (s.failCmd f .fieldValue (locUnit u 0))
    else if entBit f.entry 16 4 then
      if F.cluWin_VALID.get w = 1 ∧ F.cluWin_CTX.get w = f.ctx then
        let s := { s with sch := { s.sch with winTags := Sparse.set id 0 s.sch.winTags (unitCluster u * 128 + win) tag } }
        .next (s.complete f 0 0 (locUnit u 0))
      else .next (s.failCmd f .ownerMismatch (locUnit u 0))
    else
      let v := if tag = 0 then 0 else tag + ofs / 64 * 2 ^ 32 + len / 64 * 2 ^ 47
      .next ((s.setReg (R.unitTag u ent) (BitVec.ofNat 64 v)).complete f 0 0 (locUnit u 0)))

end Sys2Proof.Machine
end

