-- ==== Sys2Proof/Machine/Crypto.lean ====
section
/-! DEFINITION. The two primitives that R601 names: the SHA-512 digest of FIPS 180-4 and Ed25519 signatures under
RFC 8032, over natural numbers. -/

namespace Sys2Proof.Machine

/-! ## SHA-512 (R601, R603, R610, R613, R616) -/

/-- The greatest `r` below 2^n with r^e ≤ x, found bit by bit. -/
def rootBits (e x : Nat) : Nat → Nat
  | 0 => 0
  | n + 1 => go n 0
where
  /-- The bits from `n` down, below a root found so far. -/
  go : Nat → Nat → Nat
    | 0, r => if (r + 1) ^ e ≤ x then r + 1 else r
    | k + 1, r => if (r + 2 ^ (k + 1)) ^ e ≤ x then go k (r + 2 ^ (k + 1)) else go k r

/-- The first `n` primes. -/
def firstPrimes (n : Nat) : List Nat :=
  ((List.range 410).filter (fun p => 2 ≤ p && (List.range p).all (fun d => d < 2 || p % d != 0))).take n

/-- The round constants: the first 64 bits of the fractional parts of the cube roots of the first 80 primes. -/
def shaK : List Nat := (firstPrimes 80).map (fun p => rootBits 3 (p * 2 ^ 192) 68 % 2 ^ 64)

/-- The initial hash value: the first 64 bits of the fractional parts of the square roots of the first 8 primes. -/
def shaInit : List Nat := (firstPrimes 8).map (fun p => rootBits 2 (p * 2 ^ 128) 68 % 2 ^ 64)

/-- Rotation of a 64-bit word to the right. -/
def rotr (n x : Nat) : Nat := x / 2 ^ n + x % 2 ^ n * 2 ^ (64 - n)

/-- The message schedule after its first 16 words, kept with the newest word first. -/
def shaSchedule : Nat → List Nat → List Nat
  | 0, w => w
  | n + 1, w =>
    let a := w.getD 14 0
    let b := w.getD 1 0
    let s0 := rotr 1 a ^^^ rotr 8 a ^^^ (a / 2 ^ 7)
    let s1 := rotr 19 b ^^^ rotr 61 b ^^^ (b / 2 ^ 6)
    shaSchedule n ((s1 + w.getD 6 0 + s0 + w.getD 15 0) % 2 ^ 64 :: w)

/-- The working variables of the compression. -/
structure Sha where
  a : Nat
  b : Nat
  c : Nat
  d : Nat
  e : Nat
  f : Nat
  g : Nat
  h : Nat
  deriving DecidableEq, Repr

/-- One round. -/
def shaRound (v : Sha) (kw : Nat × Nat) : Sha :=
  let t1 := v.h + (rotr 14 v.e ^^^ rotr 18 v.e ^^^ rotr 41 v.e) + ((v.e &&& v.f) ^^^ ((2 ^ 64 - 1 - v.e) &&& v.g)) + kw.1 + kw.2
  let t2 := (rotr 28 v.a ^^^ rotr 34 v.a ^^^ rotr 39 v.a) + ((v.a &&& v.b) ^^^ (v.a &&& v.c) ^^^ (v.b &&& v.c))
  ⟨(t1 + t2) % 2 ^ 64, v.a, v.b, v.c, (v.d + t1) % 2 ^ 64, v.e, v.f, v.g⟩

/-- The compression of one block of 16 words. -/
def shaBlock (hs : List Nat) (ws : List Nat) : List Nat :=
  let w := (shaSchedule 64 ws.reverse).reverse
  let g := fun i => hs.getD i 0
  let v := (shaK.zip w).foldl shaRound ⟨g 0, g 1, g 2, g 3, g 4, g 5, g 6, g 7⟩
  [g 0 + v.a, g 1 + v.b, g 2 + v.c, g 3 + v.d, g 4 + v.e, g 5 + v.f, g 6 + v.g, g 7 + v.h].map (· % 2 ^ 64)

/-- A big-endian number from bytes. -/
def beNat (bs : List Byte) : Nat := bs.foldl (fun n b => n * 256 + b.toNat) 0

/-- The bytes of a number, big-endian. -/
def beBytes (k n : Nat) : List Byte := (List.range k).map (fun i => BitVec.ofNat 8 (n / 256 ^ (k - 1 - i)))

/-- The hash over the blocks of a padded message. -/
def shaBlocks : Nat → List Nat → List Byte → List Nat
  | 0, hs, _ => hs
  | n + 1, hs, bs =>
    shaBlocks n (shaBlock hs ((List.range 16).map (fun i => beNat ((bs.drop (8 * i)).take 8)))) (bs.drop 128)

/-- The padding: a one bit, zeros, and the length in bits. -/
def shaPad (bs : List Byte) : List Byte :=
  let n := bs.length
  bs ++ [0x80] ++ List.replicate ((239 - n % 128) % 128) 0 ++ beBytes 16 (8 * n)

/-- The SHA-512 digest of bytes, 64 bytes. -/
def sha512 (bs : List Byte) : List Byte :=
  let p := shaPad bs
  (shaBlocks (p.length / 128) shaInit p).flatMap (beBytes 8)

/-! ## Ed25519 (R600, R601, R609, R610) -/

/-- The field's prime, 2^255 − 19. -/
def edP : Nat := 2 ^ 255 - 19

/-- The group's order. -/
def edL : Nat := 2 ^ 252 + 27742317777372353535851937790883648493

/-- x^n modulo m, for exponents below 2^k. -/
def powMod (m : Nat) : Nat → Nat → Nat → Nat
  | 0, _, _ => 1 % m
  | k + 1, x, n =>
    let r := powMod m k (x * x % m) (n / 2)
    if n % 2 = 1 then r * x % m else r

/-- The inverse in the field. -/
def edInv (x : Nat) : Nat := powMod edP 256 x (edP - 2)

/-- The curve's constant d = −121665 / 121666. -/
def edD : Nat := (edP - 121665) * edInv 121666 % edP

/-- A square root of −1. -/
def edI : Nat := powMod edP 256 2 ((edP - 1) / 4)

/-- A point in extended coordinates. -/
structure EdPt where
  x : Nat
  y : Nat
  z : Nat
  t : Nat
  deriving DecidableEq, Repr

/-- The neutral point. -/
def EdPt.zero : EdPt := ⟨0, 1, 1, 0⟩

/-- Addition of points. -/
def EdPt.add (p q : EdPt) : EdPt :=
  let sub := fun (a b : Nat) => (a + edP - b % edP) % edP
  let a := sub p.y p.x * sub q.y q.x % edP
  let b := (p.y + p.x) * (q.y + q.x) % edP
  let c := 2 * p.t * q.t % edP * edD % edP
  let d := 2 * p.z * q.z % edP
  let e := sub b a
  let f := sub d c
  let g := (d + c) % edP
  let h := (b + a) % edP
  ⟨e * f % edP, g * h % edP, f * g % edP, e * h % edP⟩

/-- A multiple of a point, by a scalar below 2^k. -/
def EdPt.mul (p : EdPt) : Nat → Nat → EdPt
  | 0, _ => .zero
  | k + 1, n =>
    let r := EdPt.mul (p.add p) k (n / 2)
    if n % 2 = 1 then r.add p else r

/-- Equality of points. -/
def EdPt.same (p q : EdPt) : Bool := p.x * q.z % edP == q.x * p.z % edP && p.y * q.z % edP == q.y * p.z % edP

/-- The x coordinate of the point with a given y and sign, where there is one. -/
def edRecover (y sign : Nat) : Option Nat :=
  let y2 := y * y % edP
  let u := (y2 + edP - 1) % edP
  let v := (edD * y2 + 1) % edP
  let w := u * edInv v % edP
  let x0 := powMod edP 256 w ((edP + 3) / 8)
  let x := if x0 * x0 % edP = w then some x0
    else if x0 * edI % edP * (x0 * edI % edP) % edP = w then some (x0 * edI % edP) else none
  match x with
  | none => none
  | some x => if x = 0 ∧ sign = 1 then none else if x % 2 = sign then some x else some ((edP - x) % edP)

/-- The point that 32 bytes encode, as a little-endian number; none where they encode no point. -/
def edDecode (n : Nat) : Option EdPt :=
  let y := n % 2 ^ 255
  if edP ≤ y then none
  else match edRecover y (n / 2 ^ 255 % 2) with
    | some x => some ⟨x, y, 1, x * y % edP⟩
    | none => none

/-- The 32-byte encoding of a point, as a little-endian number. -/
def EdPt.encode (p : EdPt) : Nat :=
  let zi := edInv p.z
  let x := p.x * zi % edP
  let y := p.y * zi % edP
  y + x % 2 * 2 ^ 255

/-- The base point: y = 4 / 5, x even. -/
def edBase : EdPt :=
  let y := 4 * edInv 5 % edP
  let x := (edRecover y 0).getD 0
  ⟨x, y, 1, x * y % edP⟩

/-- A little-endian number from bytes. -/
def leNat : List Byte → Nat
  | [] => 0
  | b :: bs => b.toNat + 256 * leNat bs

/-- The bytes of a number, little-endian. -/
def leBytes (k n : Nat) : List Byte := (List.range k).map (fun i => BitVec.ofNat 8 (n / 256 ^ i))

/-- Whether a signature of a message under a public key verifies (R601): R and the key decode, S is below the order, and
the verification equation [8][S]B = [8]R + [8][k]A holds. DEDUCED, log 78. -/
def edVerify (key : Nat) (msg sig : List Byte) : Bool :=
  let rb := sig.take 32
  let s := leNat ((sig.drop 32).take 32)
  match edDecode key, edDecode (leNat rb) with
  | some a, some r =>
    let k := leNat (sha512 (rb ++ leBytes 32 key ++ msg)) % edL
    decide (s < edL) && ((edBase.mul 256 s).mul 4 8).same ((r.add (a.mul 256 k)).mul 4 8)
  | _, _ => false

/-- The secret scalar and the prefix derived from a seed. -/
def edExpand (seed : List Byte) : Nat × List Byte :=
  let h := sha512 seed
  let a := leNat (h.take 32)
  (2 ^ 254 + (a % 2 ^ 254) / 8 * 8, h.drop 32)

/-- The public key of a seed, as a little-endian number (R610). -/
def edPublic (seed : List Byte) : Nat := (edBase.mul 256 (edExpand seed).1).encode

/-- The signature of a message under a seed's key. -/
def edSign (seed : List Byte) (msg : List Byte) : List Byte :=
  let e := edExpand seed
  let r := leNat (sha512 (e.2 ++ msg)) % edL
  let rp := leBytes 32 (edBase.mul 256 r).encode
  let k := leNat (sha512 (rp ++ leBytes 32 (edPublic seed) ++ msg)) % edL
  rp ++ leBytes 32 ((r + k * e.1) % edL)

end Sys2Proof.Machine
end

