-- ==== Sys2Proof/Machine/Power.lean ====
section
/-! DEFINITION. Clocks, voltages, power and temperature: region requests (R33 to R39, R641 to R644), the power manager
(R4, R40, R656), telemetry (R655), thermal limits and trips (R657 to R659), power-fail stops (R652, R653), and the
management target's cap and address (R660 to R662). -/

namespace Sys2Proof.Machine

/-! ## Region clocks and voltages (R34 to R39, R643, R644) -/

/-- The array clock of a code, in MHz (R642). -/
def clkMHz (code : Nat) : Nat := 250 + 25 * code

/-- The core voltage of a code, in mV (R642). -/
def voltMV (code : Nat) : Nat := 600 + 5 * code

/-- The highest code not above a clock in MHz; none below 0.25 GHz. -/
def codeBelow (mhz : Nat) : Option Nat := if mhz < 250 then none else some ((mhz - 250) / 25)

/-- The array clock cap in force, in MHz (R2, R640). -/
def State.clkCap (s : State) : Nat := s.fld R.pkgCap F.pkgCap_CLK_CAP_MHZ

/-- Whether two regions are adjacent by floor plan: the same die, and one row with columns that differ by one, or one
column. -/
def adjacent (r q : Nat) : Bool :=
  r / 8 == q / 8 && r != q &&
    (((r % 8) / 4 == (q % 8) / 4 && (r % 4 + 1 == q % 4 || q % 4 + 1 == r % 4)) || r % 4 == q % 4)

/-- The clock and voltage codes a region holds: those in force, or those an accepted change is bringing about (R38). -/
def State.setting (s : State) (r : Nat) : Nat × Nat :=
  match lookupKey s.plat.dvfsRun r with
  | some d => (d.clk, d.volt)
  | none => (s.fld (R.rgnDvfsCur r) F.rgnDvfsCur_CLK_CODE, s.fld (R.rgnDvfsCur r) F.rgnDvfsCur_VOLT_CODE)

/-- Whether two settings may stand side by side (R35). -/
def mayNeighbour (a b : Nat × Nat) : Bool :=
  decide (max (clkMHz a.1) (clkMHz b.1) ≤ 2 * min (clkMHz a.1) (clkMHz b.1))
    && decide (max (voltMV a.2) (voltMV b.2) ≤ min (voltMV a.2) (voltMV b.2) + 120)

/-- Whether a setting of a region satisfies R35 against every adjacent region. -/
def State.fits (s : State) (r : Nat) (x : Nat × Nat) : Bool :=
  (List.range 32).all (fun q => !adjacent r q || mayNeighbour x (s.setting q))

/-- A requested clock code after the clamps of R37 and of RGN.SAFE.CLK_MHZ (R592, R643): the code, where one is left in
range, whether R3 clamped it, and whether SAFE did. -/
def State.clampClk (s : State) (r code : Nat) : Option Nat × Bool × Bool :=
  let cap := s.clkCap
  let overCap := decide (clkMHz code > cap)
  let c1 := if overCap then codeBelow cap else some code
  let lim := s.fld (R.rgnSafe r) F.rgnSafe_CLK_MHZ
  match c1 with
  | none => (none, overCap, false)
  | some c => if clkMHz c > lim then (codeBelow lim, overCap, true) else (some c, overCap, false)

/-- STS.CAP_CLAMP follows whether any region holds a clock that R3 clamped (R640). -/
def State.capClampSts (s : State) : State := s.setFld R.pkgSts F.pkgSts_CAP_CLAMP (bitNat (!s.plat.capClamped.isEmpty))

/-- The accepted clock code of a region (R640, STS.PWR_LIMIT). -/
def State.accepted (s : State) (r : Nat) : Nat := Sparse.get 0x1E s.plat.accepted r

/-- STS.PWR_LIMIT follows whether a region is held below its accepted clock; IRQ_STS.PWR_LIMIT when it becomes 1 (R640). -/
def State.pwrLimitSts (s : State) : State :=
  let lim := (List.range 32).any (fun r => decide ((s.setting r).1 < s.accepted r))
  let was := s.bit R.pkgSts F.pkgSts_PWR_LIMIT
  let s := s.setFld R.pkgSts F.pkgSts_PWR_LIMIT (bitNat lim)
  if lim && !was then s.raise .pkg 0 3 else s

/-- A refused request: the clock and voltage stay, DVFS_REFUSED is set in STS and IRQ_STS (R36, R642). -/
def State.dvfsRefuse (s : State) (r : Nat) : State :=
  (s.setFld (R.rgnSts r) F.rgnSts_DVFS_REFUSED 1).raise .rgn r 0

/-- The parts of an accepted change in the order of R39 (true: the clock, false: the voltage): the voltage first on a raise,
the clock first on a lowering. -/
def DvfsReq.parts (d : DvfsReq) (clkNow : Nat) : List Bool :=
  if d.clkEn && d.voltEn then (if clkNow ≤ d.clk then [false, true] else [true, false])
  else if d.clkEn then [true]
  else [false]

/-- An accepted request: a change is in progress, and STS.DVFS_REFUSED clears (R39, R642). -/
def State.dvfsAccept (s : State) (r : Nat) (d : DvfsReq) (capHit : Bool) : State :=
  let s := s.setFld (R.rgnSts r) F.rgnSts_DVFS_REFUSED 0
  let s := s.setFld (R.rgnDvfsCur r) F.rgnDvfsCur_BUSY 1
  let p := { s.plat with dvfsProg := insertKey s.plat.dvfsProg r ⟨d.parts (s.fld (R.rgnDvfsCur r) F.rgnDvfsCur_CLK_CODE), s.time.ticks⟩ }
  let s := if d.clkEn then
      { s with plat := { p with dvfsRun := insertKey p.dvfsRun r d, accepted := Sparse.set id 0x1E p.accepted r d.clk,
                                capClamped := p.capClamped.filter (· ≠ r) ++ (if capHit then [r] else []) } }
    else { s with plat := { p with dvfsRun := insertKey p.dvfsRun r d } }
  s.capClampSts.pwrLimitSts

/-- A request is evaluated as a whole (R34 to R37, R643): `v` is the word written to RGN.DVFS. -/
def State.dvfsEval (s : State) (r : Nat) (v : Word) : State :=
  let clkEn := F.rgnDvfs_CLK_EN.get v == 1
  let voltEn := F.rgnDvfs_VOLT_EN.get v == 1
  let cur := s.setting r
  let k := if clkEn then s.clampClk r (F.rgnDvfs_CLK_CODE.get v) else (some cur.1, false, false)
  let vc := if voltEn then F.rgnDvfs_VOLT_CODE.get v else cur.2
  let overV := voltEn && decide (voltMV vc > s.fld (R.rgnSafe r) F.rgnSafe_VMAX_MV)
  let s := if k.2.2 || (overV && decide (vc ≤ 60)) then s.safeLimit (R.rgnDvfs r) else s
  match k.1 with
  | none => s.dvfsRefuse r
  | some c =>
    if vc > 60 || overV || !s.fits r (c, vc) then s.dvfsRefuse r
    else s.dvfsAccept r ⟨clkEn, c, voltEn, vc, k.2.1 || k.2.2⟩ k.2.1

/-- A write to RGN.DVFS by firmware: nothing when neither enable is set, held while a change is in progress, otherwise
evaluated (R642, R644). -/
def State.dvfsWrite (s : State) (r : Nat) (v : Word) : State :=
  let s := s.setReg (R.rgnDvfs r) (v &&& BitVec.ofNat 64 0x3FFF)
  if F.rgnDvfs_CLK_EN.get v = 0 ∧ F.rgnDvfs_VOLT_EN.get v = 0 then s
  else if (lookupKey s.plat.dvfsRun r).isSome then
    let d : DvfsReq := ⟨F.rgnDvfs_CLK_EN.get v == 1, F.rgnDvfs_CLK_CODE.get v, F.rgnDvfs_VOLT_EN.get v == 1,
      F.rgnDvfs_VOLT_CODE.get v, false⟩
    { s with plat := { s.plat with dvfsHeld := insertKey s.plat.dvfsHeld r d } }
  else s.dvfsEval r v

/-- One write to RGN.DVFS, by its agent (R16). -/
def State.dvfsOne (s : State) (w : DvfsWrite) : State :=
  if s.pageDead .rgn w.region then s
  else if !fwAllowed w.agent .rgn then s.denied w.agent (R.rgnDvfs w.region)
  else s.dvfsWrite w.region w.value

/-- DVFS_REQUEST (R36, R38): writes of one cycle, evaluated in ascending region order. -/
def execDvfsRequest (writes : List DvfsWrite) (s : State) : Host.Outcome State Fault Refusal :=
  .next ((sortBy (fun a b => decide (a.region.val * 65536 + (agentLoc a.agent).toNat ≤ b.region.val * 65536 + (agentLoc b.agent).toNat)) writes).foldl
    State.dvfsOne s)

/-- A part of a change is done: the new clock, or the new voltage, is in force (R39). -/
def State.dvfsPart (s : State) (r : Nat) (d : DvfsReq) (clk : Bool) : State :=
  let c := R.rgnDvfsCur r
  if clk then (s.setFld c F.rgnDvfsCur_CLK_CODE d.clk).setFld c F.rgnDvfsCur_CLAMPED (bitNat d.clamped)
  else s.setFld c F.rgnDvfsCur_VOLT_CODE d.volt

/-- At a tick of the time base the first part of a change with two is done, and the second begins. DESIGN CHOICE, log 87. -/
def State.dvfsTick (s : State) : State :=
  s.plat.dvfsProg.foldl (fun s e =>
    match e.2.left, lookupKey s.plat.dvfsRun e.1 with
    | k :: l :: rest, some d =>
      let s := s.dvfsPart e.1 d k
      { s with plat := { s.plat with dvfsProg := insertKey s.plat.dvfsProg e.1 ⟨l :: rest, s.time.ticks⟩ } }
    | _, _ => s) s

/-- The change in progress of a region completes: what is left of it is done, in order (R39). -/
def State.dvfsFinish (s : State) (r : Nat) (d : DvfsReq) : State :=
  let c := R.rgnDvfsCur r
  let left := (lookupKey s.plat.dvfsProg r).map (·.left)
  let s := { s with plat := { s.plat with dvfsRun := eraseKey s.plat.dvfsRun r
                                          dvfsProg := eraseKey s.plat.dvfsProg r
                                          resets := s.plat.resets.map (fun (x : ResetRun) => if x.block.hasRegion r then { x with since := s.now } else x) } }
  let s := (left.getD (d.parts (s.fld c F.rgnDvfsCur_CLK_CODE))).foldl (fun s k => s.dvfsPart r d k) s
  (s.setFld c F.rgnDvfsCur_BUSY 0).raise .rgn r 1

/-- DVFS_DONE (R39, R644): the change completes, and a held request is evaluated. -/
def execDvfsDone (r : Fin 32) (s : State) : Host.Outcome State Fault Refusal :=
  match lookupKey s.plat.dvfsRun r with
  | none => .next s
  | some d =>
    let s := s.dvfsFinish r d
    match lookupKey s.plat.dvfsHeld r with
    | none => .next s
    | some h =>
      let s := { s with plat := { s.plat with dvfsHeld := eraseKey s.plat.dvfsHeld r } }
      .next (s.dvfsEval r (BitVec.ofNat 64 (h.clk + bitNat h.clkEn * 64 + h.volt * 128 + bitNat h.voltEn * 8192)))

/-! ## The power manager (R4, R40, R656) -/

/-- The least of a bound and those of further bounds that are in force. -/
def minOf (a : Nat) (l : List (Option Nat)) : Nat := l.foldl (fun m x => match x with | some v => min m v | none => m) a

/-- The cap of the management target, where one is in force. -/
def State.capOpt (s : State) (k d : Nat) : Option Nat :=
  if s.fld R.pkgBmcCap F.pkgBmcCap_CAP_W = 0 then none else some (s.fld R.pkgBmcCap F.pkgBmcCap_CAP_W * k / d)

/-- The mean limit in W (R656). -/
def State.meanLimit (s : State) : Nat :=
  minOf (s.fld R.pkgCap F.pkgCap_TDP_W) [some (s.fld R.pkgSafe F.pkgSafe_PWR_W), s.capOpt 1 1]

/-- The ceiling in W (R656). -/
def State.ceilingLimit (s : State) : Nat :=
  minOf (s.fld R.pkgCap F.pkgCap_EXC_W) [some (s.fld R.pkgSafe F.pkgSafe_PWR_W * 5 / 4), s.capOpt 5 4]

/-- The power manager gives a region a clock code (R40): the clock in force takes it, but for a raise that a change in
progress has still to bring about; the change's own clock takes it in either case. -/
def State.putClk (s : State) (r code : Nat) : State :=
  let cur := s.fld (R.rgnDvfsCur r) F.rgnDvfsCur_CLK_CODE
  match lookupKey s.plat.dvfsRun r with
  | some d =>
    let s := if d.clkEn ∧ cur < code then s else s.setFld (R.rgnDvfsCur r) F.rgnDvfsCur_CLK_CODE code
    { s with plat := { s.plat with dvfsRun := insertKey s.plat.dvfsRun r { d with clk := code } } }
  | none => s.setFld (R.rgnDvfsCur r) F.rgnDvfsCur_CLK_CODE code

/-- Whether a lowering is one of R40: it lowers, no adjacent region is faster, and R35 holds after it. DEDUCED, log 16. -/
def State.mayLower (s : State) (m : ClkMove) : Bool :=
  let x := s.setting m.region
  decide (m.code.val < x.1) && (List.range 32).all (fun q => !adjacent m.region q || decide ((s.setting q).1 ≤ x.1))
    && s.fits m.region (m.code, x.2)

/-- A lowering by the power manager: EXC.LIMITED counts it and STS.PWR_LIMIT shows it (R655, R640). -/
def State.lower (s : State) (r code : Nat) : State :=
  ((s.putClk r code).satFld R.pkgExc F.pkgExc_LIMITED 1).pwrLimitSts

/-- The fastest region of those a test admits, the lowest number among equals. -/
def State.fastest (s : State) (p : Nat → Bool) : Option Nat :=
  ((List.range 32).filter p).foldl (fun b r =>
    match b with
    | none => some r
    | some x => if (s.setting r).1 > (s.setting x).1 then some r else some x) none

/-- The lowerings of the power manager at one measurement: those the command names that R40 allows, in order, among the
regions a test admits; where none of them is allowed, the fastest region goes down one step. DEDUCED, log 16. -/
def State.lowerAll (s : State) (moves : List ClkMove) (p : Nat → Bool) : State :=
  let r := moves.foldl (fun (a : Bool × State) m =>
    if p m.region && a.2.mayLower m then (true, a.2.lower m.region m.code) else a) (false, s)
  if r.1 then r.2
  else match s.fastest p with
    | some x => if (s.setting x).1 = 0 then s else s.lower x ((s.setting x).1 - 1)
    | none => s

/-- Whether a region may be brought back towards its accepted clock. DEDUCED, log 16. -/
def State.mayRaise (s : State) (m : ClkMove) : Bool :=
  let x := s.setting m.region
  decide (x.1 < m.code.val) && decide (m.code.val ≤ s.accepted m.region) && s.fits m.region (m.code, x.2)

/-- The power manager lets regions return towards their accepted clocks, as the command names. DEDUCED, log 16. -/
def State.raiseAll (s : State) (moves : List ClkMove) : State :=
  moves.foldl (fun s m => if s.mayRaise m then (s.putClk m.region m.code).pwrLimitSts else s) s

/-- The mean of the samples kept, the latest 1,000 of 10 µs each (R655). -/
def meanOf (l : List Nat) : Nat := if l.isEmpty then 0 else l.sum / l.length

/-- Whether the latest measurement breaks a limit: at the ceiling, the 10 ms mean above the mean limit, or an excursion above
the mean limit that has lasted 1 ms and goes on (R4, R656). -/
def State.limitBroken (s : State) : Bool :=
  decide (s.ceilingLimit ≤ s.fld R.pkgPwr F.pkgPwr_NOW_W) || decide (s.fld R.pkgPwr F.pkgPwr_AVG_W > s.meanLimit)
    || (decide (1000 ≤ s.plat.runUs) && decide (s.fld R.pkgPwr F.pkgPwr_NOW_W > s.meanLimit))

/-- The registers of R655 that a measurement writes. DEDUCED, log 16. -/
def State.measure (s : State) (p : PowerSample) : State :=
  let now := p.nowW.toNat
  let win := (now :: s.plat.powerWindow).take 1000
  let above := decide (now > s.meanLimit)
  let run := if above then s.plat.runUs + 10 else 0
  let s := if above && s.plat.runUs == 0 then s.satFld R.pkgExc F.pkgExc_COUNT 1 else s
  let s := { s with plat := { s.plat with powerWindow := win, runUs := run } }
  let s := s.setReg R.pkgVin (BitVec.ofNat 64 (p.mv.toNat + p.curr.toNat * 65536))
  let s := s.setReg R.pkgPwr (BitVec.ofNat 64 (now + meanOf win * 65536))
  let s := s.setFld R.pkgPwrPeak F.pkgPwrPeak_PEAK_W (max now (s.fld R.pkgPwrPeak F.pkgPwrPeak_PEAK_W))
  let s := s.setFld R.pkgPwrPeak F.pkgPwrPeak_LONGEST_US (min 65535 (max run (s.fld R.pkgPwrPeak F.pkgPwrPeak_LONGEST_US)))
  let s := s.addFld R.pkgEnergy F.pkgEnergy_MJ p.mJ.toNat
  let s := s.setFld R.pkgSts F.pkgSts_VIN_LOW (bitNat (decide (31000 ≤ p.mv.toNat) && decide (p.mv.toNat < 32000)))
  p.rails.foldl (fun s e => s.setReg (R.pkgRail e.1) (BitVec.ofNat 64 e.2.toNat)) s

/-- POWER_SAMPLE (R4, R655, R656). DEDUCED, log 16. -/
def execPowerSample (p : PowerSample) (s : State) : Host.Outcome State Fault Refusal :=
  if !s.works (locHost 0xB 0) then .next s
  else
    let s := s.measure p
    if s.limitBroken then .next (s.lowerAll p.moves (fun _ => true))
    else if s.plat.thermLimit then .next s
    else .next (s.raiseAll p.moves)

/-- EXCURSION_EXPIRY (R4): an excursion above the mean limit that has lasted 1 ms; each further measurement lowers again
until the power is back (`State.limitBroken`). -/
def execExcursionExpiry (moves : List ClkMove) (s : State) : Host.Outcome State Fault Refusal :=
  if s.works (locHost 0xB 0) && decide (1000 ≤ s.plat.runUs) then .next (s.lowerAll moves (fun _ => true)) else .next s

/-! ## Temperature (R592, R645, R657 to R659) -/

/-- The greatest of temperatures. -/
def maxT (l : List (BitVec 8)) : Nat := (l.map (·.toNat)).foldl max 0

/-- THERM_SET as it is taken (R655). -/
def State.thermSet (s : State) : Nat := min 105 (max 70 (s.fld R.pkgThermSet F.pkgThermSet_LIMIT_C))

/-- The hottest compute-die sensor of a die. -/
def TempSample.dieMax (t : TempSample) (d : Nat) : Nat := maxT ((t.regions.filter (fun e => e.1.val / 8 = d)).map (·.2))

/-- The stacks' temperatures are taken, and PKG.TEMP with the hottest sensor of each group (R645, R655). -/
def State.takeTemps (s : State) (t : TempSample) : State :=
  let s := t.hbm.foldl (fun s e => s.setFld (R.hbmSts e.1) F.hbmSts_TEMP_C e.2.toNat) s
  let hot := ((List.range 16).map (fun k => s.fld (R.hbmSts k) F.hbmSts_TEMP_C)).foldl max 0
  s.setReg R.pkgTemp (BitVec.ofNat 64 (maxT (t.regions.map (·.2)) + maxT t.host * 2 ^ 8 + hot * 2 ^ 16 + maxT t.engines * 2 ^ 24))

/-- The dies the limiter acts on: the hottest compute die of those that can still be lowered. -/
def State.hotDie (s : State) (t : TempSample) : Nat → Bool :=
  let can := (List.range 4).filter (fun d => (List.range 32).any (fun r => r / 8 == d && (s.setting r).1 != 0))
  let top := (can.map t.dieMax).foldl max 0
  fun r => can.contains (r / 8) && t.dieMax (r / 8) == top

/-- THERMAL_LIMIT (R658): one sample of the sensors of R657. -/
def execThermalLimit (t : TempSample) (s : State) : Host.Outcome State Fault Refusal :=
  if !s.running then .next s
  else
    let s := s.takeTemps t
    let top := max (maxT (t.regions.map (·.2))) (maxT t.host)
    let lim := s.thermSet
    if top > lim ∨ (s.plat.thermLimit = true ∧ top + 2 > lim) then
      let s := { s with plat := { s.plat with thermLimit := true } }
      .next (s.lowerAll t.moves (s.hotDie t))
    else
      let s := { s with plat := { s.plat with thermLimit := false } }
      if s.limitBroken then .next s else .next (s.raiseAll t.moves)

/-- The clock of a server core group, in MHz: its code of CGRP_CLK, or 2.2 GHz while the thermal limiter holds it (R658). -/
def State.coreGroupMHz (s : State) (g : Nat) : Nat :=
  if s.plat.thermLimit then 2200 else 2200 + 50 * natBits (s.reg R.hostCgrpClk).toNat (8 * g + 7) (8 * g)

/-- HBM_HOT (R592, R645): a stack's temperature against TMAX_C, bounded by 105 °C. -/
def execHbmHot (stack : Fin 16) (tempC : BitVec 8) (s : State) : Host.Outcome State Fault Refusal :=
  if !s.running || !s.stackAvail stack then .next s
  else
    let tmax := min 105 (s.fld (R.hbmSafe stack) F.hbmSafe_TMAX_C)
    let s := s.setFld (R.hbmSts stack) F.hbmSts_TEMP_C tempC.toNat
    let hot := s.bit (R.hbmSts stack) F.hbmSts_HOT
    if tempC.toNat > tmax then
      if hot then .next s else .next ((s.setFld (R.hbmSts stack) F.hbmSts_HOT 1).raise .hbm stack 0)
    else if tempC.toNat + 5 ≤ tmax then .next (s.setFld (R.hbmSts stack) F.hbmSts_HOT 0)
    else .next s

/-! ## Stops (R535, R652, R653, R659) -/

/-- STATE of the management target changes: an In-Band Interrupt carries the new code (R660, R662). -/
def PkgState.code : PkgState → Nat
  | .held => 0 | .booting => 1 | .ready => 2 | .bootFail => 3 | .offPrep => 4 | .safeOff => 5 | .powerFail => 6
  | .thermTrip => 7

/-- The package state changes; a change raises an In-Band Interrupt. -/
def State.setSt (s : State) (x : PkgState) : State :=
  if s.plat.st = x then s else { s with plat := { s.plat with st := x, ibi := s.plat.ibi ++ [x.code] } }

/-- A changing store write that a stop or a cold reset interrupts leaves the old value or the new one, and the wear
counter rises exactly with the new one (R554): which of them is open. Writes not yet begun are lost (R535).
DESIGN CHOICE, log 12. -/
def State.interruptStore (s : State) : State :=
  let jobs := s.rep.jobs
  let s := { s with rep := { s.rep with jobs := [], waits := [] } }
  jobs.foldl (fun s e =>
    let f := s.takeFresh
    let s := f.2
    if (Config.freeWord f.1).toNat % 2 = 1 then
      (s.setReg (R.fixStore e.2.idx) e.2.value).addFld (R.fixWear e.2.idx) F.fixWear_COUNT 1
    else s) s

/-- Every agent stops and the rails go off: what was under way is lost (R535, R652, R659). -/
def State.stopAll (s : State) : State :=
  let s := s.interruptStore
  { s with plat := { s.plat with rails := false, coldWait := false, coldRun := [], coldDone := [], warmRun := [], warmDone := [], resets := [],
                                 dvfsRun := [], dvfsHeld := [], dvfsProg := [], offPrep := false, thermLimit := false } }

/-- The drydown of an OFF_PREP has ended: once no store write is programming, every rail but the management target's goes
off (R663). -/
def State.tryOff (s : State) : State :=
  if s.plat.offPrep && s.plat.resets.any (fun r => r.block == .package && r.drained) && s.rep.jobs.isEmpty then
    s.stopAll.setSt .safeOff
  else s

/-- The thermal trip temperature of a sensor group (R657). -/
def TripSensor.tripC : TripSensor → Nat
  | .computeDie => 115
  | .hostDie => 115
  | .stack => 110

/-- THERMAL_TRIP (R659). -/
def execThermalTrip (g : TripSensor) (tempC : BitVec 8) (s : State) : Host.Outcome State Fault Refusal :=
  if s.plat.thermTripPin || !s.plat.rails || decide (tempC.toNat < g.tripC) then .next s
  else
    let s := s.stopAll
    .next ({ s with plat := { s.plat with thermTripPin := true, mgmtStop := 3 } }.setSt .thermTrip)

/-- Whether a power condition causes a power-fail stop, and its STOP code (R652, R653). -/
def PowerFault.stop (f : PowerFault) (us : Nat) : Option Nat :=
  match f with
  | .vin mv =>
    let v := mv.toNat
    if (v < 31000 ∧ us > 10) ∨ (v < 32000 ∧ us > 1000) then some 1
    else if v > 41000 ∧ us > 10 then some 2
    else none
  | .regulator => if us ≥ 10 then some 1 else none
  | .overCurrent => some 1

/-- VIN_36 below 5 V: the management target loses its registers and its address, and THERMTRIP_N is released (R659, R660,
R662). -/
def State.loseVin (s : State) : State :=
  { s with plat := { s.plat with vinLost := true, thermTripPin := false, mgmtAddr := none, capW := 0, mgmtLast := 0,
                                 mgmtStop := 0, mgmtDrainLost := false, ibi := [] } }

/-- POWER_FAIL (R652, R653): `us` is how long the condition has lasted. -/
def execPowerFail (f : PowerFault) (us : BitVec 32) (s : State) : Host.Outcome State Fault Refusal :=
  match f.stop us.toNat with
  | none => .next s
  | some code =>
    let gone := match f with
      | .vin mv => decide (mv.toNat < 5000)
      | _ => false
    let isVin := match f with
      | .vin _ => true
      | _ => false
    let vinOk := s.plat.vinOk && !isVin
    let s := if s.plat.rails then s.stopAll else s
    let s := { s with plat := { s.plat with vinOk := vinOk } }
    let s := if s.plat.thermTripPin then s
      else { s with plat := { s.plat with mgmtStop := code } }.setSt .powerFail
    .next (if gone then (s.loseVin).setSt .powerFail else s)

/-! ## The management target's cap and address (R656, R660, R662) -/

/-- Whether the management target takes no command: VIN_36 is lost (R660), or the port has failed (R64). -/
def State.mgmtDead (s : State) : Bool := s.plat.vinLost || s.broken (locHost 7 0)

/-- CAP_W as it is taken (R662). -/
def capTaken (v : Nat) : Nat := if v = 0 then 0 else max 500 v

/-- CAP_W (R656, R662): the cap is set, mirrored in PKG.BMC_CAP, and the power manager acts on it. -/
def execCapW (value : BitVec 16) (moves : List ClkMove) (s : State) : Host.Outcome State Fault Refusal :=
  if s.mgmtDead then .next s
  else
    let c := capTaken value.toNat
    let s := { s with plat := { s.plat with capW := c } }
    if !s.running then .next s
    else
      let s := s.setFld R.pkgBmcCap F.pkgBmcCap_CAP_W c
      if s.limitBroken then .next (s.lowerAll moves (fun _ => true)) else .next s

/-- ENTDAA (R660): the management target takes a dynamic address and keeps it until VIN_36 is lost. DESIGN CHOICE, log 81. -/
def execEntdaa (addr : BitVec 7) (s : State) : Host.Outcome State Fault Refusal :=
  if s.mgmtDead then .next s else .next { s with plat := { s.plat with mgmtAddr := some addr.toNat } }

/-- The static address of the management target (R660). DESIGN CHOICE, log 81. -/
def State.mgmtStatic (s : State) : Nat := 0x38 + s.plat.strap

/-- The registers of the management target as private transfers read them (R661, R662). DESIGN CHOICE, log 81. -/
def State.mgmtRead (s : State) : Nat → Nat
  | 0 => 0x57
  | 1 => s.plat.st.code
  | 2 => s.plat.mgmtLast + s.plat.mgmtStop * 8 + bitNat s.plat.mgmtDrainLost * 32
  | 4 => s.plat.capW % 256
  | 5 => s.plat.capW / 256
  | 6 => if s.plat.rails then s.fld R.pkgPwr F.pkgPwr_AVG_W % 256 else 0
  | 7 => if s.plat.rails then s.fld R.pkgPwr F.pkgPwr_AVG_W / 256 else 0
  | 8 =>
    if s.plat.rails then
      ([F.pkgTemp_COMPUTE_C, F.pkgTemp_HOST_C, F.pkgTemp_HBM_C, F.pkgTemp_OPT_C].map (s.fld R.pkgTemp)).foldl max 0
    else 0
  | _ => 0

end Sys2Proof.Machine
end

