-- ==== Sys2Proof/Machine/Store.lean ====
section
/-! DEFINITION. The fixative store (R549 to R563): reads under the check code, write rules, programming, wear and rate, and
the measurement registers (R616) that a change of the store extends. -/

namespace Sys2Proof.Machine

/-! ## Measurements (R616) -/

/-- A measurement register: its value and its count. -/
def State.meas (s : State) (i : Nat) : BitVec 512 × Nat := Sparse.get (0, 0) s.sec.meas i

/-- The bytes of a 512-bit value, least significant first. -/
def bytes64 (v : BitVec 512) : List Byte := natToBytes 64 v.toNat

/-- A 512-bit value from 64 bytes. -/
def of64 (bs : List Byte) : BitVec 512 := BitVec.ofNat 512 (bytesToNat bs)

/-- A measurement register is extended by a digest. -/
def State.extend (s : State) (i : Nat) (d : List Byte) : State :=
  let m := s.meas i
  { s with sec := { s.sec with meas := Sparse.set id (0, 0) s.sec.meas i (of64 (sha512 (bytes64 m.1 ++ d)), m.2 + 1) } }

/-- A measurement register is extended by the digest of bytes. -/
def State.measure' (s : State) (i : Nat) (bs : List Byte) : State := s.extend i (sha512 bs)

/-! ## Reads (R549, R559) -/

/-- The key of the inverted bits of a store register. -/
def storeErrKey (i : Nat) : Nat := 2 ^ 62 + i

/-- The inverted bits of a store register. -/
def State.storeErr (s : State) (i : Nat) : BitVec 72 := Sparse.get 0 s.errs (storeErrKey i)

/-- Whether a store register reads with an uncorrectable error. -/
def State.storeUE (s : State) (i : Nat) : Bool := eccClass (s.storeErr i) == .uncorrectable

/-- A store register as it is read: all ones where it is uncorrectable. DESIGN CHOICE, log 5. -/
def State.storeRead (s : State) (i : Nat) : Word :=
  if s.storeErr i = 0 then s.reg (R.fixStore i)
  else if s.storeUE i then allOnes
  else BitVec.ofNat 64 (eccData (s.reg (R.fixStore i)).toNat (s.storeErr i))

/-- The bytes of store registers, eight a register, least significant first (R610). -/
def State.storeBytesOf (s : State) (i n : Nat) : List Byte :=
  (List.range n).flatMap (fun k => natToBytes 8 (s.storeRead (i + k)).toNat)

/-- PCIE.PORT_CFG of a port: the store side is its one home (R550, R551). DESIGN CHOICE, log 5. -/
def State.portCfg (s : State) (q : Nat) : Word := s.storeRead (0x248 + q) &&& BitVec.ofNat 64 0x7F

/-! ## Records and wear -/

/-- A record of the FIX page about a store register: its index is the address (R586, R677). DEDUCED, log 75. -/
def State.fixRecord (s : State) (sev code i : Nat) (req : Loc) : State :=
  s.record { page := .fix, inst := 0, sev := sev, code := code, loc := locHost 3 0, sys := true, addr := i, kind := 4,
             reqLoc := req.toNat }

/-- The cadence hour (R562). -/
def State.hourNow (s : State) : Nat := nsOf s.now / 3600000000000

/-- HOUR_CNT is zeroed at each cadence hour (R573). -/
def State.hourRoll (s : State) : State :=
  if s.hourNow = s.rep.hour then s
  else { s.setFld R.fixHourCnt F.fixHourCnt_COUNT 0 with rep := { s.rep with hour := s.hourNow } }

/-- The last write that a register performs (R560). -/
def wornAt : Nat := 200000

/-- A changing write is performed: the value is held, the wear counter and the counts rise, and a change of registers
0x260 to 0x269 extends measurement 7 (R560, R561, R572, R616). An armed store injection strikes the stored word (R594). -/
def State.storePerform (s : State) (i : Nat) (v : Word) : State :=
  let s := (s.setReg (R.fixStore i) v).setErr (storeErrKey i) 0
  let s := if s.injFires .fix 0 0 [0, 2] none then
      (s.setErr (storeErrKey i) (injMask (s.reg (R.inj .fix 0)))).injFired .fix 0
    else s
  let s := s.addFld (R.fixWear i) F.fixWear_COUNT 1
  let c := s.fld (R.fixWear i) F.fixWear_COUNT
  let s := if c = wornAt then s.setFld (R.fixWear i) F.fixWear_WORN 1 else s
  let s := if c = s.fld R.fixCtl F.fixCtl_WARN then s.raise .fix 0 1 else s
  let s := (s.addFld R.fixWrites F.fixWrites_COUNT 1).hourRoll
  let s := s.addFld R.fixHourCnt F.fixHourCnt_COUNT 1
  if 0x260 ≤ i ∧ i ≤ 0x269 then s.measure' 7 (s.storeBytesOf 0x260 10) else s

/-! ## Write rules (R550, R551) -/

/-- Who may write a store register. -/
inductive StoreRule where
  | ro | keeper | defects | floor | firmware
  deriving DecidableEq, Repr

/-- The write rule of a store register (R550). -/
def storeRule (i : Nat) : StoreRule :=
  if i < 0x100 then .ro
  else if i < 0x24C then .keeper
  else if i < 0x260 then .defects
  else if i < 0x264 then .ro
  else if i < 0x267 then .floor
  else if i = 0x267 then .ro
  else if i < 0x26A then .keeper
  else if i < 0x300 then .ro
  else .firmware

/-- Whether an agent may write a register of a rule. DEDUCED, log 75. -/
def StoreRule.allows (r : StoreRule) : Agent → Bool
  | .keeper _ => r != .ro
  | .warden _ => r == .firmware
  | _ => false

/-- The value that a write leaves (R551): the OR in the field defect map, the written value otherwise. -/
def State.storeValue (s : State) (i : Nat) (v : Word) : Word :=
  if storeRule i = .defects then s.storeRead i ||| v else v

/-- The value of a store register now held for its rate check. -/
def State.lastChangeNs (s : State) (i : Nat) : Option Nat := (lookupKey s.rep.lastChange i).map s.elapsedNs

/-- Whether R562 refuses a changing write. -/
def State.storeRateHit (s : State) (i : Nat) : Bool :=
  (match s.lastChangeNs i with
    | some ns => decide (ns < s.fld R.fixSafe F.fixSafe_GAP_S * 1000000000)
    | none => false)
  || decide (s.fld R.fixSafe F.fixSafe_HOURLY ≤ s.fld R.fixHourCnt F.fixHourCnt_COUNT)

/-- A bank begins to program a write. -/
def State.beginProgram (s : State) (i : Nat) (v : Word) : State :=
  let s := { s with rep := { s.rep with jobs := insertKey s.rep.jobs (i / 256) ⟨i, v⟩ } }
  s.setBit R.fixSts (i / 256) true

/-- A write that R551 lets through (R552, R553, R560, R562): WORN, unchanged, refused by rate, or programmed, at once or
when its bank is free. DEDUCED, log 75. -/
def State.storeAccept (s : State) (i : Nat) (v : Word) (req : Loc) : State :=
  let w := s.storeValue i v
  if s.broken (locHost 3 0) then s
  else if s.bit (R.fixWear i) F.fixWear_WORN then
    ((s.fixRecord 0 0x8 i req).raise .fix 0 0).setFld R.fixLastWorn F.fixLastWorn_INDEX i
  else if w = s.storeRead i ∧ !s.storeUE i then s
  else
    let s := s.hourRoll
    if s.storeRateHit i then (s.fixRecord 0 0x7 i req).raise .fix 0 2
    else
      let s := { s with rep := { s.rep with lastChange := insertKey s.rep.lastChange i s.now } }
      if (lookupKey s.rep.jobs (i / 256)).isSome then { s with rep := { s.rep with waits := s.rep.waits ++ [⟨i, w⟩] } }
      else s.beginProgram i w

/-- A write to a store register (R551). -/
def State.storeWrite (s : State) (a : Agent) (i : Nat) (v : Word) : State :=
  let req := agentLoc a
  if !(storeRule i).allows a then s.fixRecord 0 0x1 i req
  else if storeRule i = .floor ∧ v.toNat < (s.storeRead i).toNat then s.fixRecord 0 0x6 i req
  else s.storeAccept i v req

/-- FIX_STORE_WRITE (R551). -/
def execFixStoreWrite (a : Agent) (idx : Fin 4096) (value : Word) (s : State) : Host.Outcome State Fault Refusal :=
  if s.pageDead .fix 0 then .next s else .next (s.storeWrite a idx value)

/-- The next write that waits for a bank is programmed; one to a register that is WORN by now has no effect (R560). -/
def State.nextProgram (s : State) (bank : Nat) : Nat → State
  | 0 => s
  | n + 1 =>
    match s.rep.waits.find? (fun j => j.idx / 256 = bank) with
    | none => s
    | some j =>
      let s := { s with rep := { s.rep with waits := s.rep.waits.erase j } }
      if s.bit (R.fixWear j.idx) F.fixWear_WORN then
        State.nextProgram (((s.fixRecord 0 0x8 j.idx 0).raise .fix 0 0).setFld R.fixLastWorn F.fixLastWorn_INDEX j.idx) bank n
      else s.beginProgram j.idx (s.storeValue j.idx j.value)

/-- FIX_PROGRAM_DONE (R553, R560, R663): a bank ends its changing write, and takes up the next that waits for it; the last one
ends an OFF_PREP. DEDUCED, log 2. -/
def execFixProgramDone (bank : Fin 16) (s : State) : Host.Outcome State Fault Refusal :=
  match lookupKey s.rep.jobs bank with
  | none => .next s
  | some j =>
    if s.broken (locHost 3 0) then .next s else
    let s := { s with rep := { s.rep with jobs := eraseKey s.rep.jobs bank } }
    let s := s.setBit R.fixSts bank false
    .next ((s.storePerform j.idx j.value).nextProgram bank s.rep.waits.length).tryOff

end Sys2Proof.Machine
end

