-- ==== Sys2Proof/Machine/Time.lean ====
section
/-! DEFINITION. The cadence (R70 to R83), the election of its source (R79, R83, R459), anchor streams (R84 to R94) and
THROTTLE_N (R95 to R98). -/

namespace Sys2Proof.Machine

/-! ## The counter (R70, R71, R77) -/

/-- The bounds of RATE: 6 units of 2^-16 ns a tick either way (R77). -/
def slewStep (ofs : Int) : Int := max (-6) (min 6 ofs)

/-- RATE follows the offset still to be removed: a counter that is ahead goes slower (R77). -/
def State.setRate (s : State) : State := s.setFld R.timeRate F.timeRate_RATE (0x10000 - slewStep s.time.slew).toNat

/-- An offset, in units of 2^-16 ns, is to be removed by slewing. DEDUCED, log 19. -/
def State.slewBy (s : State) (ofs : Int) : State := ({ s with time := { s.time with slew := ofs } }).setRate

/-- Whether a step takes the counter forward over its wrap. -/
def overWrap (old new : Word) : Bool := decide (0 < cadenceDiff new old) && decide (new.toNat < old.toNat)

/-- The counter takes a value in one step (R78, R82); a step forward over the wrap counts it in EPOCH, as 95 lists for
PPS_EDGE and CAD_RSP (R71). DEDUCED, log 19. -/
def State.stepCounter (s : State) (v : Word) : State :=
  let t := (s.setReg R.timeNow v).slewBy 0
  if overWrap s.now v then t.addFld R.timeEpoch F.timeEpoch_WRAPS 1 else t

/-- TIME_TICK (R70, R71, R96): the counter advances by RATE, the throttled time accumulates, the cadence hour of the
store is kept (R573), and the changes of clock and voltage under way go on (R39). -/
def execTimeTick (s : State) : Host.Outcome State Fault Refusal :=
  if !s.works timeLoc then .next s
  else
    let rate := s.fld R.timeRate F.timeRate_RATE
    let sum := s.now.toNat + rate
    let s := s.setReg R.timeNow (BitVec.ofNat 64 sum)
    let s := if 2 ^ 64 ≤ sum then s.addFld R.timeEpoch F.timeEpoch_WRAPS 1 else s
    let s := { s with time := { s.time with ticks := s.time.ticks + 1, slew := s.time.slew - (0x10000 - (rate : Int)) } }
    let s := s.setRate
    let s := if s.time.thrPhase = 1 then s.addFld R.timeThrNs F.timeThrNs_VALUE 1 else s
    .next s.hourRoll.dvfsTick

/-! ## Source candidates and election (R79, R83, R459) -/

/-- Whether this package is a source candidate (R79). DEDUCED, log 67. -/
def State.isCandidate (s : State) : Bool :=
  s.bit R.timeCtl F.timeCtl_SRC_CAND && s.bit R.timeSts F.timeSts_PPS_VALID && s.bit R.timeSts F.timeSts_REF_LOCK

/-- Whether a port exchanges HELLO: in LINKED, DATA or HELD (R459). -/
def State.helloPort (s : State) (p : Nat) : Bool := s.optState p == 2 || s.optState p == 3 || s.optState p == 5

/-- The candidate a neighbour advertises, with one hop added, heard within the last 1 ms (R459). -/
def State.portCandidate (s : State) (p : Nat) : Option (Nat × Nat) :=
  match (s.port p).peer with
  | some h => if h.candValid && decide (s.elapsedNs (s.port p).heard ≤ 1000000) then some (h.candPkg, h.candHops + 1) else none
  | none => none

/-- The best candidate: package, hops, and the upstream port unless it is this package (R459). DEDUCED, log 67. -/
def State.bestCandidate (s : State) : Option (Nat × Nat × Option Nat) :=
  let own := if s.isCandidate then [(s.pkgId, 0, (none : Option Nat))] else []
  let all := own ++ (List.range 8).filterMap (fun p => (s.portCandidate p).map (fun c => (c.1, c.2, some p)))
  all.foldl (fun b c =>
    match b with
    | none => some c
    | some x => if c.1 < x.1 ∨ (c.1 = x.1 ∧ c.2.1 < x.2.1) then some c else some x) none

/-- The upstream port, where the source is another package. -/
def State.upstream (s : State) : Option Nat := (s.bestCandidate).bind (·.2.2)

/-- The election (R79, R83, R459): SOURCE_PKG, IS_SOURCE, the ports' UPSTREAM, and SOURCE_CHG when a known source is
replaced. The source itself is aligned at offset 0, and where it has neighbours it has joined their fabric's cadence, so that
it adopts a later source's by slewing only. DEDUCED, log 19. -/
def State.elect (s : State) : State :=
  let best := s.bestCandidate
  let s := (List.range 8).foldl (fun s p => s.setFld (R.optSts p) F.optSts_UPSTREAM (bitNat (best.bind (·.2.2) == some p))) s
  match best with
  | none => s.setFld R.timeSts F.timeSts_IS_SOURCE 0
  | some (pkg, _, up) =>
    let changed := match s.time.source with
      | some x => x != pkg
      | none => false
    let s := { s with time := { s.time with source := some pkg } }
    let s := (s.setFld R.timeSts F.timeSts_SOURCE_PKG pkg).setFld R.timeSts F.timeSts_IS_SOURCE (bitNat up.isNone)
    let s := if up.isNone then (s.setFld R.timeAlignOfs F.timeAlignOfs_OFS_PS 0).setFld R.timeSts F.timeSts_ALIGNED 1 else s
    let s := if up.isNone && (List.range 8).any (fun p => (s.port p).peer.isSome) then { s with time := { s.time with joined := true } } else s
    if changed then s.raise .time 0 6 else s

/-- After a write of FAB_CFG: a package that changed its own ID is known by the new one, as a source too, and the best
candidate is found anew (R79, R457). -/
def State.renumbered (s : State) (old : Nat) : State :=
  let s := if s.time.source = some old ∧ s.bit R.timeSts F.timeSts_IS_SOURCE ∧ s.pkgId ≠ old then
      { s with time := { s.time with source := some s.pkgId } }
    else s
  if s.pkgId = old then s else s.elect

/-! ## Reference inputs (R75 to R78) -/

/-- REF_LOST (R75): the internal oscillator takes over. -/
def execRefLost (s : State) : Host.Outcome State Fault Refusal :=
  if !s.works timeLoc || s.bit R.timeSts F.timeSts_HOLDOVER then .next s
  else .next (((s.setFld R.timeSts F.timeSts_HOLDOVER 1).setFld R.timeSts F.timeSts_REF_LOCK 0).raise .time 0 0).elect

/-- REF_RELOCK (R75): relocked, without a step of the counter. -/
def execRefRelock (s : State) : Host.Outcome State Fault Refusal :=
  if !s.works timeLoc then .next s
  else .next ((s.setFld R.timeSts F.timeSts_HOLDOVER 0).setFld R.timeSts F.timeSts_REF_LOCK 1).elect

/-- Whether an anchor stream of the package is armed. -/
def State.anyArmed (s : State) : Bool := (List.range 64).any (fun n => s.bit (R.timeAstrCfg n) F.timeAstrCfg_ARM)

/-- Whether an interval of the time-base clock is 1 s ± 1 µs. -/
def secondApart (a b : Nat) : Bool := decide (1000000000 ≤ a - b + 1000) && decide (a - b ≤ 1000001000)

/-- The offset of a counter value from the nearest whole second, in units of 2^-16 ns (R77). -/
def secondOffset (w : Word) : Int :=
  let m := w.toNat % (1000000000 * 65536)
  if m * 2 < 1000000000 * 65536 then (m : Int) else (m : Int) - 1000000000 * 65536

/-- The slewing of the source at a valid edge (R77): never an offset beyond 1 µs. -/
def State.ppsSlew (s : State) : State :=
  if s.bit R.timeSts F.timeSts_IS_SOURCE && s.bit R.timeSts F.timeSts_PPS_VALID then
    let o := secondOffset s.now
    if o.natAbs ≤ 1000 * 65536 then s.slewBy o else s.raise .time 0 2
  else s

/-- A pending SET at a valid edge (R78): the counter takes the value, unless a stream has been armed meanwhile.
DEDUCED, log 19. -/
def State.applySet (s : State) : State :=
  if s.bit R.timeSts F.timeSts_SET_PENDING then
    let t := s.setFld R.timeSts F.timeSts_SET_PENDING 0
    if s.anyArmed then t.raise .time 0 3 else t.stepCounter (s.reg R.timeSet)
  else s

/-- A valid edge (R76): stamped into PPS_TS with FRAC zero. An edge that also applies a pending SET is stamped with the counter
as it stood before the SET: the spec does not say which. DESIGN CHOICE, log 88. -/
def State.ppsValid (s : State) : State :=
  let s := s.setReg R.timePpsTs (BitVec.ofNat 64 (nsOf s.now * 65536))
  let s := { s with time := { s.time with lastEdge := some s.time.ticks, cand := none } }
  let s := s.setFld R.timeSts F.timeSts_PPS_VALID 1
  s.applySet.elect.ppsSlew

/-- PPS_EDGE (R76). DEDUCED, log 19. -/
def execPpsEdge (s : State) : Host.Outcome State Fault Refusal :=
  if !s.works timeLoc || !s.bit R.timeCtl F.timeCtl_PPS_EN then .next s
  else
    let now := s.time.ticks
    let hold := fun (s : State) => { s with time := { s.time with cand := some now } }
    if s.bit R.timeSts F.timeSts_PPS_VALID then
      match s.time.lastEdge with
      | some e => if secondApart now e then .next s.ppsValid else .next (s.raise .time 0 1)
      | none => .next s.ppsValid
    else match s.time.cand with
      | none => .next (hold s)
      | some c => if secondApart now c then .next s.ppsValid else .next ((hold s).raise .time 0 1)

/-- PPS_TIMEOUT (R76): no valid edge for 1.5 s. -/
def execPpsTimeout (s : State) : Host.Outcome State Fault Refusal :=
  match s.time.lastEdge with
  | some e =>
    if s.works timeLoc && s.bit R.timeSts F.timeSts_PPS_VALID && decide (1500000000 ≤ s.time.ticks - e) then
      .next (({ s with time := { s.time with lastEdge := none, cand := none } }).setFld R.timeSts F.timeSts_PPS_VALID 0).elect
    else .next s
  | none => .next s

/-- TIME_SET (R78): a firmware write to TIME.SET. DEDUCED, log 19. -/
def execTimeSet (a : Agent) (value : Word) (s : State) : Host.Outcome State Fault Refusal :=
  if s.pageDead .time 0 then .next s
  else if !fwAllowed a .time then .next (s.denied a R.timeSet)
  else if s.anyArmed then .next (s.raise .time 0 3)
  else
    let s := { s with time := { s.time with setSince := s.time.ticks } }
    .next ((s.setReg R.timeSet value).setFld R.timeSts F.timeSts_SET_PENDING 1)

/-- SET_TIMEOUT (R78): a pending SET without a valid edge within 1.5 s. -/
def execSetTimeout (s : State) : Host.Outcome State Fault Refusal :=
  if s.works timeLoc && s.bit R.timeSts F.timeSts_SET_PENDING && decide (1500000000 ≤ s.time.ticks - s.time.setSince) then
    .next ((s.setFld R.timeSts F.timeSts_SET_PENDING 0).raise .time 0 3)
  else .next s

/-! ## Anchor streams (R84 to R94) -/

/-- The entries of a stream's ring: 2^SIZE, SIZE 4 to 16, other values taken as 4 (R102). -/
def State.astrSize (s : State) (n : Nat) : Nat :=
  let z := s.fld (R.timeAstrCfg n) F.timeAstrCfg_SIZE
  2 ^ (if 4 ≤ z ∧ z ≤ 16 then z else 4)

/-- The physical address of the entry at a stream's HEAD. -/
def State.astrEntry (s : State) (n : Nat) : Nat :=
  s.fld (R.timeAstrBase n) F.timeAstrBase_ADDR * 32 + 32 * (s.fld (R.timeAstrHead n) F.timeAstrHead_HEAD % s.astrSize n)

/-- Whether a stream has unfired entries. -/
def State.astrHas (s : State) (n : Nat) : Bool :=
  s.fld (R.timeAstrTail n) F.timeAstrTail_TAIL != s.fld (R.timeAstrHead n) F.timeAstrHead_HEAD

/-- A ring read that fails disarms the stream, sets ANCHOR_REJECT and faults the stream's context (R87). -/
def State.astrFail (s : State) (n ctx : Nat) (st : Status) : State :=
  ((s.setFld (R.timeAstrCfg n) F.timeAstrCfg_ARM 0).raise .time 0 4).ctxFault ctx st.code timeLoc

/-- HEAD moves to the next entry. DEDUCED, log 20. -/
def State.astrNext (s : State) (n : Nat) : State := s.addFld (R.timeAstrHead n) F.timeAstrHead_HEAD 1

/-- An entry that is not delivered counts as fired, with ANCHOR_REJECT (R87, R88). -/
def State.astrSkip (s : State) (n : Nat) : State := (s.astrNext n).raise .time 0 4

/-- Whether a queue has room for an anchor token (R272): anchor tokens and driver-written entries below capacity −
GRANTED, and the ring not full. -/
def State.anchorRoom (s : State) (k : Nat) : Bool :=
  let u := qidUnit k
  let q := qidQueue k
  let cap := ringCapacity (s.qSize u q)
  decide (((Sparse.get [] s.sch.prov k).filter (fun t => !t.srcValid)).length + s.qGranted u q < cap)
    && decide (s.qCount u q < cap)

/-- The body of an anchor token (R89). -/
def anchorBody (n : Nat) (t : AnchorTok) (fired : Word) (late : Bool) : Nat :=
  t.time.toNat + fired.toNat * 2 ^ 64 + (t.action + n * 16 + bitNat late * 1024) * 2 ^ 128 + t.param0.toNat * 2 ^ 192
    + t.param1.toNat * 2 ^ 256

/-- A token enters its target queue, or is refused, or faults the stream's context (R88 to R90). None: its line is busy.
The context is that of the entry as it fired, whatever CFG.CTX has become meanwhile. A write into the ring that fails disarms
the stream under R93, whether or not a teardown begins (R88). DEDUCED, log 20. DESIGN CHOICE, log 89. -/
def State.anchorEnter (s : State) (n : Nat) (t : AnchorTok) : Option State :=
  let ctx := t.ctx
  match s.refusal t.qid ctx with
  | some _ => some (({ s with time := { s.time with waiting := eraseKey s.time.waiting n } }).astrSkip n)
  | none =>
    let fired := s.nowAt (unitDie (qidUnit t.qid))
    let late := decide (100 * 65536 < cadenceDiff fired t.time)
    let e := deliveredEntry 0x03 ctx 0 0 0 0 false (anchorBody n t fired late)
    let s0 := { s with time := { s.time with waiting := eraseKey s.time.waiting n } }
    match s0.appendEntry t.qid e ⟨qidQueue t.qid, 0, 0, 0, false⟩ with
    | (.ok s, _) =>
      let s := s.astrNext n
      some (if late then (s.satFld (R.timeAstrHead n) F.timeAstrHead_LATE_CNT 1).raise .time 0 5 else s)
    | (.error .ok, _) => none
    | (.error st, s) => some ((s.ctxFault ctx st.code (locUnit (qidUnit t.qid) 0)).endStream n)

/-- Whether a queue refuses a token for another reason than being full (R88). -/
def State.anchorRefused (s : State) (k ctx : Nat) : Bool :=
  match s.refusal k ctx with
  | none => false
  | some _ => !(s.qEn (qidUnit k) (qidQueue k) && s.qKind (qidUnit k) (qidQueue k) != 0 && s.unitAvail (qidUnit k)
      && !s.unitInReset (qidUnit k) && decide (s.qCount (qidUnit k) (qidQueue k) ≥ ringCapacity (s.qSize (qidUnit k) (qidQueue k))))

/-- A due entry: skipped, delivered, or held at the time base for room (R87, R88, R91). Reserved bits of the entry (Q1 [31:29]
and [63:36]) are not looked at: the chapter names no consequence of one that is not zero. DEDUCED, log 20. DESIGN CHOICE,
log 98. -/
def State.anchorDue (s : State) (n ctx : Nat) (q1 : Nat) (t : AnchorTok) : State :=
  let k := natBits q1 16 0
  if natBits q1 28 17 ≠ ctx ∨ s.qCtx (qidUnit k) (qidQueue k) ≠ ctx ∨ 7 ≤ t.action then s.astrSkip n
  else if s.anchorRefused k ctx then s.astrSkip n
  else
    let hold := { s with time := { s.time with waiting := insertKey s.time.waiting n t } }
    if !s.anchorRoom k then hold
    else match s.anchorEnter n t with
      | some s => s
      | none => hold

/-- The read of a stream's next entry under its context's ownership (R84, R87, R332, R578). DEDUCED, log 20. -/
def State.anchorRead (s : State) (n : Nat) : State :=
  let ctx := s.fld (R.timeAstrCfg n) F.timeAstrCfg_CTX
  let pa := s.astrEntry n
  match s.homeCheck ctx pa true timeLoc with
  | (some st, s) => s.astrFail n ctx st
  | (none, s) =>
    let w := fun i => (s.memWord (pa + 8 * i))
    if s.memUE pa 32 then
      match s.consume pa 32 (some ctx) timeLoc with
      | (_, s) => s.astrFail n ctx .uncorrectable
    else if cadenceDiff s.now (w 0) < 0 then s
    else match s.consume pa 32 (some ctx) timeLoc with
      | (true, s) => s.astrFail n ctx .uncorrectable
      | (false, s) =>
        let q1 := (w 1).toNat
        s.anchorDue n ctx q1 ⟨natBits q1 16 0, ctx, w 0, natBits q1 35 32, w 2, w 3⟩

/-- ANCHOR_FIRE (R86 to R91). -/
def execAnchorFire (stream : Fin 64) (s : State) : Host.Outcome State Fault Refusal :=
  if s.pageDead .time 0 || !s.bit (R.timeAstrCfg stream) F.timeAstrCfg_ARM || !s.astrHas stream
      || (lookupKey s.time.waiting stream).isSome then .next s
  else .next (s.anchorRead stream)

/-- ANCHOR_TOKEN_DELIVER (R88): a waiting token enters its queue when room frees; a queue that now refuses it for another
reason ends the wait. -/
def execAnchorTokenDeliver (stream : Fin 64) (s : State) : Host.Outcome State Fault Refusal :=
  match lookupKey s.time.waiting stream with
  | none => .next s
  | some t =>
    if s.pageDead .time 0 then .next s
    else if !s.anchorRefused t.qid t.ctx && !s.anchorRoom t.qid then .next s
    else match s.anchorEnter stream t with
      | some s => .next s
      | none => .next s

/-- A write of ASTRn_CFG (R92, R102, R635): CTX only while ARM was 0. -/
def State.astrCfgWrite (s : State) (n : Nat) (v : Word) : State :=
  let r := R.timeAstrCfg n
  let s := if s.bit r F.timeAstrCfg_ARM then s else s.setFld r F.timeAstrCfg_CTX (F.timeAstrCfg_CTX.get v)
  (s.setFld r F.timeAstrCfg_SIZE (F.timeAstrCfg_SIZE.get v)).setFld r F.timeAstrCfg_ARM (F.timeAstrCfg_ARM.get v)

/-- ANCHOR_ARM (R92): the written word with ARM at 1. -/
def execAnchorArm (_a : Agent) (stream : Fin 64) (cfg : Word) (s : State) : Host.Outcome State Fault Refusal :=
  if s.pageDead .time 0 then .next s else .next (s.astrCfgWrite stream (F.timeAstrCfg_ARM.put cfg 1))

/-- ANCHOR_DISARM (R92): the written word with ARM at 0; a token being delivered still goes. -/
def execAnchorDisarm (_a : Agent) (stream : Fin 64) (cfg : Word) (s : State) : Host.Outcome State Fault Refusal :=
  if s.pageDead .time 0 then .next s else .next (s.astrCfgWrite stream (F.timeAstrCfg_ARM.put cfg 0))

/-- ANCHOR_TAIL_WRITE (R94). -/
def execAnchorTailWrite (_a : Agent) (stream : Fin 64) (tail : BitVec 17) (s : State) : Host.Outcome State Fault Refusal :=
  if s.pageDead .time 0 then .next s
  else
    let head := s.fld (R.timeAstrHead stream) F.timeAstrHead_HEAD
    if (tail.toNat + 2 ^ 17 - head) % 2 ^ 17 > s.astrSize stream then .next (s.raise .time 0 4)
    else .next (s.setFld (R.timeAstrTail stream) F.timeAstrTail_TAIL tail.toNat)

/-! ## THROTTLE_N (R95 to R98) -/

/-- One row in how many cycles the arrays accept (R95, R97). DEDUCED, log 21. -/
def State.issueDivisor (s : State) : Nat :=
  match s.time.thrPhase with
  | 0 => 1
  | 3 => 2
  | _ => 4

/-- THROTTLE_ASSERT (R95, R96): a recognised assertion. -/
def execThrottleAssert (s : State) : Host.Outcome State Fault Refusal :=
  if !s.works timeLoc || s.time.thrPhase == 1 then .next s
  else
    let s := (s.addFld R.timeThrCnt F.timeThrCnt_COUNT 1).setReg R.timeThrLast s.now
    .next (({ s with time := { s.time with thrPhase := 1 } }).setFld R.timeSts F.timeSts_THROTTLED 1)

/-- THROTTLE_RELEASE (R96, R97): quarter issue stays until 100 ns have passed. -/
def execThrottleRelease (s : State) : Host.Outcome State Fault Refusal :=
  if !s.works timeLoc || s.time.thrPhase != 1 then .next s
  else .next (({ s with time := { s.time with thrPhase := 2, thrSince := s.time.ticks } }).setFld R.timeSts F.timeSts_THROTTLED 0)

/-- THROTTLE_HALF_ISSUE (R97): at 100 ns after the deassertion. -/
def execThrottleHalfIssue (s : State) : Host.Outcome State Fault Refusal :=
  if s.works timeLoc && s.time.thrPhase == 2 && decide (100 ≤ s.time.ticks - s.time.thrSince) then
    .next { s with time := { s.time with thrPhase := 3 } }
  else .next s

/-- THROTTLE_FULL_ISSUE (R97): at 200 ns after the deassertion. -/
def execThrottleFullIssue (s : State) : Host.Outcome State Fault Refusal :=
  if s.works timeLoc && s.time.thrPhase == 3 && decide (200 ≤ s.time.ticks - s.time.thrSince) then
    .next { s with time := { s.time with thrPhase := 0 } }
  else .next s

end Sys2Proof.Machine
end

