-- ==== Sys2Proof/Machine/Numeric.lean ====
section
/-! DEFINITION. Exact values, the element formats (R104 to R109), the accord and its classes (R114 to R122), the one
rounding (R123 to R128) and the arithmetic of IEEE 754 that the lane programs use (R204). -/

namespace Sys2Proof.Machine

/-! ## Exact values -/

/-- A value on its way to a stored format (R123, R184): NaN, an infinity from the inputs, an accord that left its range, or
an exact rational n / d with a sign (which a zero keeps where it has one). -/
inductive Val where
  | nan
  | inf (neg : Bool)
  | ovf (neg : Bool)
  | fin (neg : Bool) (n d : Nat)
  deriving DecidableEq, Repr

/-- ±n × 2^e. -/
def Val.dyadic (neg : Bool) (n : Nat) (e : Int) : Val :=
  if 0 ≤ e then .fin neg (n * 2 ^ e.toNat) 1 else .fin neg n (2 ^ (-e).toNat)

/-- Zero without a sign. -/
def Val.zero : Val := .fin false 0 1

/-- A signed rational; a zero carries no sign. -/
def Val.ofInt (v : Int) (d : Nat) : Val := .fin (decide (v < 0)) v.natAbs d

/-- The signed numerator of a finite value. -/
def sgn (neg : Bool) (n : Nat) : Int := if neg then -(n : Int) else n

/-- Whether a value is finite. -/
def Val.isFin : Val → Bool
  | .fin _ _ _ => true
  | _ => false

/-- Whether a value is NaN. -/
def Val.isNan : Val → Bool
  | .nan => true
  | _ => false

/-- Whether a value is the infinity of a sign. -/
def Val.isInf (x : Val) (neg : Bool) : Bool := x == .inf neg

/-- Whether a value is an infinity or an overflowed accord. -/
def Val.isInfOvf : Val → Bool
  | .inf _ | .ovf _ => true
  | _ => false

/-- The magnitude of a finite value as a pair; (0, 1) otherwise. -/
def Val.mag : Val → Nat × Nat
  | .fin _ n d => (n, d)
  | _ => (0, 1)

/-- ⌊log2 (n / d)⌋ for n > 0. -/
def floorLog2 (n d : Nat) : Int :=
  let e : Int := (Nat.log2 n : Int) - Nat.log2 d
  if (if 0 ≤ e then decide (d * 2 ^ e.toNat ≤ n) else decide (d ≤ n * 2 ^ (-e).toNat)) then e else e - 1

/-! ## Formats (R104, R189) -/

/-- A format: a float with its exponent and mantissa widths and its bias, whether its top exponent is IEEE's (infinities and
NaN) and whether it has a NaN; or a two's complement integer. -/
inductive Fmt where
  | flt (ew mw bias : Nat) (ieee nan : Bool)
  | int (w : Nat)
  deriving DecidableEq, Repr

namespace Fmt

/-- FP32. -/
def f32 : Fmt := .flt 8 23 127 true true
/-- FP64. -/
def f64 : Fmt := .flt 11 52 1023 true true
/-- BF16. -/
def bf16 : Fmt := .flt 8 7 127 true true
/-- INT32. -/
def i32 : Fmt := .int 32

/-- The format of a code of R171 and R189. -/
def ofCode (c : Nat) : Option Fmt :=
  match c with
  | 0x0 => some (.flt 2 1 1 false false)
  | 0x1 => some (.flt 2 3 1 false false)
  | 0x2 => some (.flt 3 2 3 false false)
  | 0x3 => some (.flt 4 3 7 false true)
  | 0x4 => some (.flt 5 2 15 true true)
  | 0x5 => some (.int 4)
  | 0x6 => some (.int 8)
  | 0x7 => some bf16
  | 0x8 => some (.flt 5 10 15 true true)
  | 0xA => some f32
  | 0xB => some f64
  | 0xC => some i32
  | _ => none

/-- The width of an element in bits. -/
def bits : Fmt → Nat
  | .flt ew mw _ _ _ => 1 + ew + mw
  | .int w => w

/-- log2 of the least significant weight: that of the smallest subnormal, 0 for an integer. -/
def lsb : Fmt → Int
  | .flt _ mw bias _ _ => 1 - (bias : Int) - mw
  | .int _ => 0

/-- The encoding of the largest finite magnitude, sign aside. -/
def maxBits : Fmt → Nat
  | .flt ew mw _ true _ => (2 ^ ew - 1) * 2 ^ mw - 1
  | .flt ew mw _ false nan => 2 ^ (ew + mw) - 1 - bitNat nan
  | .int w => 2 ^ (w - 1) - 1

/-- The canonical NaN (R106); formats without one write +0 (R126). -/
def nanBits : Fmt → Nat
  | .flt ew mw _ true _ => if mw = 2 then 0x7F else (2 ^ ew - 1) * 2 ^ mw + 2 ^ (mw - 1)
  | .flt ew mw _ false true => 2 ^ (ew + mw) - 1
  | _ => 0

/-- Whether the format has infinities. -/
def hasInf : Fmt → Bool
  | .flt _ _ _ ieee _ => ieee
  | .int _ => false

/-- Whether the format has a NaN. -/
def hasNan : Fmt → Bool
  | .flt _ _ _ _ nan => nan
  | .int _ => false

/-- The value of an encoding (R104, R105). -/
def decode (f : Fmt) (b : Nat) : Val :=
  match f with
  | .int w => Val.ofInt (signedOf w b) 1
  | .flt ew mw bias ieee nan =>
    let neg := natBit b (ew + mw)
    let e := natBits b (ew + mw - 1) mw
    let m := b % 2 ^ mw
    if ieee && e = 2 ^ ew - 1 then (if m = 0 then .inf neg else .nan)
    else if nan && !ieee && e = 2 ^ ew - 1 && m = 2 ^ mw - 1 then .nan
    else if e = 0 then Val.dyadic neg m (1 - (bias : Int) - mw)
    else Val.dyadic neg (2 ^ mw + m) ((e : Int) - bias - mw)

/-- The largest finite magnitude as a pair. -/
def maxMag (f : Fmt) : Nat × Nat := (f.decode f.maxBits).mag

end Fmt

/-! ## Conversion (R123 to R127, R131) -/

/-- The rounding modes (R123). -/
inductive Rnd where
  | rne | rtz | sr
  deriving DecidableEq, Repr

/-- The mode of a code of RND; 3 is reserved. -/
def Rnd.ofCode (c : Nat) : Option Rnd :=
  match c with
  | 0 => some .rne
  | 1 => some .rtz
  | 2 => some .sr
  | _ => none

/-- n / d in steps of 2^k, rounded to a whole number of them: the neighbour toward zero or the next (R123, R131), with `w`
the position's random word. -/
def roundSteps (m : Rnd) (w n d : Nat) (k : Int) : Nat :=
  let a := if 0 ≤ k then n else n * 2 ^ (-k).toNat
  let b := if 0 ≤ k then d * 2 ^ k.toNat else d
  let lo := a / b
  let rem := a % b
  let up := match m with
    | .rne => decide (2 * rem > b) || (decide (2 * rem = b) && lo % 2 == 1)
    | .rtz => false
    | .sr => decide (w % 2 ^ 32 < rem * 2 ^ 32 / b)
  if up then lo + 1 else lo

/-- Flag bits of R183. -/
def flagOvfSat : Nat := 1
/-- INF_SAT. -/
def flagInfSat : Nat := 2
/-- NAN_ZEROED. -/
def flagNanZeroed : Nat := 4
/-- ACC_OVF. -/
def flagAccOvf : Nat := 8
/-- ALL_MASKED. -/
def flagAllMasked : Nat := 16
/-- FAULT_SUPPRESSED. -/
def flagSuppressed : Nat := 32

/-- A finite magnitude n / d in a float format: the encoding without its sign; an exponent beyond the format's range gives
the infinity, or the largest magnitude under RTZ (R124). -/
def Fmt.roundMag (f : Fmt) (m : Rnd) (w n d : Nat) : Nat :=
  match f with
  | .int _ => roundSteps m w n d 0
  | .flt ew mw bias _ _ =>
    if n = 0 then 0
    else
      let emin : Int := 1 - (bias : Int)
      let e := max (floorLog2 n d) emin
      let r := roundSteps m w n d (e - mw)
      -- r steps of 2^(e - mw): the exponent field is carried into by the mantissa
      let b := ((e - emin).toNat) * 2 ^ mw + r
      if f.hasInf && decide (f.maxBits < b) then (if m = .rtz then f.maxBits else (2 ^ ew - 1) * 2 ^ mw) else b

/-- A value converted to a format: its encoding and the flags it sets (R124 to R127). DEDUCED, log 28. -/
def Fmt.convert (f : Fmt) (m : Rnd) (w : Nat) (x : Val) : Nat × Nat :=
  match f with
  | .int iw =>
    let hi : Int := 2 ^ (iw - 1) - 1
    let lo : Int := -(2 ^ (iw - 1))
    match x with
    | .nan => (0, flagNanZeroed)
    | .inf neg => (patternOf iw (if neg then lo else hi), flagInfSat)
    | .ovf neg => (patternOf iw (if neg then lo else hi), flagAccOvf + flagInfSat)
    | .fin neg n d =>
      let v := sgn neg (roundSteps m w n d 0)
      if v > hi then (patternOf iw hi, flagOvfSat)
      else if v < lo then (patternOf iw lo, flagOvfSat)
      else (patternOf iw v, 0)
  | .flt ew mw _ ieee nan =>
    let s := fun (neg : Bool) => if neg then 2 ^ (ew + mw) else 0
    match x with
    | .nan => (f.nanBits, if nan then 0 else flagNanZeroed)
    | .inf neg => if ieee then (s neg + (2 ^ ew - 1) * 2 ^ mw, 0) else (s neg + f.maxBits, flagInfSat)
    | .ovf neg =>
      if ieee then (s neg + (2 ^ ew - 1) * 2 ^ mw, flagAccOvf) else (s neg + f.maxBits, flagAccOvf + flagInfSat)
    | .fin neg n d =>
      if !ieee && decide (f.maxMag.1 * d < n * f.maxMag.2) then (s neg + f.maxBits, flagOvfSat)
      else (s neg + f.roundMag m w n d, 0)

/-- A value rounded to FP32 under RNE and read back, with the flags (R188). -/
def toF32 (x : Val) : Val × Nat :=
  let p := Fmt.f32.convert .rne 0 x
  (Fmt.f32.decode p.1, p.2)

/-! ## Block scales (R107, R108, R128) -/

/-- A scale code's exponent; none for 0xFF, NaN. -/
def scaleExp (c : Nat) : Option Int := if c % 256 = 255 then none else some ((c % 256 : Nat) - 127)

/-- A finite value times 2^k; other values as they are. -/
def Val.shift (x : Val) (k : Int) : Val :=
  match x with
  | .fin neg n d => if 0 ≤ k then .fin neg (n * 2 ^ k.toNat) d else .fin neg n (d * 2 ^ (-k).toNat)
  | y => y

/-- The larger of two magnitudes. -/
def maxMagOf (a b : Nat × Nat) : Nat × Nat := if a.1 * b.2 < b.1 * a.2 then b else a

/-- The scale exponent of a block without a NaN (R128). -/
def blockExp (f : Fmt) (xs : List Val) : Int :=
  if !f.hasInf && xs.any Val.isInfOvf then 127
  else
    let amax := ((xs.filter Val.isFin).map Val.mag).foldl maxMagOf (0, 1)
    if amax.1 = 0 then -127
    else
      let mx := f.maxMag
      let n := amax.1 * mx.2
      let d := amax.2 * mx.1
      let e := floorLog2 n d
      let s := if (if 0 ≤ e then decide (n ≤ d * 2 ^ e.toNat) else decide (n * 2 ^ (-e).toNat ≤ d)) then e else e + 1
      min 127 (max (-127) s)

/-- A block converted: its scale code, its encodings and its flags (R128). -/
def blockConvert (f : Fmt) (m : Rnd) (xs : List Val) (ws : List Nat) : Nat × List Nat × Nat :=
  if xs.any Val.isNan then (255, xs.map (fun _ => 0), flagNanZeroed)
  else
    let s := blockExp f xs
    let ps := (xs.zip ws).map (fun p => f.convert m p.2 (p.1.shift (-s)))
    ((s + 127).toNat, ps.map (·.1), ps.foldl (fun a p => a ||| p.2) 0)

/-! ## The accord (R114 to R122) -/

/-- The class of an accord with its value, in units of 2^-300 (R116). -/
inductive Accord where
  | fin (v : Int)
  | inf (neg : Bool)
  | ovf (neg : Bool)
  | nan
  deriving DecidableEq, Repr

/-- 2^326 in units of 2^-300: the bound of the finite range (R116). -/
def accRange : Int := 2 ^ 626

/-- An accord as it is read (R116, R117). -/
def Accord.read (w : AccWord) : Accord :=
  let c := w.toNat / 2 ^ 626
  if c = 0 ∨ c = 0x3FFF then .fin w.toInt
  else if w.toNat % 2 ^ 626 ≠ 0 then .nan
  else match c with
    | 0x1000 => .inf false
    | 0x2000 => .inf true
    | 0x1001 => .ovf false
    | 0x2001 => .ovf true
    | _ => .nan

/-- An accord as it is stored (R116, R118). -/
def Accord.word : Accord → AccWord
  | .fin v => BitVec.ofInt 640 v
  | .inf false => BitVec.ofNat 640 (0x1000 * 2 ^ 626)
  | .inf true => BitVec.ofNat 640 (0x2000 * 2 ^ 626)
  | .ovf false => BitVec.ofNat 640 (0x1001 * 2 ^ 626)
  | .ovf true => BitVec.ofNat 640 (0x2001 * 2 ^ 626)
  | .nan => BitVec.ofNat 640 (0x1800 * 2 ^ 626)

/-- An add into an accord (R119, R120). DEDUCED, log 25. -/
def Accord.add (a b : Accord) : Accord :=
  match a, b with
  | .nan, _ => .nan
  | _, .nan => .nan
  | .fin x, .fin y =>
    if x + y < -accRange then .ovf true else if accRange ≤ x + y then .ovf false else .fin (x + y)
  | .fin _, y => y
  | x, .fin _ => x
  | .inf m, .inf n => if m = n then .inf m else .nan
  | .inf m, .ovf n => if m = n then .inf m else .nan
  | .ovf m, .inf n => if m = n then .inf m else .nan
  | .ovf m, .ovf n => if m = n then .ovf m else .nan

/-- The value an accord gives to what follows (R123, R184). -/
def Accord.val : Accord → Val
  | .fin v => Val.ofInt v (2 ^ 300)
  | .inf neg => .inf neg
  | .ovf neg => .ovf neg
  | .nan => .nan

/-- An element's exact value as an accord operand (R209, R242): its weight is never below 2^-300. -/
def Val.accord : Val → Accord
  | .nan => .nan
  | .inf neg => .inf neg
  | .ovf neg => .ovf neg
  | .fin neg n d => .fin (sgn neg (n * 2 ^ 300 / d))

/-! ## Arithmetic (R204) -/

/-- x + y, with IEEE 754's signs of zero. -/
def Val.add (x y : Val) : Val :=
  match x, y with
  | .fin s n d, .fin t m e =>
    let v := sgn s n * e + sgn t m * d
    if v = 0 then .fin (s && t && n = 0 && m = 0) 0 1 else Val.ofInt v (d * e)
  | .fin _ _ _, b => b
  | a, .fin _ _ _ => a
  | .inf s, .inf t => if s = t then .inf s else .nan
  | _, _ => .nan

/-- −x. -/
def Val.neg : Val → Val
  | .nan => .nan
  | .inf s => .inf (!s)
  | .ovf s => .ovf (!s)
  | .fin s n d => .fin (!s) n d

/-- |x|. -/
def Val.abs : Val → Val
  | .nan => .nan
  | .inf _ => .inf false
  | .ovf _ => .ovf false
  | .fin _ n d => .fin false n d

/-- x × y. -/
def Val.mul (x y : Val) : Val :=
  match x, y with
  | .fin s n d, .fin t m e => .fin (s != t) (n * m) (d * e)
  | .inf s, .fin t m _ => if m = 0 then .nan else .inf (s != t)
  | .fin t m _, .inf s => if m = 0 then .nan else .inf (s != t)
  | .inf s, .inf t => .inf (s != t)
  | _, _ => .nan

/-- Whether x < y, for values that are not NaN; −0 equals +0. -/
def Val.lt (x y : Val) : Bool :=
  match x, y with
  | .fin s n d, .fin t m e => decide (sgn s n * e < sgn t m * d)
  | .inf s, .inf t => s && !t
  | .inf s, .fin _ _ _ => s
  | .fin _ _ _, .inf t => !t
  | _, _ => false

/-- Whether x = y, for values that are not NaN; −0 equals +0. -/
def Val.eqv (x y : Val) : Bool := !x.isNan && !y.isNan && !x.lt y && !y.lt x

/-- Whether a value has a minus sign. -/
def Val.isNeg : Val → Bool
  | .inf s => s
  | .ovf s => s
  | .fin s _ _ => s
  | .nan => false

/-- The maximum: NaN when either is, −0 below +0 (R207, R241). -/
def Val.max (x y : Val) : Val :=
  if x.isNan || y.isNan then .nan
  else if x.lt y then y
  else if y.lt x then x
  else if x.isNeg then y else x

/-- The minimum. -/
def Val.min (x y : Val) : Val :=
  if x.isNan || y.isNan then .nan
  else if x.lt y then x
  else if y.lt x then y
  else if x.isNeg then x else y

end Sys2Proof.Machine
end

