-- ==== Sys2Proof/Machine/UnitMem.lean ====
section
/-! DEFINITION. The scratchpads and the accumulator memories as the engines use them: reads that consume damaged words
(R160, R577, R578), writes (R581), injections (R594), and the random words of a conversion (R129 to R137). -/

namespace Sys2Proof.Machine

/-! ## Scratchpads -/

/-- The size of a scratchpad (R26). -/
def spadSize : Nat := 0x180000

/-- A stored byte of a scratchpad; there is none at or above its size. -/
def State.spadRaw (s : State) (u o : Nat) : Byte := if o < spadSize then Sparse.get 0 s.spad (spadKey u o) else 0

/-- The inverted bits of a scratchpad word. -/
def State.spadErr (s : State) (u w : Nat) : BitVec 72 := Sparse.get 0 s.errs (spadErrKey u (8 * w))

/-- A stored number of `k` bytes. -/
def State.spadRawNat (s : State) (u o : Nat) : Nat → Nat
  | 0 => 0
  | k + 1 => (s.spadRaw u o).toNat + 256 * State.spadRawNat s u (o + 1) k

/-- A byte as it is used (R575). -/
def State.spadByte (s : State) (u o : Nat) : Byte :=
  if s.spadErr u (o / 8) = 0 then s.spadRaw u o
  else BitVec.ofNat 8 (eccData (s.spadRawNat u (o / 8 * 8) 8) (s.spadErr u (o / 8)) / 2 ^ (8 * (o % 8)))

/-- A little-endian number as it is used. -/
def State.spadNat (s : State) (u o : Nat) : Nat → Nat
  | 0 => 0
  | k + 1 => (s.spadByte u o).toNat + 256 * State.spadNat s u (o + 1) k

/-- Bytes as they are used. -/
def State.spadBytes (s : State) (u o : Nat) : Nat → List Byte
  | 0 => []
  | k + 1 => s.spadByte u o :: State.spadBytes s u (o + 1) k

/-- A byte range: offset and length. -/
abbrev Span := Nat × Nat

/-- Whether a word lies in a range, whole or in part. -/
def Span.hits (r : Span) (w : Nat) : Bool := decide (0 < r.2) && decide (8 * w < r.1 + r.2) && decide (r.1 < 8 * w + 8)

/-- The damaged words of a unit's scratchpad that lie in ranges, in the list's order. -/
def State.spadDamaged (s : State) (u : Nat) (rs : List Span) : List (Nat × BitVec 72) :=
  s.errs.filterMap (fun e =>
    if 2 ^ 60 + u * 0x30000 ≤ e.1 ∧ e.1 < 2 ^ 60 + (u + 1) * 0x30000 ∧ rs.any (fun r => r.hits (e.1 - 2 ^ 60 - u * 0x30000)) then
      some (e.1 - 2 ^ 60 - u * 0x30000, e.2)
    else none)

/-- A record about a scratchpad word (R577, R578, R677). -/
def State.spadRecord (s : State) (u w : Nat) (m : BitVec 72) (ue : Bool) (ctx : Nat) (req : Loc) (inj : Bool) : State :=
  s.record { page := .unit, inst := u, sev := if ue then 2 else 1, code := if ue then 0x11 else 0x10, loc := locUnit u 3,
             ctx := some ctx, addr := 8 * w, kind := 6, syn := syndrome m, reqLoc := req.toNat, inj := inj }

/-- Scratchpad ranges are read by a command: an armed read injection strikes the first word (R593); damaged words are
recorded; the result says whether one was uncorrectable. -/
def State.spadConsume (s : State) (u : Nat) (rs : List Span) (ctx : Nat) (req : Loc) : Bool × State :=
  match rs.find? (fun r => decide (0 < r.2)) with
  | none => (false, s)
  | some r0 =>
    let w0 := r0.1 / 8
    let fire := s.injFires .unit u 0 [1] (some ctx)
    let m0 := s.spadErr u w0 ^^^ injMask (s.reg (R.inj .unit u))
    let ds := (s.spadDamaged u rs).filter (fun d => !(fire && d.1 == w0))
    let s := if fire then s.injFired .unit u else s
    let hit := fire && eccClass m0 == .uncorrectable
    let s := if fire && eccClass m0 != .clean then s.spadRecord u w0 m0 (eccClass m0 == .uncorrectable) ctx req true else s
    if hit then (true, s)
    else match ds.find? (fun d => eccClass d.2 == .uncorrectable) with
      | some d => (true, s.spadRecord u d.1 d.2 true ctx req false)
      | none => (false, ds.foldl (fun s d => s.spadRecord u d.1 d.2 false ctx req false) s)

/-- Bytes are put into a scratchpad. -/
def State.spadPutBytes (s : State) (u o : Nat) : List Byte → State
  | [] => s
  | b :: bs => State.spadPutBytes { s with spad := Sparse.set id 0 s.spad (spadKey u o) b } u (o + 1) bs

/-- Scratchpad words stored for a command meet an armed store injection (R593, R594). -/
def State.spadInject (s : State) (u o len ctx : Nat) : State :=
  if 0 < len && s.injFires .unit u 0 [0, 2] (some ctx) then
    let m := injMask (s.reg (R.inj .unit u))
    let ws := (List.range ((o + len - 1) / 8 + 1 - o / 8)).map (o / 8 + ·)
    let ws := if s.fld (R.inj .unit u) F.inj_MODE = 0 then ws.take 1 else ws
    (ws.foldl (fun s w => s.setErr (spadErrKey u (8 * w)) (s.spadErr u w ^^^ m)) s).injFired .unit u
  else s

/-- A write to a scratchpad: a word it covers in part is read and merged (R581), and an uncorrectable one fails the write. -/
def State.spadWrite (s : State) (u o : Nat) (bs : List Byte) (ctx : Nat) (req : Loc) : Bool × State :=
  match (partWords o bs.length).find? (fun w => eccClass (s.spadErr u w) == .uncorrectable) with
  | some w => (true, s.spadRecord u w (s.spadErr u w) true ctx req false)
  | none =>
    let s := (partWords o bs.length).foldl (fun s w =>
      if s.spadErr u w = 0 then s else s.spadPutBytes u (8 * w) (s.spadBytes u (8 * w) 8)) s
    let s := s.spadPutBytes u o bs
    let s := { s with errs := s.errs.filter (fun e =>
      !(decide (spadErrKey u o ≤ e.1) && decide (0 < bs.length) && decide (e.1 ≤ spadErrKey u (o + bs.length - 1)))) }
    (false, s.spadInject u o bs.length ctx)

/-- Writes in order; the first that fails ends them. -/
def State.spadWrites (s : State) (u ctx : Nat) (req : Loc) : List (Nat × List Byte) → Bool × State
  | [] => (false, s)
  | w :: ws =>
    match s.spadWrite u w.1 w.2 ctx req with
    | (true, s) => (true, s)
    | (false, s) => State.spadWrites s u ctx req ws

/-! ## Accumulator memory -/

/-- The inverted bits of a limb. -/
def State.accErr (s : State) (u e limb : Nat) : BitVec 72 := Sparse.get 0 s.errs (accErrKey u e limb)

/-- A stored entry. -/
def State.accRaw (s : State) (u e : Nat) : AccWord := Sparse.get 0 s.acc (accKey u e)

/-- An entry as it is used: each limb as R575 gives it. -/
def State.accWord (s : State) (u e : Nat) : AccWord :=
  let d := (s.accRaw u e).toNat
  if (List.range 10).all (fun i => s.accErr u e i == 0) then s.accRaw u e
  else BitVec.ofNat 640 (((List.range 10).map (fun i => eccData (d / 2 ^ (64 * i) % 2 ^ 64) (s.accErr u e i) * 2 ^ (64 * i))).sum)

/-- The class and value of an entry as it is used. -/
def State.accEntry (s : State) (u e : Nat) : Accord := Accord.read (s.accWord u e)

/-- A record about a limb (R577, R578, R677). -/
def State.accRecord (s : State) (u e limb : Nat) (m : BitVec 72) (ue : Bool) (ctx : Nat) (req : Loc) (inj : Bool) : State :=
  let s := if ue then s else s.satFld (R.accCeCnt u) F.accCeCnt_COUNT 1
  s.record { page := .acc, inst := u, sev := if ue then 2 else 1, code := if ue then 0x11 else 0x10, loc := locUnit u 4,
             ctx := some ctx, addr := e + limb * 2 ^ 16, kind := 5, syn := syndrome m, reqLoc := req.toNat, inj := inj }

/-- Entries of a unit are read by a command, as scratchpad words are (R160). -/
def State.accConsume (s : State) (u : Nat) (es : List Nat) (ctx : Nat) (req : Loc) : Bool × State :=
  match es.head? with
  | none => (false, s)
  | some e0 =>
    let l0 := s.fld (R.inj .acc u) F.inj_DET
    let fire := s.injFires .acc u l0 [1] (some ctx)
    let m0 := s.accErr u e0 l0 ^^^ injMask (s.reg (R.inj .acc u))
    let ds := s.errs.filterMap (fun d =>
      if 2 ^ 61 ≤ d.1 ∧ (d.1 - 2 ^ 61) / 16 / 8192 = u ∧ d.1 < 2 ^ 62 ∧ es.contains ((d.1 - 2 ^ 61) / 16 % 8192)
          ∧ !(fire && d.1 == accErrKey u e0 l0) then
        some ((d.1 - 2 ^ 61) / 16 % 8192, (d.1 - 2 ^ 61) % 16, d.2)
      else none)
    let s := if fire then s.injFired .acc u else s
    let hit := fire && eccClass m0 == .uncorrectable
    let s := if fire && eccClass m0 != .clean then s.accRecord u e0 l0 m0 (eccClass m0 == .uncorrectable) ctx req true else s
    if hit then (true, s)
    else match ds.find? (fun d => eccClass d.2.2 == .uncorrectable) with
      | some d => (true, s.accRecord u d.1 d.2.1 d.2.2 true ctx req false)
      | none => (false, ds.foldl (fun s d => s.accRecord u d.1 d.2.1 d.2.2 false ctx req false) s)

/-- An entry is stored whole: its limbs are new words, which an armed store injection may strike. -/
def State.accPut (s : State) (u e : Nat) (v : Accord) (ctx : Nat) : State :=
  let s := { s with acc := Sparse.set id 0 s.acc (accKey u e) v.word
                    errs := s.errs.filter (fun d => !(decide (accErrKey u e 0 ≤ d.1) && decide (d.1 < accErrKey u e 0 + 16))) }
  let l := s.fld (R.inj .acc u) F.inj_DET
  if s.injFires .acc u l [0, 2] (some ctx) then (s.setErr (accErrKey u e l) (injMask (s.reg (R.inj .acc u)))).injFired .acc u
  else s

/-- Entries are stored in order. -/
def State.accPuts (s : State) (u ctx : Nat) (es : List (Nat × Accord)) : State :=
  es.foldl (fun s e => s.accPut u e.1 e.2 ctx) s

/-! ## Random words (R129 to R137) -/

/-- Rotation left of a 32-bit word. -/
def rotl32 (x k : Nat) : Nat := x * 2 ^ k % 2 ^ 32 + x / 2 ^ (32 - k)

/-- The quarter round of RFC 8439, section 2.1. -/
def quarterRound (v : Vector Nat 16) (a b c d : Fin 16) : Vector Nat 16 :=
  let step := fun (v : Vector Nat 16) (x y z : Fin 16) (k : Nat) =>
    let v := v.set x ((v[x] + v[y]) % 2 ^ 32)
    v.set z (rotl32 (v[z] ^^^ v[x]) k)
  step (step (step (step v a b d 16) c d b 12) a b d 8) c d b 7

/-- Two rounds: a column round and a diagonal round. -/
def chachaDouble (v : Vector Nat 16) : Vector Nat 16 :=
  let v := quarterRound v 0 4 8 12
  let v := quarterRound v 1 5 9 13
  let v := quarterRound v 2 6 10 14
  let v := quarterRound v 3 7 11 15
  let v := quarterRound v 0 5 10 15
  let v := quarterRound v 1 6 11 12
  let v := quarterRound v 2 7 8 13
  quarterRound v 3 4 9 14

/-- The constants of RFC 8439, section 2.3. -/
def chachaConst : List Nat := [0x61707865, 0x3320646e, 0x79622d32, 0x6b206574]

/-- A block of sixteen random words (R129). -/
def chachaBlock (key stream ctr : Nat) : List Nat :=
  let w := fun (i : Nat) =>
    if i < 4 then chachaConst.getD i 0
    else if i < 12 then key / 2 ^ (32 * (i - 4)) % 2 ^ 32
    else if i < 14 then ctr / 2 ^ (32 * (i - 12)) % 2 ^ 32
    else stream / 2 ^ (32 * (i - 14)) % 2 ^ 32
  let v0 : Vector Nat 16 := Vector.ofFn (fun i => w i.val)
  let v := chachaDouble (chachaDouble (chachaDouble (chachaDouble (chachaDouble (chachaDouble (chachaDouble (chachaDouble
    (chachaDouble (chachaDouble v0)))))))))
  (List.range 16).map (fun i => ((v.toList.getD i 0) + w i) % 2 ^ 32)

/-- The random word of a position (R130). -/
def Draw.word (d : Draw) (j : Nat) : Nat := (chachaBlock d.key d.stream (d.ctr + j / 16)).getD (j % 16) 0

/-- The key a slot holds. -/
def State.slotKey (s : State) (n : Nat) : Nat :=
  ((List.range 4).map (fun k => (s.reg (R.secRkeyK (n * 4 + k))).toNat * 2 ^ (64 * k))).sum

/-- The beginning of drawing for `n` positions (R132, R136, R137): the latched draw, or the status the command fails with.
A command that draws for no position draws nothing. DEDUCED, log 28. -/
def State.beginDraw (s : State) (m : Rnd) (slot stream ctr n ctx : Nat) : Except Status Draw :=
  if m ≠ .sr ∨ n = 0 then .ok ⟨0, 0, 0⟩
  else if 2 ^ 64 ≤ ctr + (n + 15) / 16 - 1 then .error .rngExhausted
  else
    let r := s.reg (R.secRkeyCfg slot)
    if F.secRkeyCfg_VALID.get r = 1 ∧ F.secRkeyCfg_CTX.get r = ctx then .ok ⟨s.slotKey slot, stream, ctr⟩
    else .error .rngKeyInvalid

/-- The word of a position: none is needed but under SR. -/
def Draw.at' (d : Draw) (m : Rnd) (j : Nat) : Nat := if m = .sr then d.word j else 0

end Sys2Proof.Machine
end

