-- ==== Sys2Proof/Machine/Tokens.lean ====
section
/-! DEFINITION. What the engines of a unit share: packed elements (R111, R170), body layouts, slots and their ownership
tokens (R156, R157, R161 to R165), and the step from a validated command to a running one. -/

namespace Sys2Proof.Machine

/-! ## Elements in the scratchpad (R111, R170) -/

/-- The bytes that hold `k` packed elements of a width in bits: 6-bit elements fill whole blocks of 24 bytes. -/
def spanBits (w k : Nat) : Nat := if w = 4 then (k + 1) / 2 else if w = 6 then 24 * ((k + 31) / 32) else k * (w / 8)

/-- The row span of `k` elements of a format code (R170, R230). -/
def rowSpan (code k : Nat) : Nat := match Fmt.ofCode code with
  | some f => spanBits f.bits k
  | none => 0

/-- The encoding of element `i` of a packed row at a byte offset. -/
def State.elem (s : State) (u w base i : Nat) : Nat :=
  if w = 4 then natBits (s.spadByte u (base + i / 2)).toNat (4 * (i % 2) + 3) (4 * (i % 2))
  else if w = 6 then
    let b := 6 * (i % 32)
    (s.spadNat u (base + 24 * (i / 32) + b / 8) 2) / 2 ^ (b % 8) % 64
  else s.spadNat u (base + i * (w / 8)) (w / 8)

/-- The bits of an entry's body that a layout names, from (byte, high bit, low bit) of its fields. -/
def bodyMask (fs : List (Nat × Nat × Nat)) : Nat := (fs.map (fun f => (2 ^ (f.2.1 + 1 - f.2.2) - 1) * 2 ^ (8 * (f.1 - 16) + f.2.2))).sum

/-- Whether a body has a reserved bit at 1. -/
def bodyBad (e : BitVec 512) (fs : List (Nat × Nat × Nat)) : Bool := !entReserved e 16 48 (bodyMask fs)

/-! ## Slots (R156, R157) -/

/-- The entry of tile row `m` and column `n` of a tile of `rows` rows at a base slot. -/
def accEntryOf (base rows m n : Nat) : Nat := (base + n / 32 * ((rows + 31) / 32) + m / 32) * 1024 + m % 32 * 32 + n % 32

/-- The slots a tile covers, as a mask. -/
def tileMask (base rows cols : Nat) : Nat := (2 ^ ((rows + 31) / 32 * ((cols + 31) / 32)) - 1) * 2 ^ base

/-- The slots a mask names. -/
def slotsOf (mask : Nat) : List Nat := (List.range 8).filter (natBit mask)

/-! ## Tokens (R161 to R165, R181) -/

/-- The slots a command's stage owns. -/
def Stage.owned : Stage → Nat
  | .working m | .running m => m
  | _ => 0

/-- The slots a command's stage waits for. -/
def Stage.wanted : Stage → Nat
  | .tokens m _ => m
  | _ => 0

/-- Whether a command waits for tokens. -/
def Stage.waits : Stage → Bool
  | .tokens _ _ => true
  | _ => false

/-- Whether a command's engine still works on it or has yet to take it up. -/
def Stage.live : Stage → Bool
  | .issued | .tokens _ _ | .working _ | .running _ => true
  | _ => false

/-- The last cycle of a unit that has passed. -/
def State.unitCyc (s : State) (u : Nat) : Nat := (s.unitEng u).cyc

/-- ACC.OWN, ARR.STS and VEC.STS.DRAIN_BUSY show what stands in the unit's present cycle (R179, R181, R224): lane sums are in
flight from 32 cycles after their row entered until their last entry is written, 69 cycles after it. -/
def State.syncOwn (s : State) (u : Nat) : State :=
  let fs := s.unitFlights u
  let e := s.unitEng u
  let own := fs.foldl (fun a f => a ||| f.stage.owned) 0
  let want := fs.foldl (fun a f => a ||| f.stage.wanted) 0
  let s := (s.setFld (R.accOwn u) F.accOwn_OWNED own).setFld (R.accOwn u) F.accOwn_WANTED want
  let s := s.setFld (R.arrSts u) F.arrSts_FEEDING (bitNat (e.entered.contains e.cyc))
  let s := s.setFld (R.arrSts u) F.arrSts_FLUSHING (bitNat (e.entered.any (fun x => decide (x + 32 ≤ e.cyc) && decide (e.cyc ≤ x + 69))))
  let s := s.setFld (R.arrSts u) F.arrSts_MMA_WAIT (bitNat (fs.any (fun f => f.eng = .array && f.stage.waits)))
  s.setFld (R.vecSts u) F.vecSts_DRAIN_BUSY (bitNat (fs.any (fun f => f.eng = .drain && f.stage.owned != 0)))

/-- Whether one command of a unit was issued before another: in an earlier cycle, or in the same one in a queue of lower
number (R162). -/
def Flight.precedes (g f : Flight) : Bool := decide (g.issuedAt < f.issuedAt) || (g.issuedAt == f.issuedAt && decide (g.q < f.q))

/-- The commands issued before one in its unit. -/
def State.before (s : State) (f : Flight) : List Flight := (s.unitFlights f.u).filter (fun g => g.precedes f)

/-- Whether tokens keep a command from its slots: one of them is held, or an earlier command waits for one (R161, R162). -/
def State.tokensHeld (s : State) (f : Flight) (mask : Nat) : Bool :=
  (s.unitFlights f.u).any (fun g => Nat.land g.stage.owned mask != 0)
    || (s.before f).any (fun g => Nat.land g.stage.wanted mask != 0)

/-- Whether a validated command may take the tokens of a mask in the unit's next cycle (R161, R162, R164, R175, R192).
DEDUCED, log 34. -/
def State.mayClaim (s : State) (f : Flight) (mask : Nat) : Bool :=
  let ahead := s.before f
  !s.tokensHeld f mask
    && match f.eng with
      | .array => ahead.all (fun g => !(g.eng == .array && (g.stage.waits || g.stage == .issued)))
      | .accEng => ahead.all (fun g => !(g.eng == .accEng && g.stage.live))
      | .drain => ahead.all (fun g => !(g.eng == .drain && (g.stage.waits || g.stage == .issued))) && (s.unitEng f.u).drain.isNone
      | _ => true

/-- A cycle in which a command waits for tokens is counted, and the longest single wait so far (R180, R181).
DEDUCED, log 26. -/
def State.countWait (s : State) (u waited : Nat) : State :=
  let s := s.addFld (R.accHazWaitCyc u) F.accHazWaitCyc_COUNT 1
  let m := min waited 0xFFFFFFFF
  if s.fld (R.accHazWaitMax u) F.accHazWaitMax_CYCLES < m then s.setFld (R.accHazWaitMax u) F.accHazWaitMax_CYCLES m else s

/-- What becomes of a command that has taken its tokens: its engine works on it, and its end follows; it runs, with the
cycles in which it releases its tokens and completes and its detail; or a word it consumed was uncorrectable. -/
inductive RunEnd where
  | works
  | runs (relAt doneAt detail : Nat)
  | fails (st : Status)
  deriving DecidableEq, Repr

/-- The location code of an engine. DEDUCED, log 27. -/
def engineLoc (u : Nat) : Engine → Loc
  | .array => locUnit u 1
  | .vec => locUnit u 2
  | .drain => locUnit u 6
  | .accEng => locUnit u 7
  | .dma => locCluster (u / 8) 8
  | .seq => locUnit u 0

/-- A command takes its tokens in the unit's next cycle and begins. DEDUCED, log 24. -/
def State.claim (s : State) (f : Flight) (mask : Nat) (run : Flight → Nat → State → RunEnd × State) : State :=
  let c := s.unitCyc f.u + 1
  let f := { f with claimAt := c }
  let become := fun (s : State) (g : Flight → Flight) => (s.setFlight f.u f.q f.seq (fun h => g { h with claimAt := c })).syncOwn f.u
  match run f c s with
  | (.works, s) => become s (fun h => { h with stage := .working mask })
  | (.runs rel done det, s) => become s (fun h => { h with stage := .running mask, relAt := rel, doneAt := done, detail := det })
  | (.fails st, s) => (s.failCmd f st (engineLoc f.u f.eng)).syncOwn f.u

/-- A command validated in the unit's present cycle claims its slots in the next where it can, and waits otherwise.
DEDUCED, log 34. -/
def State.claimOrWait (s : State) (f : Flight) (mask : Nat) (run : Flight → Nat → State → RunEnd × State) : State :=
  let t := s.unitCyc f.u
  let s := s.setFlight f.u f.q f.seq (fun g => { g with validAt := t })
  let f := { f with validAt := t }
  if s.mayClaim f mask then s.claim f mask run
  else (s.setFlight f.u f.q f.seq (fun g => { g with stage := .tokens mask 0 })).syncOwn f.u

/-- The issued command of a queue for an engine with an opcode that its engine takes up next: no earlier command of the
unit for that engine waits to be taken up. -/
def State.engineCmd (s : State) (u q : Nat) (eng : Engine) (op : Nat) : Option Flight :=
  match s.flight u q (fun f => f.stage == .issued && !f.begun && f.eng == eng) with
  | some f =>
    if Ent.opcode f.entry = op ∧ (s.before f).all (fun g => !(g.eng == eng && g.stage == .issued && !g.begun)) then some f
    else none
  | none => none

/-- A running command of an engine, in a queue, whose completion cycle has come. -/
def State.ended (s : State) (u q : Nat) (eng : Engine) : Option Flight :=
  s.flight u q (fun f => f.eng == eng && decide (f.doneAt ≤ s.unitCyc u) && (match f.stage with | .running _ => true | _ => false))

/-- A command whose engine is done releases its tokens and completes. -/
def State.engineDone (s : State) (f : Flight) : State := (s.complete f 0 f.detail (engineLoc f.u f.eng)).syncOwn f.u

/-- The command in flight of a unit that a queue and a sequence number name. -/
def State.flightOf (s : State) (u q seq : Nat) : Option Flight := s.flight u q (fun f => f.seq == seq)

/-- A command that one of its engine's cycles finds unfit fails there. -/
def State.failAt (s : State) (u q seq : Nat) (st : Status) : State :=
  match s.flightOf u q seq with
  | some f => s.failCmd f st (engineLoc u f.eng)
  | none => s

/-! ## Bits in the scratchpad (R111) -/

/-- A packed number of bits at a byte offset, as bytes: a last byte that it fills in part keeps its other bits. -/
def State.mergeBits (s : State) (u ofs val bits : Nat) : List Byte :=
  let k := (bits + 7) / 8
  let keep := if bits % 8 = 0 then 0 else (s.spadByte u (ofs + bits / 8)).toNat / 2 ^ (bits % 8) * 2 ^ bits
  natToBytes k (val % 2 ^ bits + keep)

/-- Encodings of `w` bits, packed. -/
def packBits (w : Nat) (xs : List Nat) : Nat := (xs.zipIdx.map (fun p => p.1 % 2 ^ w * 2 ^ (w * p.2))).sum

/-- A row of encodings packed from a byte boundary (R111). -/
def packRow (w : Nat) (xs : List Nat) : List Byte := natToBytes ((w * xs.length + 7) / 8) (packBits w xs)

end Sys2Proof.Machine
end

