-- ==== Sys2Proof/Machine/Array.lean ====
section
/-! DEFINITION. The matrix array: MMA (R139 to R155, R169 to R173) and CONV (R225 to R240), their exact sums, and
the array cycle by cycle with its counters (R178). -/

namespace Sys2Proof.Machine

/-! ## Products and column sums (R112, R113) -/

/-- An element as the array takes it: NaN, an infinity, or a whole number of the format's least weight (R105). -/
inductive Elem where
  | nan
  | inf (neg : Bool)
  | units (v : Int)
  deriving DecidableEq, Repr

/-- The element an encoding stands for. -/
def Fmt.elem (f : Fmt) (b : Nat) : Elem :=
  match f with
  | .int w => .units (signedOf w b)
  | .flt ew mw _ ieee nan =>
    let neg := natBit b (ew + mw)
    let e := natBits b (ew + mw - 1) mw
    let m := b % 2 ^ mw
    if ieee && e = 2 ^ ew - 1 then (if m = 0 then .inf neg else .nan)
    else if nan && !ieee && e = 2 ^ ew - 1 && m = 2 ^ mw - 1 then .nan
    else .units (sgn neg (if e = 0 then m else (2 ^ mw + m) * 2 ^ (e - 1)))

/-- The running total of one lane's products: a NaN, infinities of either sign, the exact finite sum. -/
structure Lane where
  nan : Bool
  pos : Bool
  neg : Bool
  sum : Int
  deriving DecidableEq, Repr

/-- A product joins a lane's sum (R112). -/
def Lane.mac (l : Lane) (a b : Elem) : Lane :=
  let inf := fun (s : Bool) => if s then { l with neg := true } else { l with pos := true }
  match a, b with
  | .nan, _ => { l with nan := true }
  | _, .nan => { l with nan := true }
  | .units x, .units y => { l with sum := l.sum + x * y }
  | .inf s, .units y => if y = 0 then { l with nan := true } else inf (s != decide (y < 0))
  | .units x, .inf s => if x = 0 then { l with nan := true } else inf (s != decide (x < 0))
  | .inf s, .inf t => inf (s != t)

/-- The column sum of a lane: weight exponent `L`, scale codes `ea` and `eb` (R113). The masked products are not among the
pairs (R154); a scale of 0xFF makes every product NaN (R112). -/
def laneSum (L : Int) (ea eb : Nat) (ps : List (Elem × Elem)) : Accord :=
  let l := ps.foldl (fun (l : Lane) p => l.mac p.1 p.2) (Lane.mk false false false 0)
  if (!ps.isEmpty && (ea = 255 || eb = 255)) || l.nan || (l.pos && l.neg) then .nan
  else if l.pos then .inf false
  else if l.neg then .inf true
  else .fin (l.sum * 2 ^ (L + ea + eb + 46).toNat)

/-! ## Pairings (R110, R140) -/

/-- Lanes and row spacing of a pairing of format codes; none where R110 does not list it. -/
def pairing (a b : Nat) : Option (Nat × Nat) :=
  let fp68 := fun c => decide (1 ≤ c) && decide (c ≤ 4)
  if a = 0 ∧ b = 0 then some (16, 1)
  else if fp68 a && fp68 b then some (4, 1)
  else if a = 5 ∧ b = 5 then some (4, 1)
  else if a = 6 ∧ b = 6 then some (1, 1)
  else if a = 7 ∧ b = 7 then some (1, 1)
  else if a = 8 ∧ b = 8 then some (1, 2)
  else none

/-- Whether a scaled flag contradicts a format (check 4 of R172): FP4 and FP6 always, integers, BF16 and FP16 never. -/
def badScaled (c : Nat) (scaled : Bool) : Bool := (decide (c ≤ 2) && !scaled) || (decide (5 ≤ c) && scaled)

/-- The weight exponent of a pairing's products. -/
def pairLsb (a b : Nat) : Int := ((Fmt.ofCode a).getD .f32).lsb + ((Fmt.ofCode b).getD .f32).lsb

/-! ## MMA (R169 to R173) -/

/-- The fields of an MMA body. -/
structure Mma where
  aOfs : Nat
  aStride : Nat
  aSc : Nat
  bOfs : Nat
  bStride : Nat
  bSc : Nat
  m : Nat
  n : Nat
  k : Nat
  aFmt : Nat
  bFmt : Nat
  aScaled : Bool
  bScaled : Bool
  set : Bool
  rowMask : Bool
  elemMask : Bool
  base : Nat
  maskOfs : Nat
  emaskOfs : Nat
  deriving DecidableEq, Repr

/-- The MMA layout's fields (R169). -/
def mmaFields : List (Nat × Nat × Nat) :=
  [(16, 20, 0), (20, 20, 0), (24, 20, 0), (28, 20, 0), (32, 20, 0), (36, 20, 0), (40, 31, 0), (44, 31, 0), (48, 31, 0),
   (52, 15, 0), (56, 20, 0), (60, 20, 0)]

/-- The MMA of an entry. -/
def Mma.of (e : BitVec 512) : Mma :=
  { aOfs := entBits e 16 20 0, aStride := entBits e 20 20 0, aSc := entBits e 24 20 0, bOfs := entBits e 28 20 0,
    bStride := entBits e 32 20 0, bSc := entBits e 36 20 0, m := entBits e 40 31 0, n := entBits e 44 31 0,
    k := entBits e 48 31 0, aFmt := entBits e 52 3 0, bFmt := entBits e 52 7 4, aScaled := entBit e 52 8,
    bScaled := entBit e 52 9, set := entBit e 52 10, rowMask := entBit e 52 11, elemMask := entBit e 52 12,
    base := entBits e 52 15 13, maskOfs := entBits e 56 20 0, emaskOfs := entBits e 60 20 0 }

/-- The ranges an MMA reads with the rows of a list fed (R172 check 8, with every row). -/
def Mma.spans (d : Mma) (rows : List Nat) : List Span :=
  let kb := (d.k + 31) / 32
  rows.map (fun m => (d.aOfs + m * d.aStride, rowSpan d.aFmt d.k))
    ++ (List.range d.n).map (fun n => (d.bOfs + n * d.bStride, rowSpan d.bFmt d.k))
    ++ (if d.aScaled then rows.map (fun m => (d.aSc + m * kb, kb)) else [])
    ++ (if d.bScaled then (List.range d.n).map (fun n => (d.bSc + n * kb, kb)) else [])
    ++ (if d.rowMask then [(d.maskOfs, 32)] else [])
    ++ (if d.elemMask then rows.map (fun m => (d.emaskOfs + m * ((d.k + 7) / 8), (d.k + 7) / 8)) else [])

/-- Whether every range lies in the scratchpad. -/
def spansFit (rs : List Span) : Bool := rs.all (fun r => r.2 == 0 || decide (r.1 + r.2 ≤ spadSize))

/-- Checks 1 to 4 of R172. -/
def Mma.checkForm (d : Mma) (e : BitVec 512) : Option Status :=
  if bodyBad e mmaFields then some .reservedField
  else if 8 < d.aFmt ∨ 8 < d.bFmt then some .formatCode
  else if (pairing d.aFmt d.bFmt).isNone then some .formatPair
  else if badScaled d.aFmt d.aScaled || badScaled d.bFmt d.bScaled then some .formatScale
  else none

/-- Checks 5 to 8 of R172. -/
def Mma.checkShape (d : Mma) : Option Status :=
  if 256 < d.m ∨ 256 < d.n ∨ 1048576 < d.k then some .shape
  else if 8 < d.base + (d.m + 31) / 32 * ((d.n + 31) / 32) then some .accRange
  else if d.aStride < rowSpan d.aFmt d.k ∨ d.bStride < rowSpan d.bFmt d.k then some .stride
  else if !spansFit (d.spans (List.range d.m)) then some .spadRange
  else none

/-- The rows an MMA feeds (R153). -/
def Mma.rows (d : Mma) (s : State) (u : Nat) : List Nat :=
  (List.range d.m).filter (fun m => !d.rowMask || natBit (s.spadByte u (d.maskOfs + m / 8)).toNat (m % 8))

/-! ## Geometry of windows (R226, R227), shared with POOL -/

/-- An input position against a tile. -/
inductive WinPos where
  | inside | padding | out
  deriving DecidableEq, Repr

/-- The class of an input position (R227). -/
def placeOf (edge th tw : Nat) (iy ix : Int) : WinPos :=
  let top := decide (iy < 0)
  let bot := decide ((th : Int) ≤ iy)
  let left := decide (ix < 0)
  let right := decide ((tw : Int) ≤ ix)
  if !(top || bot || left || right) then .inside
  else if (top && !natBit edge 0) || (bot && !natBit edge 1) || (left && !natBit edge 2) || (right && !natBit edge 3) then .out
  else .padding

/-- Bytes of 32 packed elements of a format code: B32 of R230. -/
def b32 (code : Nat) : Nat := rowSpan code 32

/-- A held tile: its layout and strides. -/
structure Tile where
  layout : Nat
  ofs : Nat
  row : Nat
  plane : Nat
  code : Nat
  c : Nat
  deriving DecidableEq, Repr

/-- The packed row that holds element (y, x, c) of a tile, and its index there (R230). -/
def Tile.at (t : Tile) (y x c : Nat) : Nat × Nat :=
  match t.layout with
  | 0 => (t.ofs + c / 32 * t.plane + y * t.row + x * b32 t.code, c % 32)
  | 1 => (t.ofs + y * t.row + x * rowSpan t.code t.c, c)
  | _ => (t.ofs + c * t.plane + y * t.row + x * rowSpan t.code 1, 0)

/-- The ranges that hold the elements of one pixel from channel `k0` to before `k1`, where `k0` begins a block. -/
def Tile.part (t : Tile) (y x k0 k1 : Nat) : List Span :=
  match t.layout with
  | 0 => (List.range ((k1 - k0 + 31) / 32)).map (fun b => ((t.at y x (k0 + 32 * b)).1, rowSpan t.code (min 32 (k1 - k0 - 32 * b))))
  | 1 => [((t.at y x 0).1 + rowSpan t.code k0, rowSpan t.code (k1 - k0))]
  | _ => (List.range (k1 - k0)).map (fun c => ((t.at y x (k0 + c)).1, rowSpan t.code 1))

/-- The ranges that hold the elements of one pixel. -/
def Tile.pixel (t : Tile) (y x : Nat) : List Span := t.part y x 0 t.c

/-! ## CONV (R225 to R240) -/

/-- The fields of a CONV body. -/
structure Conv where
  tile : Tile
  inSc : Nat
  pad : Nat
  set : Bool
  base : Nat
  bFmt : Nat
  aScaled : Bool
  bScaled : Bool
  edge : Nat
  r : Nat
  s : Nat
  wOfs : Nat
  wSc : Nat
  sh : Nat
  sw : Nat
  n : Nat
  th : Nat
  tw : Nat
  dh : Nat
  dw : Nat
  by' : Int
  bx : Int
  oth : Nat
  otw : Nat
  padVal : Nat
  deriving DecidableEq, Repr

/-- The CONV layout's fields (R238). -/
def convFields : List (Nat × Nat × Nat) :=
  [(16, 28, 0), (20, 30, 0), (24, 24, 0), (28, 30, 0), (32, 26, 0), (36, 20, 0), (40, 24, 0), (44, 31, 0), (48, 31, 0),
   (52, 25, 0), (56, 15, 0)]

/-- The CONV of an entry. -/
def Conv.of (e : BitVec 512) : Conv :=
  { tile := { layout := entBits e 16 22 21, ofs := entBits e 16 20 0, row := entBits e 24 20 0,
              plane := entBits e 28 20 0, code := entBits e 20 24 21, c := entBits e 40 15 0 },
    inSc := entBits e 20 20 0, pad := entBits e 16 24 23, set := entBit e 16 25, base := entBits e 16 28 26,
    bFmt := entBits e 20 28 25, aScaled := entBit e 20 29, bScaled := entBit e 20 30, edge := entBits e 24 24 21,
    r := entBits e 28 25 21, s := entBits e 28 30 26, wOfs := entBits e 32 20 0, wSc := entBits e 36 20 0,
    sh := entBits e 32 23 21 + 1, sw := entBits e 32 26 24 + 1, n := entBits e 40 24 16, th := entBits e 44 11 0,
    tw := entBits e 44 23 12, dh := entBits e 44 31 24, dw := entBits e 52 25 18,
    by' := signedOf 16 (entBits e 48 15 0), bx := signedOf 16 (entBits e 48 31 16), oth := entBits e 52 8 0,
    otw := entBits e 52 17 9, padVal := entBits e 56 15 0 }

/-- Tile rows: M of R226. -/
def Conv.m (d : Conv) : Nat := d.oth * d.otw

/-- The input position that tap `t` reads for tile row `m` (R226). -/
def Conv.pos (d : Conv) (t m : Nat) : Int × Int :=
  (d.by' + (m / d.otw * d.sh + t / d.s * d.dh : Nat), d.bx + (m % d.otw * d.sw + t % d.s * d.dw : Nat))

/-- The class of the position that a tap reads for a tile row. -/
def Conv.place (d : Conv) (t m : Nat) : WinPos := placeOf d.edge d.th d.tw (d.pos t m).1 (d.pos t m).2

/-- The executed taps in ascending order (R235). -/
def Conv.taps (d : Conv) : List Nat :=
  (List.range (d.r * d.s)).filter (fun t => d.pad != 0 || (List.range d.m).any (fun m => d.place t m != .padding))

/-- The pixel a tap reads from the tile for a tile row: an inside position, or the clamped one under replicate padding. -/
def Conv.source (d : Conv) (t m : Nat) : Option (Nat × Nat) :=
  let p := d.pos t m
  match d.place t m with
  | .inside => some (p.1.toNat, p.2.toNat)
  | _ => if d.pad = 2 then some (min p.1.toNat (d.th - 1), min p.2.toNat (d.tw - 1)) else none

/-- The packed weight row of a tap and a column, and its scales (R229). -/
def Conv.wRow (d : Conv) (t n : Nat) : Nat := d.wOfs + (t * d.n + n) * rowSpan d.bFmt d.tile.c
/-- The scales of a weight row. -/
def Conv.wScales (d : Conv) (t n : Nat) : Nat := d.wSc + (t * d.n + n) * ((d.tile.c + 31) / 32)
/-- The scale byte of a channel block at a pixel (R230). -/
def Conv.aScale (d : Conv) (y x b : Nat) : Nat := d.inSc + (b * d.th + y) * d.tw + x

/-- The ranges a CONV's executed taps read. -/
def Conv.spans (d : Conv) : List Span :=
  let kb := (d.tile.c + 31) / 32
  let px := (d.taps.flatMap (fun t => (List.range d.m).filterMap (fun m => d.source t m))).dedup
  px.flatMap (fun p => d.tile.pixel p.1 p.2
      ++ (if d.aScaled then (List.range kb).map (fun b => (d.aScale p.1 p.2 b, 1)) else []))
    ++ d.taps.flatMap (fun t => (List.range d.n).flatMap (fun n =>
      (d.wRow t n, rowSpan d.bFmt d.tile.c) :: (if d.bScaled then [(d.wScales t n, kb)] else [])))

/-- Whether an activation format and its scaling are allowed for a layout (R230). -/
def layoutAllows (layout code : Nat) (scaled : Bool) : Bool :=
  match layout with
  | 0 => true
  | 1 => !scaled && decide (3 ≤ code) && decide (code ≤ 8)
  | _ => !scaled && (code == 3 || code == 4 || code == 6 || code == 7 || code == 8)

/-- Checks 1 to 8 of R239. -/
def Conv.checkForm (d : Conv) (e : BitVec 512) : Option Status :=
  let aw := match Fmt.ofCode d.tile.code with
    | some f => f.bits
    | none => 16
  if bodyBad e convFields || decide (2 ^ aw ≤ d.padVal) then some .reservedField
  else if d.tile.layout = 3 ∨ d.pad = 3 then some .fieldCode
  else if 8 < d.tile.code ∨ 8 < d.bFmt then some .formatCode
  else if (pairing d.tile.code d.bFmt).isNone then some .formatPair
  else if badScaled d.tile.code d.aScaled || badScaled d.bFmt d.bScaled then some .formatScale
  else if !layoutAllows d.tile.layout d.tile.code d.aScaled then some .layoutFormat
  else if d.r = 0 ∨ 15 < d.r ∨ d.s = 0 ∨ 15 < d.s then some .filterSize
  else if d.dh = 0 ∨ d.dw = 0 then some .fieldValue
  else none

/-- Whether a tile's strides fall short (check 12 of R239). -/
def Tile.shortStride (t : Tile) (th tw : Nat) : Bool :=
  let w := match t.layout with
    | 0 => b32 t.code
    | 1 => rowSpan t.code t.c
    | _ => rowSpan t.code 1
  decide (t.row < tw * w) || (t.layout != 1 && decide (t.plane < th * t.row))

/-- Checks 9 to 13 of R239. -/
def Conv.checkShape (d : Conv) : Option Status :=
  if 256 < d.m ∨ 256 < d.n ∨ d.th = 0 ∨ d.tw = 0 then some .shape
  else if 8 < d.base + (d.m + 31) / 32 * ((d.n + 31) / 32) then some .accRange
  else if d.taps.any (fun t => (List.range d.m).any (fun m => d.place t m == .out)) then some .window
  else if d.tile.shortStride d.th d.tw then some .stride
  else if !spansFit d.spans then some .spadRange
  else none

/-! ## What either command asks of the array -/

/-- An MMA or a CONV. -/
inductive ArrCmd where
  | mma (d : Mma)
  | conv (d : Conv)
  deriving DecidableEq, Repr

/-- The array command of an entry. -/
def ArrCmd.of (e : BitVec 512) : ArrCmd := if Ent.opcode e = 0x24 then .conv (Conv.of e) else .mma (Mma.of e)

/-- Activation and weight format codes. -/
def ArrCmd.codes : ArrCmd → Nat × Nat
  | .mma d => (d.aFmt, d.bFmt)
  | .conv d => (d.tile.code, d.bFmt)

/-- Lanes of a cell (R140). -/
def ArrCmd.lanes (a : ArrCmd) : Nat := ((pairing a.codes.1 a.codes.2).getD (1, 1)).1

/-- The row spacing in cycles (R140). -/
def ArrCmd.spacing (a : ArrCmd) : Nat := ((pairing a.codes.1 a.codes.2).getD (1, 1)).2

/-- Cycles from a pass's start to its fed row `i`, unthrottled (R141, R231). -/
def ArrCmd.ofs : ArrCmd → Nat → Nat
  | .mma d, i => (ArrCmd.mma d).spacing * i
  | .conv d, i => (if d.tile.layout = 0 then 1 else 4) * (ArrCmd.conv d).spacing * i / (if d.tile.layout = 1 then 3 else 1)

/-- Tile rows, tile columns and elements summed. -/
def ArrCmd.shape : ArrCmd → Nat × Nat × Nat
  | .mma d => (d.m, d.n, d.k)
  | .conv d => (d.m, d.n, d.tile.c)

/-- The taps: one for an MMA, the executed ones of a CONV. -/
def ArrCmd.taps : ArrCmd → List Nat
  | .mma _ => [0]
  | .conv d => d.taps

/-- ACC_MODE and ACC_BASE. -/
def ArrCmd.acc : ArrCmd → Bool × Nat
  | .mma d => (d.set, d.base)
  | .conv d => (d.set, d.base)

/-- K chunks (R139). -/
def ArrCmd.chunks (a : ArrCmd) : Nat := (a.shape.2.2 + 32 * a.lanes - 1) / (32 * a.lanes)

/-- Passes of one column tile, and of the command (R148, R228). -/
def ArrCmd.perTile (a : ArrCmd) : Nat := a.taps.length * a.chunks
def ArrCmd.passes (a : ArrCmd) : Nat := (a.shape.2.1 + 31) / 32 * a.perTile

/-- A pass: its columns, its tap, its elements from one to before another, and whether it is its column tile's first. -/
structure Pass where
  cols : List Nat
  tap : Nat
  k0 : Nat
  k1 : Nat
  first : Bool
  deriving DecidableEq, Repr

/-- Pass `p` of a command: column tile by column tile, tap by tap, chunk by chunk (R139, R148, R228). -/
def ArrCmd.pass (a : ArrCmd) (p : Nat) : Pass :=
  let q := p % a.perTile
  let k0 := q % a.chunks * (32 * a.lanes)
  { cols := ((List.range 32).map (p / a.perTile * 32 + ·)).filter (· < a.shape.2.1)
    tap := a.taps.getD (q / a.chunks) 0, k0 := k0, k1 := min (k0 + 32 * a.lanes) a.shape.2.2, first := q == 0 }

/-- The lanes of a pass that hold elements: their blocks begin at these. -/
def Pass.blocks (p : Pass) : List Nat := (List.range ((p.k1 - p.k0 + 31) / 32)).map (fun j => p.k0 + 32 * j)

/-- The elements of a block of a pass. -/
def Pass.elems (p : Pass) (b : Nat) : List Nat := ((List.range 32).map (b + ·)).filter (· < p.k1)

/-- The packed row of a column's weights at a tap, and its scales where it has any (R170, R229). -/
def ArrCmd.weights : ArrCmd → Nat → Nat → Nat × Option Nat
  | .mma d, _, n => (d.bOfs + n * d.bStride, if d.bScaled then some (d.bSc + n * ((d.k + 31) / 32)) else none)
  | .conv d, t, n => (d.wRow t n, if d.bScaled then some (d.wScales t n) else none)

/-- The ranges a weight load reads. -/
def ArrCmd.tileSpans (a : ArrCmd) (p : Pass) : List Span :=
  p.cols.flatMap (fun n =>
    let w := a.weights p.tap n
    (w.1 + rowSpan a.codes.2 p.k0, rowSpan a.codes.2 (p.k1 - p.k0)) :: (match w.2 with
      | some sc => [(sc + p.k0 / 32, (p.k1 - p.k0 + 31) / 32)]
      | none => []))

/-- The encoding of an element in the scratchpad, of a format code. -/
def State.codeAt (s : State) (u code base i : Nat) : Nat :=
  match Fmt.ofCode code with
  | some f => s.elem u f.bits base i
  | none => 0

/-- The tile a weight load reads (R139, R151, R152); an operand without scales enters with 0x7F (R109). -/
def ArrCmd.tile (a : ArrCmd) (s : State) (u : Nat) (p : Pass) : WTile :=
  { elems := p.cols.map (fun n => (List.range (p.k1 - p.k0)).map (fun k => s.codeAt u a.codes.2 (a.weights p.tap n).1 (p.k0 + k)))
    scales := p.cols.map (fun n => p.blocks.map (fun b => match (a.weights p.tap n).2 with
      | some sc => (s.spadByte u (sc + b / 32)).toNat
      | none => 0x7F)) }

/-- The ranges a fed row reads in a pass. -/
def ArrCmd.rowSpans (a : ArrCmd) (p : Pass) (m : Nat) : List Span :=
  match a with
  | .mma d =>
    (d.aOfs + m * d.aStride + rowSpan d.aFmt p.k0, rowSpan d.aFmt (p.k1 - p.k0))
      :: ((if d.aScaled then [(d.aSc + m * ((d.k + 31) / 32) + p.k0 / 32, (p.k1 - p.k0 + 31) / 32)] else [])
        ++ (if d.elemMask then [(d.emaskOfs + m * ((d.k + 7) / 8) + p.k0 / 8, (p.k1 - p.k0 + 7) / 8)] else []))
  | .conv d =>
    match d.source p.tap m with
    | some (y, x) => d.tile.part y x p.k0 p.k1 ++ (if d.aScaled then p.blocks.map (fun b => (d.aScale y x (b / 32), 1)) else [])
    | none => []

/-- The block at `b` of a fed row in a pass: its scale, and its elements, none where one is masked or zero padding (R154,
R170, R230, R233, R234). -/
def ArrCmd.rowBlock (a : ArrCmd) (s : State) (u : Nat) (p : Pass) (m b : Nat) : Nat × List (Option Nat) :=
  match a with
  | .mma d =>
    (if d.aScaled then (s.spadByte u (d.aSc + m * ((d.k + 31) / 32) + b / 32)).toNat else 0x7F,
      (p.elems b).map (fun k =>
        if d.elemMask && !natBit (s.spadByte u (d.emaskOfs + m * ((d.k + 7) / 8) + k / 8)).toNat (k % 8) then none
        else some (s.codeAt u d.aFmt (d.aOfs + m * d.aStride) k)))
  | .conv d =>
    match d.source p.tap m with
    | some (y, x) =>
      (if d.aScaled then (s.spadByte u (d.aScale y x (b / 32))).toNat else 0x7F,
        (p.elems b).map (fun k => some (s.codeAt u d.tile.code (d.tile.at y x k).1 (d.tile.at y x k).2)))
    | none => (0x7F, (p.elems b).map (fun _ => if d.pad = 1 then some d.padVal else none))

/-- The element an encoding of a format code stands for. -/
def elemOf (code x : Nat) : Elem := match Fmt.ofCode code with
  | some f => f.elem x
  | none => .nan

/-- The lane sums that row `m` of a pass sends to its column `j` against a tile (R112, R113, R142, R152, R154). DEDUCED, log 25. -/
def ArrCmd.sums (a : ArrCmd) (s : State) (u : Nat) (p : Pass) (w : WTile) (m j : Nat) : List Accord :=
  p.blocks.zipIdx.map (fun b =>
    let r := a.rowBlock s u p m b.1
    let ws := ((w.elems.getD j []).drop (32 * b.2)).take 32
    laneSum (pairLsb a.codes.1 a.codes.2) r.1 ((w.scales.getD j []).getD b.2 0x7F) ((r.2.zip ws).filterMap (fun q =>
      q.1.map (fun x => (elemOf a.codes.1 x, elemOf a.codes.2 q.2)))))

/-! ## The weight registers (R144) -/

/-- The tile that a list of writes, newest first, has put into cell (k, n) by a cycle. -/
def tileAt (xs : List (Nat × WTile)) (k n cyc : Nat) : Option WTile := (xs.find? (fun x => decide (x.1 + k + n ≤ cyc))).map (·.2)

/-- What lane `j` of cell (k, n) holds of a tile: the encoding of its weight; zero where no element is (R139, R152). -/
def WTile.cell (w : WTile) (k n j : Nat) : Nat := (w.elems.getD n []).getD (32 * j + k) 0

/-- The shadow weight register of a cell's lane: a load that begins at L writes it at L + k + n (R144). -/
def UnitEng.shadowReg (e : UnitEng) (k n j : Nat) : Nat := ((tileAt e.loads k n e.cyc).map (fun w => w.cell k n j)).getD 0

/-- The active weight register of a cell's lane: the front of a pass that starts at s copies the shadow at s + k + n (R144). -/
def UnitEng.activeReg (e : UnitEng) (k n j : Nat) : Nat := ((tileAt e.starts k n e.cyc).map (fun w => w.cell k n j)).getD 0

/-! ## A claimed command (R147, R155, R237) -/

/-- An array command takes its place at the array. -/
def State.addJob (s : State) (u : Nat) (j : ArrJob) : State :=
  let e := s.unitEng u
  s.setEng u { e with jobs := e.jobs ++ [j] }

/-- The row mask's range of an MMA that has one (R153). -/
def Mma.maskSpan (d : Mma) : List Span := if d.rowMask then [(d.maskOfs, 32)] else []

/-- An MMA that holds its tokens reads its row mask; it goes to the array, or, where no row is fed, ends two cycles later
(R153, R155): its masked rows count once then. DESIGN CHOICE, log 100. -/
def Mma.run (d : Mma) (f : Flight) (c : Nat) (s : State) : RunEnd × State :=
  match s.spadConsume f.u d.maskSpan f.ctx (locUnit f.u 1) with
  | (true, s) => (.fails .uncorrectable, s)
  | (false, s) =>
    let rows := d.rows s f.u
    if rows.isEmpty then (.runs (c + 2) (c + 2) 0, s.addFld (R.arrMaskedCnt f.u) F.arrMaskedCnt_COUNT d.m)
    else (.works, s.addJob f.u { q := f.q, seq := f.seq, entry := f.entry, claimAt := c, rows := rows, masked := d.m - rows.length,
                                 passes := (ArrCmd.mma d).passes, loaded := 0, begun := 0, next := 0 })

/-- The slots of a tile. -/
def Conv.slots (d : Conv) : List Nat := slotsOf (tileMask d.base d.m d.n)

/-- A CONV that holds its tokens goes to the array, or, without an executed tap, ends as R237 says: in SET mode it begins
zeroing its first slot in the cycle after the claim, which the spec leaves open. DESIGN CHOICE, log 99. -/
def Conv.run (d : Conv) (f : Flight) (c : Nat) (s : State) : RunEnd × State :=
  if d.taps.isEmpty then
    if d.set then (.runs (c + 1 + 32 * d.slots.length) (c + 2 + 32 * d.slots.length) 0, s)
    else (.runs (c + 2) (c + 3) 0, s)
  else (.works, s.addJob f.u { q := f.q, seq := f.seq, entry := f.entry, claimAt := c, rows := List.range d.m, masked := 0,
                               passes := (ArrCmd.conv d).passes, loaded := 0, begun := 0, next := 0 })

/-- The entries of a CONV's tile that lie in a slot. -/
def Conv.inSlot (d : Conv) (slot : Nat) : List Nat :=
  ((List.range d.m).flatMap (fun m => (List.range d.n).map (fun n => accEntryOf d.base d.m m n))).filter (fun e => e / 1024 == slot)

/-! ## One cycle of the array (R141, R145, R146, R148, R149, R158, R167, R178, R231, R232) -/

/-- A job is replaced by what it becomes. -/
def State.setJob (s : State) (u : Nat) (j : ArrJob) : State :=
  let e := s.unitEng u
  s.setEng u { e with jobs := e.jobs.map (fun x => if x.q = j.q ∧ x.seq = j.seq then j else x) }

/-- A job leaves the array. -/
def State.dropJob (s : State) (u : Nat) (j : ArrJob) : State :=
  let e := s.unitEng u
  s.setEng u { e with jobs := e.jobs.filter (fun x => !(x.q == j.q && x.seq == j.seq)) }

/-- The context of a job. -/
def State.jobCtx (s : State) (u q seq : Nat) : Nat := ((s.flightOf u q seq).map (·.ctx)).getD 0

/-- A word that an array command consumed was uncorrectable: the command leaves the array and fails (R160, R577). -/
def State.arrFails (s : State) (u : Nat) (j : ArrJob) : State := (s.dropJob u j).failAt u j.q j.seq .uncorrectable

/-- Whether the next weight load, of a job, may begin in a cycle (R145, R146). -/
def UnitEng.mayLoad (e : UnitEng) (front : Bool) (j : ArrJob) (t : Nat) : Bool :=
  decide (j.claimAt < t) && j.begun == j.loaded
    && (if front then
          (e.jobs.takeWhile (fun x => !(x.q == j.q && x.seq == j.seq))).all (fun x => x.begun == x.passes)
            && (match e.loads with
              | l :: _ => decide (l.1 + 32 ≤ t)
              | [] => true)
        else
          (e.jobs.head?.map (fun x => x.q == j.q && x.seq == j.seq)).getD false && (j.begun == 0 || j.next == j.rows.length)
            && e.entered.all (fun x => decide (x + 64 ≤ t)))

/-- The weight load that begins in the present cycle, if one may: its tile is read then. DESIGN CHOICE, log 99. -/
def State.loadTick (s : State) (u : Nat) : State :=
  let e := s.unitEng u
  let front := s.bit (R.arrCtl u) F.arrCtl_FRONT_EN
  match e.jobs.find? (fun j => decide (j.loaded < j.passes)) with
  | none => s
  | some j =>
    if !e.mayLoad front j e.cyc then s
    else
      let a := ArrCmd.of j.entry
      let p := a.pass j.loaded
      match s.spadConsume u (a.tileSpans p) (s.jobCtx u j.q j.seq) (locUnit u 1) with
      | (true, s) => s.arrFails u j
      | (false, s) =>
        let e := s.unitEng u
        (s.setEng u { e with loads := (e.cyc, a.tile s u p) :: e.loads.take 2, slow := !front }).setJob u { j with loaded := j.loaded + 1 }

/-- Sums added into an entry, or into FINITE zero where a SET command's first pass writes it (R158). -/
def State.accumulate (s : State) (u e : Nat) (set : Bool) (xs : List Accord) : Accord :=
  xs.foldl Accord.add (if set then .fin 0 else s.accEntry u e)

/-- The effect of a fed row in a pass with a tile: each of its entries takes its lane sums; whether a consumed word was
uncorrectable. DEDUCED, log 24. -/
def State.rowSums (s : State) (u : Nat) (a : ArrCmd) (p : Pass) (w : WTile) (m ctx : Nat) : Bool × State :=
  let es := p.cols.map (accEntryOf a.acc.2 a.shape.1 m)
  let fresh := a.acc.1 && p.first
  match s.spadConsume u (a.rowSpans p m) ctx (locUnit u 1) with
  | (true, s) => (true, s)
  | (false, s) =>
    match (if fresh then (false, s) else s.accConsume u es ctx (locUnit u 1)) with
    | (true, s) => (true, s)
    | (false, s) => (false, s.accPuts u ctx (es.zipIdx.map (fun x => (x.1, s.accumulate u x.1 fresh (a.sums s u p w m x.2)))))

/-- The row that is next to enter, where one may but for throttling: its job, and whether it begins a pass (R145, R146). -/
def UnitEng.rowDue (e : UnitEng) (t : Nat) : Option (ArrJob × Bool) :=
  match e.jobs with
  | [] => none
  | j :: _ =>
    if t < e.free then none
    else if 0 < j.begun && decide (j.next < j.rows.length) then some (j, false)
    else match e.loads with
      | l :: _ => if decide (j.begun < j.loaded) && decide (l.1 + (if e.slow then 64 else 1) ≤ t) then some (j, true) else none
      | [] => none

/-- The counters of a row that enters (R178). -/
def State.countRow (s : State) (u masked : Nat) (start : Bool) : State :=
  let s := (s.addFld (R.arrRowCnt u) F.arrRowCnt_COUNT 1).addFld (R.arrFeedCyc u) F.arrFeedCyc_COUNT 1
  if start then s.addFld (R.arrMaskedCnt u) F.arrMaskedCnt_COUNT masked else s

/-- A row enters in the present cycle: the first of a pass brings the front with it; after the last of a command, its
release and its completion follow 70 cycles later (R149, R231). -/
def State.rowEnters (s : State) (u : Nat) (j : ArrJob) (start : Bool) : State :=
  let e := s.unitEng u
  let t := e.cyc
  let a := ArrCmd.of j.entry
  let starts := if start then (t, (e.loads.head?.map (·.2)).getD ⟨[], []⟩) :: e.starts.take 2 else e.starts
  let j := if start then { j with begun := j.begun + 1, next := 0 } else j
  let s0 := (starts.head?.map (·.1)).getD t
  let w := (starts.head?.map (·.2)).getD ⟨[], []⟩
  match s.rowSums u a (a.pass (j.begun - 1)) w (j.rows.getD j.next 0) (s.jobCtx u j.q j.seq) with
  | (true, s) => s.arrFails u j
  | (false, s) =>
    let last := j.next + 1 == j.rows.length
    let e := s.unitEng u
    let s := s.setEng u { e with starts := starts, entered := t :: e.entered, tails := if last then t :: e.tails else e.tails
                                 free := max (s0 + a.ofs (j.next + 1)) (t + a.spacing) }
    let s := s.countRow u j.masked start
    if last && j.begun == j.passes then
      (s.dropJob u j).setFlight u j.q j.seq (fun g => { g with
        stage := .running g.stage.owned, relAt := t + 70, doneAt := t + 70
        detail := if Ent.opcode j.entry = 0x24 then a.taps.length else 0 })
    else s.setJob u { j with next := j.next + 1 }

/-- The row of the present cycle: it enters; throttling holds it back (THR_CYC); or none is due. Whether the cycle was one
of the first two (R167, R178, R232). -/
def State.rowTick (s : State) (u : Nat) : Bool × State :=
  let e := s.unitEng u
  match e.rowDue e.cyc with
  | none => (false, s)
  | some (j, start) =>
    if e.entered.all (fun x => decide (x + s.issueDivisor ≤ e.cyc)) then (true, s.rowEnters u j start)
    else (true, s.addFld (R.arrThrCyc u) F.arrThrCyc_COUNT 1)

/-- Passes whose last entry is written in the present cycle are complete, and rows whose lane sums have left are forgotten
(R142, R178). DEDUCED, log 26. -/
def State.tailTick (s : State) (u : Nat) : State :=
  let e := s.unitEng u
  let s := s.addFld (R.arrPassCnt u) F.arrPassCnt_COUNT (e.tails.filter (fun x => x + 69 == e.cyc)).length
  s.setEng u { e with tails := e.tails.filter (fun x => decide (e.cyc < x + 69)), entered := e.entered.filter (fun x => decide (e.cyc < x + 70)) }

/-- Whether an array command lies between its validation and the release of its tokens (R178). -/
def State.arrCovered (s : State) (u : Nat) : Bool :=
  (s.unitFlights u).any (fun f => f.eng == .array && (f.stage.waits || f.stage.owned != 0))

/-- One cycle of the array, with its counters. -/
def State.arrTick (s : State) (u : Nat) : State :=
  let covered := s.arrCovered u
  let x := (s.tailTick u).loadTick u |>.rowTick u
  if covered && !x.1 then x.2.addFld (R.arrGapCyc u) F.arrGapCyc_COUNT 1 else x.2

end Sys2Proof.Machine
end

