-- ==== Sys2Proof/Machine/AccEngine.lean ====
section
/-! DEFINITION. The accumulator engine: ACC_CLEAR, ACC_SPILL, ACC_FILL and ACC_MERGE (R174 to R177, R221). -/

namespace Sys2Proof.Machine

/-- The bytes of one slot's image (R175). -/
def slotImage : Nat := 81920

/-- The entries of a slot. -/
def slotEntries (slot : Nat) : List Nat := (List.range 1024).map (slot * 1024 + ·)

/-- The image offset of entry `i` of the `k`-th named slot. -/
def imageOfs (ofs k i : Nat) : Nat := ofs + slotImage * k + 80 * (i % 1024)

/-- The checks of R177: an empty mask has an empty image. -/
def accCheck (e : BitVec 512) (image : Bool) : Option Status :=
  let ofs := entBits e 20 20 0
  let n := (slotsOf (entBits e 16 7 0)).length
  if bodyBad e (if image then [(16, 7, 0), (20, 20, 0)] else [(16, 7, 0)]) then some .reservedField
  else if image && ofs % 8 != 0 then some .stride
  else if image && n != 0 && decide (spadSize < ofs + slotImage * n) then some .spadRange
  else none

/-- Whether an accumulator command has an image. -/
def accImage (op : Nat) : Bool := op != 0x21

/-- Cycles per slot (R175). -/
def accCycles (op : Nat) : Nat := if op = 0x21 then 32 else 128

/-- An accumulator command that takes its tokens in cycle `c`: it works through its slots from the next cycle on, and
releases its tokens and completes in the cycle after its last (R163, R175). -/
def accRun (f : Flight) (c : Nat) (s : State) : RunEnd × State :=
  let e := c + 1 + accCycles (Ent.opcode f.entry) * (slotsOf (entBits f.entry 16 7 0)).length
  (.runs e e 0, s)

/-- ACC_CLEAR's effect on a slot: every entry becomes FINITE zero. -/
def clearSlot (f : Flight) (slot : Nat) (s : State) : Bool × Nat × State :=
  (false, 0, s.accPuts f.u f.ctx ((slotEntries slot).map (fun e => (e, .fin 0))))

/-- ACC_SPILL's effect on its `k`-th slot: the entries are written to the image. -/
def spillSlot (f : Flight) (k slot : Nat) (s : State) : Bool × Nat × State :=
  let r := s.accConsume f.u (slotEntries slot) f.ctx (locUnit f.u 7)
  if r.1 then (true, 0, r.2)
  else
    let w := r.2.spadWrite f.u (entBits f.entry 20 20 0 + slotImage * k)
      ((slotEntries slot).flatMap (fun e => natToBytes 80 (r.2.accWord f.u e).toNat)) f.ctx (locUnit f.u 7)
    (w.1, 0, w.2)

/-- ACC_OVF where an accord that is consumed is an overflow (R183). -/
def Accord.ovfFlag (a : Accord) : Nat := match a.val with
  | .ovf _ => flagAccOvf
  | _ => 0

/-- The effect of ACC_FILL and ACC_MERGE on their `k`-th slot: each entry takes its image, or their sum, which reads the
entry too (R176, R221). -/
def imageSlot (merge : Bool) (f : Flight) (k slot : Nat) (s : State) : Bool × Nat × State :=
  let ofs := entBits f.entry 20 20 0
  match s.spadConsume f.u [(ofs + slotImage * k, slotImage)] f.ctx (locUnit f.u 7) with
  | (true, s) => (true, 0, s)
  | (false, s) =>
    match (if merge then s.accConsume f.u (slotEntries slot) f.ctx (locUnit f.u 7) else (false, s)) with
    | (true, s) => (true, 0, s)
    | (false, s) =>
      let xs := (slotEntries slot).map (fun e =>
        (e, s.accEntry f.u e, Accord.read (BitVec.ofNat 640 (s.spadNat f.u (imageOfs ofs k e) 80))))
      (false, if merge then xs.foldl (fun a x => a ||| x.2.1.ovfFlag ||| x.2.2.ovfFlag) 0 else 0,
        s.accPuts f.u f.ctx (xs.map (fun x => (x.1, if merge then x.2.1.add x.2.2 else x.2.2))))

/-- The effect of an accumulator command on its `k`-th slot, by its opcode: whether a word it consumed was uncorrectable,
and its flags. -/
def accSlot (f : Flight) (k slot : Nat) (s : State) : Bool × Nat × State :=
  match Ent.opcode f.entry with
  | 0x21 => clearSlot f slot s
  | 0x22 => spillSlot f k slot s
  | 0x23 => imageSlot false f k slot s
  | _ => imageSlot true f k slot s

/-- The slots that a running command works through one after another, with the cycles each takes: an accumulator command's,
and those that a CONV without an executed tap sets to FINITE zero (R175, R237). -/
def Flight.slotWork (f : Flight) : Option (Nat × List Nat) :=
  if f.eng == .accEng then some (accCycles (Ent.opcode f.entry), slotsOf (entBits f.entry 16 7 0))
  else if f.eng == .array && Ent.opcode f.entry == 0x24 && (Conv.of f.entry).taps.isEmpty && (Conv.of f.entry).set then
    some (32, (Conv.of f.entry).slots)
  else none

/-- What a command does to its `k`-th slot. -/
def Flight.atSlot (f : Flight) (k slot : Nat) (s : State) : Bool × Nat × State :=
  if f.eng == .accEng then accSlot f k slot s
  else (false, 0, s.accPuts f.u f.ctx (((Conv.of f.entry).inSlot slot).map (fun e => (e, .fin 0))))

/-- A command's work on slots in the present cycle: a slot's effect stands from the last cycle it takes. DEDUCED, log 24. -/
def State.slotTick (s : State) (f : Flight) : State :=
  match f.stage, f.slotWork with
  | .running m, some (n, slots) =>
    let t := s.unitCyc f.u
    if m = 0 ∨ t ≤ f.claimAt ∨ (t - f.claimAt) % n ≠ 0 then s
    else
      let k := (t - f.claimAt) / n - 1
      match slots[k]? with
      | none => s
      | some slot =>
        match f.atSlot k slot s with
        | (true, _, s) => s.failAt f.u f.q f.seq .uncorrectable
        | (false, fl, s) => if fl = 0 then s else s.setFlight f.u f.q f.seq (fun g => { g with detail := g.detail ||| fl })
  | _, _ => s

end Sys2Proof.Machine
end

