-- ==== Sys2Proof/Machine/Availability.lean ====
section
/-! DEFINITION. The live availability map at run time (R57 to R68), the loss of a unit (R525), and failures of blocks that
have no bit in the map (R64). -/

namespace Sys2Proof.Machine

/-- The block of the map that a location code names (R54 to R56, R63). -/
inductive MapBlock where
  | unit (u : Nat) | cluster (c : Nat) | region (r : Nat) | stack (k : Nat) | optPort (p : Nat) | pcie (q : Nat)
  | core (c : Nat) | die (d : Nat)
  deriving DecidableEq, Repr

/-- The block of the map that a location code names; none where it names a block without a bit, or none at all. -/
def mapBlock (loc : Loc) : Option MapBlock :=
  let n := loc.toNat
  let d := natBits n 15 13
  let blk := natBits n 4 0
  let idx := natBits n 12 5
  if d < 4 then
    if blk < 8 then some (.unit (d * 256 + idx))
    else if blk < 0xB then if natBits n 7 5 = 0 then some (.cluster (d * 32 + idx / 8)) else none
    else if 0x10 ≤ blk ∧ blk ≤ 0x12 then if natBits n 9 5 = 0 then some (.region (d * 8 + idx / 32)) else none
    else if blk = 0x18 then if idx < 4 then some (.stack (d * 4 + idx)) else none
    else if blk = 0x1A then if idx < 2 then some (.optPort (d * 2 + idx)) else none
    else if (blk = 0x19 ∨ blk = 0x1C) ∧ idx = 0 then some (.die d)
    else none
  else if d = 4 then
    if blk = 0 ∧ idx < 64 then some (.core idx)
    else if (blk = 5 ∨ blk = 9) ∧ idx < 4 then some (.pcie idx)
    else none
  else none

/-- The units, clusters and regions whose bits an event on a block clears, with those of its dependents (R63). -/
def MapBlock.units : MapBlock → List Nat
  | .unit u => [u]
  | .cluster c => (List.range 8).map (c * 8 + ·)
  | .region r => (List.range 32).map (r * 32 + ·)
  | .die d => (List.range 256).map (d * 256 + ·)
  | _ => []

/-- The clusters whose bits an event on a block clears. -/
def MapBlock.clusters : MapBlock → List Nat
  | .cluster c => [c]
  | .region r => (List.range 4).map (r * 4 + ·)
  | .die d => (List.range 32).map (d * 32 + ·)
  | _ => []

/-- The bits of AVAIL_MISC that an event on a block clears. -/
def MapBlock.misc : MapBlock → List Nat
  | .region r => [r]
  | .die d => (List.range 8).map (d * 8 + ·)
  | .stack k => [32 + k]
  | .optPort p => [48 + p]
  | .pcie q => [56 + q]
  | _ => []

/-- Whether a block of the map is available now. -/
def State.mapAvail (s : State) : MapBlock → Bool
  | .unit u => s.unitAvail u
  | .cluster c => s.cluAvail c
  | .region r => s.rgnAvail r
  | .stack k => s.stackAvail k
  | .optPort p => s.optAvail p
  | .pcie q => s.pcieAvail q
  | .core c => s.coreAvail c
  | .die d => (List.range 8).any (fun i => s.rgnAvail (d * 8 + i))

/-- The bits of a block and of its dependents are cleared. -/
def State.clearAvail (s : State) (b : MapBlock) : State :=
  let s := b.units.foldl (fun s u => s.setBit (R.pkgAvailUnit (u / 64)) (u % 64) false) s
  let s := b.clusters.foldl (fun s c => s.setBit (R.pkgAvailClu (c / 64)) (c % 64) false) s
  let s := b.misc.foldl (fun s i => s.setBit R.pkgAvailMisc i false) s
  match b with
  | .core c => s.setBit R.pkgAvailCore c false
  | .stack _ => s.setFld R.pkgSts F.pkgSts_MEM_DEGRADED 1
  | _ => s

/-- The contexts resident on a unit or with an enabled queue there. -/
def State.unitContexts (s : State) (u : Nat) : List Nat :=
  ((s.resident u).toList ++ s.regs.filterMap (fun e =>
    if e.1.name = .unitQCfg ∧ e.1.inst = u ∧ F.unitQCfg_EN.get e.2 = 1 then some (F.unitQCfg_CTX.get e.2) else none)).dedup

/-- An availability event (R62, R525): the bits clear, GEN, LAST_LOC and LAST_CAUSE follow, AVAIL_CHG is set, and the
contexts of the units lost are torn down with CAUSE UNAVAILABLE. DEDUCED, log 18. -/
def State.availEvent (s : State) (b : MapBlock) (loc : Loc) (cause : Nat) : State :=
  let lost := b.units.filter s.unitAvail
  let ctxs := (lost.flatMap s.unitContexts).dedup
  let s := s.clearAvail b
  let s := s.addFld R.pkgAvailGen F.pkgAvailGen_GEN 1
  let s := (s.setFld R.pkgAvailGen F.pkgAvailGen_LAST_LOC loc.toNat).setFld R.pkgAvailGen F.pkgAvailGen_LAST_CAUSE cause
  let s := s.raise .pkg 0 0
  ctxs.foldl (fun s c => s.ctxFault c 0x28 loc) s

/-- A failure of a block at run time: an event when the block had a bit that was still set as the cycle began, in state `s0`
(R62, R66). -/
def State.blockLost (s0 s : State) (loc : Loc) : State :=
  match mapBlock loc with
  | some b => if s0.mapAvail b then s.availEvent b loc 3 else s
  | none => s

/-- AVAILABILITY_EVENT (R62, R66): the failures of one cycle, in ascending order of location code. -/
def execAvailabilityEvent (locs : List Loc) (s : State) : Host.Outcome State Fault Refusal :=
  if !s.running then .next s
  else .next ((sortBy (fun a b => decide (a.toNat ≤ b.toNat)) locs).foldl s.blockLost s)

/-- Whether AVAIL_RETIRE may name a block: of a unit, a cluster or a region, or a server core (R65). -/
def MapBlock.retirable : MapBlock → Bool
  | .unit _ => true
  | .cluster _ => true
  | .region _ => true
  | .core _ => true
  | _ => false

/-- RETIRE_IGNORED (R65, R589). -/
def State.retireIgnored (s : State) (a : Agent) : State :=
  s.record { page := .pkg, inst := 0, sev := 0, code := 2, loc := pageLoc .pkg 0, sys := true,
             addr := R.pkgAvailRetire.ofs - Page.base .pkg 0, kind := 3, reqLoc := (agentLoc a).toNat }

/-- AVAIL_RETIRE (R65). -/
def execAvailRetire (a : Agent) (loc : Loc) (s : State) : Host.Outcome State Fault Refusal :=
  if s.pageDead .pkg 0 then .next s
  else if !fwAllowed a .pkg then .next (s.denied a R.pkgAvailRetire)
  else
    let s := s.setFld R.pkgAvailRetire F.pkgAvailRetire_LOC loc.toNat
    match mapBlock loc with
    | some b => if b.retirable && s.mapAvail b then .next (s.availEvent b loc 4) else .next (s.retireIgnored a)
    | none => .next (s.retireIgnored a)

/-- Whether a location code names a host-die block that has no bit in the map and no row in R63 (R56, R64); die-to-die
links fall under R585. DEDUCED, log 82. -/
def unmappedBlock (loc : Loc) : Bool :=
  let n := loc.toNat
  let blk := natBits n 4 0
  let idx := natBits n 12 5
  natBits n 15 13 == 4 && ((blk == 1 && decide (idx < 32)) || (blk == 2 && decide (idx < 2))
    || ([3, 4, 6, 7, 8, 0xB].contains blk && idx == 0))

/-- BLOCK_FAILED (R64): a FATAL record in the PKG page; the block has failed until a cold reset, and nothing is withdrawn.
DEDUCED, log 82. -/
def execBlockFailed (loc : Loc) (s : State) : Host.Outcome State Fault Refusal :=
  if s.running && unmappedBlock loc then
    .next { (s.record { page := .pkg, inst := 0, sev := 3, code := 0x23, loc := loc }) with
            plat := { s.plat with broken := insertBy (fun a b => decide (a.toNat ≤ b.toNat)) loc (s.plat.broken.filter (· != loc)) } }
  else .next s

end Sys2Proof.Machine
end

