-- ==== Sys2Proof/Machine/Coherence.lean ====
section
/-! DEFINITION. The coherence protocol, message by message (R361 to R391): requests at a home, snoops and their answers,
grants, write-backs, refusals and retries, the age queues, arbiter mode, and the rebuilding of a directory. -/

namespace Sys2Proof.Machine

/-! ## Atomics (R382) -/

/-- The new value of an atomic's word of `size` bytes. -/
def AtomOp.apply (op : AtomOp) (size old x cmp : Nat) : Nat :=
  let w := 8 * size
  let x := x % 2 ^ w
  let less := signedOf w old < signedOf w x
  match op with
  | .swap => x
  | .add => (old + x) % 2 ^ w
  | .and => old &&& x
  | .or => old ||| x
  | .xor => old ^^^ x
  | .min => if less then old else x
  | .max => if less then x else old
  | .minu => Nat.min old x
  | .maxu => Nat.max old x
  | .cas => if old = cmp % 2 ^ w then x else old

/-- Whether an atomic names one aligned word of a size its operation has. -/
def atomLegal (op : AtomOp) (ofs size : Nat) : Bool :=
  (size == 4 || size == 8 || (size == 16 && op == .cas)) && ofs % size == 0

/-! ## Lines and messages -/

/-- A dirty line moves with an uncorrectable word: its record, and the fault of the context recorded with it (R579).
DEDUCED, log 39. -/
def State.dirtyMoved (s : State) (agent line : Nat) (c : CacheLine) : State :=
  match c.err.find? (fun e => eccClass e.2 == .uncorrectable) with
  | none => s
  | some e =>
    let pl := cachePlace agent
    let s := s.record { page := pl.1, inst := pl.2.1, sev := 2, code := 0x11, loc := pl.2.2, ctx := c.ctx.map (·.toNat),
                        sys := c.ctx.isNone, addr := line * 128 + 8 * e.1, kind := 1, syn := syndrome e.2 }
    match c.ctx with
    | some x => s.ctxFault x.toNat Status.uncorrectable.code pl.2.2
    | none => s

/-- Dirty lines with an uncorrectable word that a whole access has moved out of a cache, `s` being the state after it
(R579). DEDUCED, log 39. -/
def State.movedFaults (was s : State) : State :=
  (was.coh.lines.filter (fun e => e.2.st.dirty && e.2.err.any (fun x => eccClass x.2 == .uncorrectable)
      && !(lookupKey s.coh.lines e.1).any (fun c => c.st.dirty))).foldl
    (fun s e => s.dirtyMoved (e.1 % 64) (e.1 / 64) e.2) s

/-- A line's data is written to memory at its home; a stack that is gone takes nothing, and the write fails (R68). -/
def State.homeStore (s : State) (line : Nat) (d : LineData) : State :=
  if s.stackGone (line * 128) then s.memUnavail (line * 128) none (locStack (stackOf (line * 128))) else s.writeLineBack line d

/-! ## Outstanding requests -/

/-- Whether a request is a read for the owner table (R332). -/
def CohKind.isRead : CohKind → Bool
  | .rdS | .rdCur => true
  | _ => false

/-- A request is outstanding no more. -/
def State.dropOut (s : State) (agent line : Nat) : State :=
  { s with coh := { s.coh with outstanding := s.coh.outstanding.filter (fun o => !(o.req.agent.val == agent && o.req.line.toNat == line)) } }

/-- An outstanding request changes. -/
def State.mapOut (s : State) (agent line : Nat) (f : Outstanding → Outstanding) : State :=
  { s with coh := { s.coh with outstanding := s.coh.outstanding.map (fun o => if o.req.agent.val = agent ∧ o.req.line.toNat = line then f o else o) } }

/-! ## Transactions -/

/-- A transaction is put in place of the one on its line. -/
def State.setTxn (s : State) (t : Txn) : State :=
  { s with coh := { s.coh with txns := s.coh.txns.filter (fun x => x.line != t.line) ++ [t] } }

/-- A line's transaction ends (R374). -/
def State.endTxn (s : State) (line : Nat) : State :=
  { s with coh := { s.coh with txns := s.coh.txns.filter (fun x => x.line != line) } }

/-- Snoops leave. -/
def State.snoopAll (s : State) (line : Nat) (home : Bool) (ss : List (Nat × Snoop)) : State :=
  ss.foldl (fun s x => s.coSend (.snoop x.1 line x.2 home)) s

/-- The bytes a mask covers, as ranges of one byte each. -/
def maskOfs (mask : BitVec 128) : List Nat := (List.range 128).filter (fun i => mask.getLsbD i)

/-- A masked write at the home; a word it merges into that is uncorrectable is consumed (R581). -/
def State.homeMasked (s : State) (line : Nat) (r : CohReq) (mask : BitVec 128) : State :=
  let base := line * 128
  let loc := locStack (stackOf base)
  let words := (List.range 16).filter (fun w => (List.range 8).any (fun i => mask.getLsbD (8 * w + i)))
  let part := words.filter (fun w => (List.range 8).any (fun i => !mask.getLsbD (8 * w + i)))
  let ctx := r.ctx.map (·.toNat)
  match s.readWords ctx loc (part.map (base / 8 + ·)) with
  | (true, s) =>
    (match ctx with
    | some c => s.ctxFault c Status.uncorrectable.code loc
    | none => s)
  | (false, s) =>
    let s := words.foldl (fun s w => s.mendWord (base / 8 + w)) s
    let s := (maskOfs mask).foldl (fun s i => s.putByte (base + i) (lineByte r.data i)) s
    let s := { s with errs := s.errs.filter (fun e => !words.any (fun w => e.1 = base / 8 + w)) }
    match words.head?, words.getLast? with
    | some a, some b => s.injectStore (base + 8 * a) (8 * (b + 1 - a)) ctx loc
    | _, _ => s

/-- An atomic at the home: the old value goes to the requester. -/
def State.homeAtom (s : State) (line : Nat) (r : CohReq) : State :=
  let pa := line * 128 + r.ofs.val
  let ctx := r.ctx.map (·.toNat)
  let loc := locStack (stackOf pa)
  match s.consume pa r.size.val ctx loc with
  | (true, s) =>
    let s := s.dropOut r.agent line
    (match ctx with
    | some c => s.ctxFault c Status.uncorrectable.code loc
    | none => s)
  | (false, s) =>
    let old := bytesToNat (s.memBytes pa r.size.val)
    let s := (partWords pa r.size.val).foldl State.mendWord s
    let s := s.putBytes pa (natToBytes r.size.val (r.op.apply r.size.val old (r.data.toNat) r.cmp.toNat))
    let s := (s.clearErrs pa r.size.val).injectStore pa r.size.val ctx loc
    let s := s.addFld (R.cohAtomCnt (homeOf line).1 (homeOf line).2) F.cohAtomCnt_COUNT 1
    (s.coSend (.data (homeNode line) r.agent line ⟨BitVec.ofNat 1024 old, []⟩)).coSend (.grant r.agent line none true)

/-- The current data for an RD_CUR: an uncorrectable word is consumed (R578). -/
def State.homeCur (s : State) (line : Nat) (r : CohReq) (d : Option LineData) : State :=
  let ctx := r.ctx.map (·.toNat)
  let loc := locStack (stackOf (line * 128))
  let x := d.getD (s.homeData line)
  match x.err.find? (fun e => eccClass e.2 == .uncorrectable) with
  | some e =>
    let s := (s.memRecord (line * 16 + e.1) e.2 true ctx loc false).dropOut r.agent line
    (match ctx with
    | some c => s.ctxFault c Status.uncorrectable.code loc
    | none => s)
  | none => (s.coSend (.data (homeNode line) r.agent line x)).coSend (.grant r.agent line none true)

/-- The grant of a request (R373). -/
def grantOf (k : CohKind) (wasUncached : Bool) : Grant :=
  match k with
  | .rdS => if wasUncached then .e else .f
  | _ => .m

/-- The write-backs that a transaction has taken are acknowledged (R379). -/
def State.wbAcks (s : State) (line : Nat) (as : List Nat) : State := as.foldl (fun s a => s.coSend (.wbAck a line)) s

/-- A transaction whose snoops are answered: data and grant leave for the requester and the entry changes; or the write or
atomic is performed, the entry is gone, and the transaction ends (R373, R374). -/
def State.finishTxn (s : State) (t : Txn) : State :=
  let line := t.line
  let req := t.req.agent.val
  let keepsDirty := t.kind != .ownNoData && t.kind != .wrLine && t.kind != .rdCur
  let s := match t.dirty with
    | some d => if keepsDirty then s.homeStore line d else s
    | none => s
  if t.kind.grants then
    let had := match lookupKey s.coh.dir line with
      | some (DirEntry.shared as _) => as.contains req
      | _ => false
    let needs := match t.kind with
      | .rdS | .rdX => true
      | .upg => !had
      | _ => false
    let s := if needs && !t.forwarded then s.coSend (.data (homeNode line) req line (s.homeData line)) else s
    let s := s.setDir line (afterGrant t.kind req t.wasUncached (lookupKey s.coh.dir line)) t.req.ctx
    ((s.coSend (.grant req line (some (grantOf t.kind t.wasUncached)) needs)).wbAcks line t.acks).setTxn { t with phase := .granted, acks := [] }
  else
    let s := s.endTxn line
    let gone := { s with coh := { s.coh with dir := eraseKey s.coh.dir line, dirErr := eraseKey s.coh.dirErr line
                                             dirUse := s.coh.dirUse.filter (· != line) } }
    let done := match t.kind with
      | .rdCur => s.homeCur line t.req t.dirty
      | .wrLine => (gone.homeMasked line t.req (BitVec.allOnes 128)).dropOut req line
      | .wrPart => (gone.homeMasked line t.req t.req.mask).dropOut req line
      | _ => gone.homeAtom line t.req
    done.wbAcks line t.acks

/-- The snoop phase of a transaction begins. -/
def State.beginSnoop (s : State) (t : Txn) : Txn × State :=
  let e := lookupKey s.coh.dir t.line
  let ss := snoopsOf t.kind t.req.agent e
  ({ t with phase := .snoop, wasUncached := e.isNone, waiting := ss.1.map (·.1) }, s.snoopAll t.line ss.2 ss.1)

/-- A transaction goes on as far as its answers allow. -/
def State.advanceTxn (s : State) (t : Txn) : State :=
  if !t.waiting.isEmpty || !t.wbWait.isEmpty || !t.wbIn.isEmpty then s.setTxn t
  else match t.phase with
  | .granted => s.setTxn t
  | .snoop => s.finishTxn t
  | .clear v unknown =>
    let h := homeOf t.line
    let s := match t.dirty with
      | some d => s.homeStore v d
      | none => s
    let s := { s with coh := { s.coh with dir := eraseKey s.coh.dir v, dirErr := eraseKey s.coh.dirErr v
                                          dirUse := s.coh.dirUse.filter (· != v) } }
    let s := (if unknown then s.dirLost v else s.addFld (R.cohRecallCnt h.1 h.2) F.cohRecallCnt_COUNT 1).wbAcks v t.acks
    let p := s.beginSnoop { t with dirty := none, forwarded := false, acks := [] }
    if p.1.waiting.isEmpty then p.2.finishTxn p.1 else p.2.setTxn p.1

/-- Whether a request needs a new directory entry (R369). -/
def State.needsEntry (s : State) (k : CohKind) (line : Nat) : Bool := k.grants && (lookupKey s.coh.dir line).isNone

/-- The snoops of a recall (R369). -/
def recallSnoops : DirEntry → List (Nat × Snoop)
  | .shared as _ => as.map (fun a => (a, .snpInv))
  | .exclusive o => [(o, .snpX)]

/-- A refusal leaves for the requester (R376). -/
def State.nackCoh (s : State) (r : CohReq) (why : NackWhy) : State :=
  let h := homeOf r.line.toNat
  (s.addFld (R.cohNackCnt h.1 h.2) F.cohNackCnt_COUNT 1).coSend (.nack r.agent r.line.toNat why)

/-- A home accepts a request: its line is BUSY; an entry is recalled or recovered first where that is needed; then the
snoops of R373 leave, and what needs none is done at once. -/
def State.acceptCoh (s : State) (k : CohKind) (r : CohReq) : State :=
  let line := r.line.toNat
  let t : Txn := { slot := (s.freeSlot line).getD 0, line := line, kind := k, req := r, phase := .snoop, wasUncached := false, waiting := [], wbWait := [],
                   wbIn := [], acks := [], forwarded := false, dirty := none }
  match s.dirRead line r.ctx with
  | (true, s) =>
    let s := s.snoopAll line true ((List.range 64).map (fun a => (a, Snoop.snpX)))
    s.setTxn { t with phase := .clear line true, waiting := List.range 64 }
  | (false, s) =>
    match (if s.needsEntry k line then s.fullSet line else none) with
    | some ls =>
      (match s.recallVictim ls with
      | some v =>
        let ss := (lookupKey s.coh.dir v).elim [] recallSnoops
        (s.snoopAll v true ss).setTxn { t with phase := .clear v false, waiting := ss.map (·.1) }
      | none => s.nackCoh r .dirSet)
    | none =>
      let p := s.beginSnoop t
      if p.1.waiting.isEmpty then p.2.finishTxn p.1 else p.2.setTxn p.1

/-- Why a home refuses a request (R376), or holds it in its age queue (R381). -/
inductive HomeVerdict where
  | accept
  | nack (why : NackWhy)
  | age
  deriving DecidableEq, Repr

/-- What a home does with a request that reaches it. -/
def State.homeVerdict (s : State) (k : CohKind) (r : CohReq) (rivalTaken : Bool) : HomeVerdict :=
  let line := r.line.toNat
  let h := homeOf line
  if s.coh.switchTo.isSome then .nack .modeSwitch
  else if rivalTaken || s.txnBusy line then
    if r.aged.isNone then .nack .busy
    else if (s.coh.ageQ.filter (fun e => homeOf e.2.line.toNat = h)).length < 256 then .age else .nack .ageFull
  else if (s.freeSlot line).isNone then .nack .slots
  else if k.grants && s.noWay line then .nack .dirSet
  else .accept

/-- The check of a request that reaches memory (R68, R332, R333): a context's request that fails performs nothing. -/
def State.cohCheck (s : State) (k : CohKind) (r : CohReq) : Bool × State :=
  let pa := r.line.toNat * 128
  let loc := locStack (stackOf pa)
  match r.ctx with
  | some c =>
    (match s.homeCheck c.toNat pa k.isRead loc with
    | (some st, s) => (false, (s.dropOut r.agent r.line.toNat).ctxFault c.toNat st.code loc)
    | (none, s) => (true, s))
  | none =>
    if s.stackGone pa then (false, (s.memUnavail pa none loc).dropOut r.agent r.line.toNat) else (true, s)

/-- A request at its home in directory mode; the result says whether it was accepted. -/
def State.homeArrive (s : State) (k : CohKind) (r : CohReq) (rivalTaken : Bool) : Bool × State :=
  match s.cohCheck k r with
  | (false, s) => (false, s)
  | (true, s) =>
    let h := homeOf r.line.toNat
    match s.homeVerdict k r rivalTaken with
    | .accept => (true, s.acceptCoh k r)
    | .nack why => (false, if why = .ageFull then (s.nackCoh r why).raise .coh h.1 2 else s.nackCoh r why)
    | .age =>
      (false, { (s.addFld (R.cohAgedCnt h.1 h.2) F.cohAgedCnt_COUNT 1) with coh := { s.coh with ageQ := s.coh.ageQ ++ [(k, r)] } })

/-- Requests that a home holds for a line in its age queue, the one to serve first at the head: oldest first issue first,
ties to the lower agent (R381). -/
def State.agedFor (s : State) (line : Nat) : List (CohKind × CohReq) :=
  sortBy (fun a b => decide ((a.2.aged.getD 0).toNat < (b.2.aged.getD 0).toNat)
      || (a.2.aged == b.2.aged && decide (a.2.agent.val ≤ b.2.agent.val)))
    (s.coh.ageQ.filter (fun e => e.2.line.toNat = line))

/-- Aged requests for a line are served, one transaction at a time, while the line is not BUSY (R381). -/
def State.serveAged (s : State) (line : Nat) : Nat → State
  | 0 => s
  | fuel + 1 =>
    if s.txnBusy line then s
    else match (s.agedFor line).head? with
      | none => s
      | some e =>
        let s := { s with coh := { s.coh with ageQ := s.coh.ageQ.erase e } }
        State.serveAged (s.acceptCoh e.1 e.2) line fuel

/-- What a transaction's end lets happen. -/
def State.afterTxn (s : State) (line : Nat) : State := s.serveAged line (s.coh.ageQ.length)

/-! ## The rows of requests -/

/-- Whether the arbiter takes requests first (R385). -/
def State.arbiterMode (s : State) : Bool := !s.bit (R.cohSts 4) F.cohSts_MODE_CUR

/-- The port at which an agent's requests reach a line's home (R378). Between opposite dies they take the way of R19. -/
def homePort (agent line : Nat) : Nat :=
  let d := (homeOf line).1
  if 32 ≤ agent then 8
  else
    let a := agent / 8
    if a = d then agent % 8
    else if a = (d + 1) % 4 then 9
    else if a = (d + 3) % 4 then 10
    else if stackOf (line * 128) % 2 = 0 then 10 else 9

/-- Whether an agent of the table of R362 may hold or name a line: a region cache any, an L3 slice its own (R363), an I/O agent
any, for the requests that leave no copy. -/
def agentAsks (k : CohKind) (agent line : Nat) : Bool :=
  if agent < 32 then true
  else if agent < 64 then sliceOf (line * 128) == agent - 32
  else agent < 68 && !k.grants

/-- Whether an agent may make a request: its kind, its agent's kind, the port, its copy of the line and the atomic's word; no
request for the line is outstanding, and none of its requests to that home waits on the path (R23). -/
def State.mayAsk (s : State) (k : CohKind) (r : CohReq) : Bool :=
  let line := r.line.toNat
  let c := (s.copy r.agent line).map (·.st)
  rangeOf (line * 128) == .hbm && (s.outstanding r.agent line).isNone && agentAsks k r.agent line && r.port.val == homePort r.agent line
    && s.coh.msgs.all (fun m => m.path != (r.agent.val, homeNode line, .request))
    && (if 32 ≤ r.agent.val ∧ r.agent.val < 64 then s.works (locHost 1 (r.agent - 32)) else s.running) &&
    match k with
    | .rdS | .rdX => c.isNone
    | .upg => c == some .s || c == some .f
    | .ownNoData => c.isNone || c == some .s || c == some .f
    | .atom => atomLegal r.op r.ofs r.size
    | _ => true

/-- A request is outstanding from its first issue. -/
def State.issueCoh (s : State) (k : CohKind) (r : CohReq) : State :=
  { s with coh := { s.coh with outstanding := s.coh.outstanding ++ [⟨k, r, 0, s.now, none⟩] } }

/-- A request whose wait is over, as it is sent again: aged after the 16th NACK (R380). -/
def State.dueRetry (s : State) (agent line : Nat) : Option (CohKind × CohReq) :=
  match s.outstanding agent line with
  | none => none
  | some o =>
    match o.retryAt with
    | none => none
    | some at' =>
      if !s.running || cadenceDiff s.now at' < 0 || s.msgHeld (.wb agent line) then none
      else some (o.kind, { o.req with aged := if 16 ≤ o.nacks then some o.firstIssue else none })

/-- A request is sent again. -/
def State.resend (s : State) (r : CohReq) : State :=
  s.mapOut r.agent r.line.toNat (fun x => { x with retryAt := none, req := r })

/-- What an agent sends of a request that a row names: a first issue, which carries no age (R380), or the same request sent
again. -/
def State.sends (s : State) (e : CohKind × CohReq) : Option ((CohKind × CohReq) × State) :=
  let first := (e.1, { e.2 with aged := none })
  if s.mayAsk first.1 first.2 && !s.msgHeld (.wb e.2.agent e.2.line.toNat) then some (first, s.issueCoh first.1 first.2)
  else match s.dueRetry e.2.agent e.2.line.toNat with
    | some x => if x.1 = e.1 then some (x, s.resend x.2) else none
    | none => none

/-- Requests that reach the arbiter wait in it, up to 4,096 (R385). -/
def State.arbArrive (s : State) (k : CohKind) (r : CohReq) : State :=
  if s.coh.switchTo.isSome then s.nackCoh r .modeSwitch
  else { s with coh := { s.coh with arbQ := s.coh.arbQ ++ [(k, r)] } }

/-- The rank of a port at a line's home (R377, R391). -/
def State.portRank (s : State) (r : CohReq) : Nat :=
  natBits (s.reg (R.cohPortPrio (homeOf r.line.toNat).1)).toNat (4 * r.port.val + 3) (4 * r.port.val)

/-- Requests of one cycle reach their homes in the order of their ports' ranks; of those for one line the first that is
not refused is accepted, and the others are refused (R377). DEDUCED, log 94. -/
def State.arriveAll (s : State) (rs : List (CohKind × CohReq)) : State :=
  let order := sortBy (fun a b => decide (s.portRank a.2 ≤ s.portRank b.2)) rs
  (order.foldl (fun p e =>
    let taken := p.1.contains e.2.line
    let x := p.2.homeArrive e.1 e.2 taken
    (if x.1 then e.2.line :: p.1 else p.1, x.2)) (([] : List LineNo), s)).2

/-- A coherent request and those that arrive in the same cycle, first issues and retries (R373, R377, R385). Requests that
their agents could not make, and those a full arbiter does not take, stay with their requesters. -/
def State.cohRequest (s : State) (k : CohKind) (r : CohReq) (rivals : List (CohKind × CohReq)) : State :=
  let sent := ((k, r) :: rivals).foldl (fun p e =>
    if s.arbiterMode && decide (4096 ≤ p.2.coh.arbQ.length + p.1.length) then p
    else match p.2.sends e with
      | some x => (p.1 ++ [x.1], x.2)
      | none => p) (([] : List (CohKind × CohReq)), s)
  s.orStall (if s.arbiterMode then
      (sortBy (fun a b => decide (a.2.agent.val ≤ b.2.agent.val)) sent.1).foldl (fun s e => s.arbArrive e.1 e.2) sent.2
    else sent.2.arriveAll sent.1)

/-- RD_S (R373). -/
def execRdS (r : CohReq) (rivals : List (CohKind × CohReq)) (s : State) : Host.Outcome State Fault Refusal :=
  .next (s.cohRequest .rdS r rivals)

/-- RD_X (R373). -/
def execRdX (r : CohReq) (rivals : List (CohKind × CohReq)) (s : State) : Host.Outcome State Fault Refusal :=
  .next (s.cohRequest .rdX r rivals)

/-- UPG (R373). -/
def execUpg (r : CohReq) (rivals : List (CohKind × CohReq)) (s : State) : Host.Outcome State Fault Refusal :=
  .next (s.cohRequest .upg r rivals)

/-- OWN_NODATA (R373). -/
def execOwnNodata (r : CohReq) (rivals : List (CohKind × CohReq)) (s : State) : Host.Outcome State Fault Refusal :=
  .next (s.cohRequest .ownNoData r rivals)

/-- RD_CUR (R373). -/
def execRdCur (r : CohReq) (rivals : List (CohKind × CohReq)) (s : State) : Host.Outcome State Fault Refusal :=
  .next (s.cohRequest .rdCur r rivals)

/-- WR_LINE (R373). -/
def execWrLine (r : CohReq) (rivals : List (CohKind × CohReq)) (s : State) : Host.Outcome State Fault Refusal :=
  .next (s.cohRequest .wrLine r rivals)

/-- WR_PART (R373). -/
def execWrPart (r : CohReq) (rivals : List (CohKind × CohReq)) (s : State) : Host.Outcome State Fault Refusal :=
  .next (s.cohRequest .wrPart r rivals)

/-- ATOM (R382). -/
def execAtom (r : CohReq) (rivals : List (CohKind × CohReq)) (s : State) : Host.Outcome State Fault Refusal :=
  .next (s.cohRequest .atom r rivals)

/-! ## Evictions (R367, R375, R379) -/

/-- The transaction that waits for an agent's answer or write-back on a line: the line's own, or one that recalls it. -/
def State.txnFor (s : State) (agent line : Nat) : Option Txn :=
  s.coh.txns.find? (fun t => (match t.phase with
    | .clear v _ => v == line
    | .snoop => t.line == line
    | .granted => false) && (t.waiting.contains agent || t.wbWait.contains agent))

/-- An eviction's data reaches memory, and its sender leaves the entry (R375). -/
def State.acceptWb (s : State) (agent line : Nat) (c : CacheLine) : State :=
  let s := if c.st.dirty then (s.homeStore line c.moved).dirtyMoved agent line c else s
  (s.dirDrop agent line).setCopy agent line (some { c with st := .w false })

/-- A write-back or eviction notice at its home. -/
def State.wbArrive (s : State) (agent line : Nat) : State :=
  match s.copy agent line with
  | none => s.coSend (.wbAck agent line)
  | some c =>
    match s.txnFor agent line with
    | none => (s.acceptWb agent line c).coSend (.wbAck agent line)
    | some t =>
      if t.wbWait.contains agent then
        let s := s.acceptWb agent line c
        (s.advanceTxn { t with wbWait := t.wbWait.erase agent, acks := t.acks ++ [agent] }).afterTxn t.line
      else s.setTxn { t with wbIn := t.wbIn ++ [agent] }

/-- An eviction's next step: it leaves the cache, whose line moves to W (R367); or it reaches the home. -/
def State.evict (s : State) (agent line : Nat) (dirty : Bool) : State :=
  match s.coTake (fun m => m == .wb agent line) with
  | some (_, t) =>
    if (s.copy agent line).all (fun c => c.st == .w dirty) then t.wbArrive agent line else s
  | none =>
    match s.copy agent line with
    | some c =>
      if (dirty && c.st == .m) || (!dirty && (c.st == .e || c.st == .f)) then
        (s.setCopy agent line (some (c.lower (.w dirty)))).coSend (.wb agent line)
      else s
    | none => s

/-- WB (R375): a write-back leaves its cache, and at its next step is accepted by the home. -/
def execWb (agent : Fin 64) (line : LineNo) (s : State) : Host.Outcome State Fault Refusal :=
  if s.running then .next (s.orStall (s.evict agent line.toNat true)) else .next s

/-- CLEAN_EVICT (R375): a clean eviction notice, in the same two steps. -/
def execCleanEvict (agent : Fin 64) (line : LineNo) (s : State) : Host.Outcome State Fault Refusal :=
  if s.running then .next (s.orStall (s.evict agent line.toNat false)) else .next s

/-- WB_ACK (R367): the line in W moves to I. -/
def execWbAck (agent : Fin 64) (line : LineNo) (s : State) : Host.Outcome State Fault Refusal :=
  match s.coTake (fun m => m == .wbAck agent line.toNat) with
  | none => .next s
  | some (_, s) => .next (s.setCopy agent line.toNat none)

/-! ## Snoops (R371) -/

/-- A cache's answer to a snoop, by its line's state: the new state (none: I), the answer, whether the data goes on, and
whether a dirty copy goes to the home. -/
def snoopRow (st : Option LineState) (k : Snoop) : Option LineState × SnoopAns × Bool × Bool :=
  match st, k with
  | none, _ => (none, .miss, false, false)
  | some (.w d), _ => (some (.w d), .wbInflight, false, false)
  | some .m, .snpS => (some .s, .ackData, true, true)
  | some .m, .snpX => (none, .ackFwd, true, false)
  | some .m, .snpInv => (none, .ackData, false, true)
  | some .m, .snpCur => (some .m, .ackData, false, true)
  | some .e, .snpS => (some .s, .ackFwd, true, false)
  | some .e, .snpX => (none, .ackFwd, true, false)
  | some .e, .snpInv => (none, .ack, false, false)
  | some .e, .snpCur => (some .e, .ackData, false, true)
  | some .f, .snpS => (some .s, .ackFwd, true, false)
  | some .f, .snpX => (none, .ackFwd, true, false)
  | some .f, .snpInv => (none, .ack, false, false)
  | some .f, .snpCur => (some .f, .ack, false, false)
  | some .s, .snpS => (some .s, .ack, false, false)
  | some .s, .snpX => (none, .ack, false, false)
  | some .s, .snpInv => (none, .ack, false, false)
  | some .s, .snpCur => (some .s, .ack, false, false)

/-- A cache answers a snoop of a kind that has reached it. -/
def State.snooped (s : State) (agent line : Nat) (k : Snoop) : State :=
  match s.coTake (fun m => m == .snoop agent line k true || m == .snoop agent line k false) with
  | some (.snoop _ _ _ home, s) =>
    let c := s.copy agent line
    let r := snoopRow (c.map (·.st)) k
    let d := c.map (·.moved)
    let s := match c with
      | some (c : CacheLine) => if c.st == LineState.m && (r.2.2.1 || r.2.2.2) then s.dirtyMoved agent line c else s
      | none => s
    let s := match c, r.1 with
      | some c, some st => s.setCopy agent line (some (if st = c.st then c else c.lower st))
      | _, _ => s.setCopy agent line none
    let toHome := r.2.2.2 || (r.2.2.1 && home)
    let s := match d, s.txnFor agent line with
      | some d, some t => if r.2.2.1 && !home then s.coSend (.data agent t.req.agent line d) else s
      | _, _ => s
    s.coSend (.answer agent line r.2.1 (r.2.2.1 && !home) (if toHome then d else none))
  | _ => s

/-- SNP_S (R371). -/
def execSnpS (agent : Fin 64) (line : LineNo) (s : State) : Host.Outcome State Fault Refusal := .next (s.orStall (s.snooped agent line.toNat .snpS))

/-- SNP_X (R371). -/
def execSnpX (agent : Fin 64) (line : LineNo) (s : State) : Host.Outcome State Fault Refusal := .next (s.orStall (s.snooped agent line.toNat .snpX))

/-- SNP_INV (R371). -/
def execSnpInv (agent : Fin 64) (line : LineNo) (s : State) : Host.Outcome State Fault Refusal := .next (s.orStall (s.snooped agent line.toNat .snpInv))

/-- SNP_CUR (R371). -/
def execSnpCur (agent : Fin 64) (line : LineNo) (s : State) : Host.Outcome State Fault Refusal := .next (s.orStall (s.snooped agent line.toNat .snpCur))

/-- An answer at its home (R368, R379): a MISS clears the presence bit; WB_INFLIGHT waits for the write-back. -/
def State.answered (s : State) (t : Txn) (agent line : Nat) (a : SnoopAns) (fwd : Bool) (d : Option LineData) : State :=
  let t := { t with waiting := t.waiting.erase agent, forwarded := t.forwarded || fwd, dirty := d.or t.dirty }
  match a with
  | .wbInflight =>
    let h := homeOf line
    let s := s.addFld (R.cohWbifCnt h.1 h.2) F.cohWbifCnt_COUNT 1
    if t.wbIn.contains agent then
      let s := (s.copy agent line).elim s (fun c => s.acceptWb agent line c)
      s.advanceTxn { t with wbIn := t.wbIn.erase agent, acks := t.acks ++ [agent] }
    else s.setTxn { t with wbWait := t.wbWait ++ [agent] }
  | .miss => (s.dirDrop agent line).advanceTxn t
  | _ => s.advanceTxn t

/-- SNOOP_ANSWER (R379): the answer of an agent reaches the home. -/
def execSnoopAnswer (agent : Fin 64) (line : LineNo) (was : State) : Host.Outcome State Fault Refusal :=
  match was.coTake (fun m => match m with
      | .answer a l _ _ _ => a == agent.val && l == line.toNat
      | _ => false) with
  | some (.answer _ _ a fwd d, s) =>
    (match s.txnFor agent line.toNat with
    | some t => .next (was.orStall ((s.answered t agent line.toNat a fwd d).afterTxn t.line))
    | none => .next s)
  | _ => .next was

/-! ## Grants and ends (R374) -/

/-- The line a requester holds after its grant: the data that came, or its own copy's, with its write merged in. Data
brings the request's context with it; a grant without data leaves the copy its own (R364). -/
def grantedLine (o : Outstanding) (g : Grant) (own : Option CacheLine) (d : Option LineData) : CacheLine :=
  let w := o.written ((d.or (own.map (·.moved))).getD ⟨0, []⟩)
  let st := match g with
    | .e => LineState.e
    | .f => LineState.f
    | .m => LineState.m
  let tag := match own, d with
    | some c, none => c.ctx
    | _, _ => o.req.ctx
  ⟨st, tag, w.bits, w.err, (own.map (·.cores)).getD []⟩

/-- A requester takes a grant: it makes room for a line it does not hold, takes the state, and sends CMP_ACK. -/
def State.takeGrant (s : State) (agent line : Nat) (o : Outstanding) (g : Grant) (d : Option LineData) : State :=
  let own := s.copy agent line
  let s := if own.isNone then s.makeRoom agent line else s
  ((s.setCopy agent line (some (grantedLine o g own d))).dropOut agent line).coSend (.cmpAck agent line)

/-- COH_DATA_GRANT (R374): data and grant reach the requester; it takes the state and sends CMP_ACK. A grant of no state
ends the request. DEDUCED, log 2. -/
def execCohDataGrant (agent : Fin 128) (line : LineNo) (was : State) : Host.Outcome State Fault Refusal :=
  let a := agent.val
  let l := line.toNat
  let d := was.coTake (fun m => match m with
    | .data _ x y _ => x == a && y == l
    | _ => false)
  let s := (d.map (·.2)).getD was
  match s.coTake (fun m => match m with
      | .grant x y _ _ => x == a && y == l
      | _ => false), s.outstanding a l with
  | some (.grant _ _ g needs, t), some o =>
    (match needs, d, g with
    | true, none, _ => .next was
    | _, some (.data _ _ _ d, _), some g => .next (was.orStall (t.takeGrant a l o g (some d)))
    | _, _, some g => .next (was.orStall (t.takeGrant a l o g none))
    | _, _, none => .next (t.dropOut a l))
  | _, _ => .next was

/-- CMP_ACK (R374): the transaction ends, and aged requests for the line are served. -/
def execCmpAck (agent : Fin 128) (line : LineNo) (s : State) : Host.Outcome State Fault Refusal :=
  match s.coTake (fun m => m == .cmpAck agent line.toNat) with
  | none => .next s
  | some (_, t) => .next (s.orStall ((t.endTxn line.toNat).afterTxn line.toNat))

/-! ## Retry (R380) -/

/-- NACK (R380): the requester waits min(n, 8) × 40 ns. -/
def execNack (agent : Fin 128) (line : LineNo) (s : State) : Host.Outcome State Fault Refusal :=
  match s.coTake (fun m => match m with
      | .nack a l _ => a == agent.val && l == line.toNat
      | _ => false) with
  | none => .next s
  | some (_, s) =>
    .next (s.mapOut agent line.toNat (fun o =>
      { o with nacks := o.nacks + 1, retryAt := some (s.now + BitVec.ofNat 64 (min (o.nacks + 1) 8 * 40 * 65536)) }))

/-- NACK_RETRY (R380): a request whose wait is over is sent again, aged after the 16th NACK. -/
def execNackRetry (agent : Fin 128) (line : LineNo) (s : State) : Host.Outcome State Fault Refusal :=
  match s.dueRetry agent line.toNat with
  | none => .next s
  | some e =>
    if s.arbiterMode then (if 4096 ≤ s.coh.arbQ.length then .next s else .next (s.orStall ((s.resend e.2).arbArrive e.1 e.2)))
    else .next (s.orStall ((s.resend e.2).homeArrive e.1 e.2 false).2)

/-! ## Arbiter mode (R385 to R388) -/

/-- ARBITER_FORWARD (R385): the first waiting request whose line has no transaction in progress goes to its home, which
refuses nothing for BUSY. -/
def execArbiterForward (was : State) : Host.Outcome State Fault Refusal :=
  match was.coh.arbQ.find? (fun e => !was.txnBusy e.2.line.toNat) with
  | none => .next was
  | some e =>
    if !was.works (locHost 8 0) then .next was
    else
      let s := { was with coh := { was.coh with arbQ := was.coh.arbQ.erase e } }
      let s := s.addFld (R.cohArbCnt 4) F.cohArbCnt_COUNT 1
      match s.cohCheck e.1 e.2 with
      | (false, s) => .next s
      | (true, s) =>
        if (s.freeSlot e.2.line.toNat).isNone then .next (was.orStall (s.nackCoh e.2 .slots))
        else if e.1.grants && s.noWay e.2.line.toNat then .next (was.orStall (s.nackCoh e.2 .dirSet))
        else .next (was.orStall (s.acceptCoh e.1 e.2))

/-- COH_MODE_WRITE (R386): a mode change starts; only keeper firmware writes the field. A write
while one is in progress, or of 1 while DIR_READY is 0 (R538), is ignored. -/
def execCohModeWrite (a : Agent) (mode : Bool) (s : State) : Host.Outcome State Fault Refusal :=
  if s.pageDead .coh 4 then .next s
  else if !fwAllowed a .coh then .next (s.denied a (R.cohCtl 4))
  else if s.bit (R.cohSts 4) F.cohSts_SWITCHING || (mode && !s.bit R.pkgSts F.pkgSts_DIR_READY) then .next s
  else
    let s := (s.setFld (R.cohCtl 4) F.cohCtl_MODE (bitNat mode)).setFld (R.cohSts 4) F.cohSts_SWITCHING 1
    .next { s with coh := { s.coh with switchTo := some mode } }

/-- MODE_SWITCH_DONE (R386): every transaction has ended, and no request waits at the arbiter or in an age queue.
DEDUCED, log 58. -/
def execModeSwitchDone (s : State) : Host.Outcome State Fault Refusal :=
  match s.coh.switchTo with
  | none => .next s
  | some m =>
    if s.coh.txns.isEmpty && s.coh.ageQ.isEmpty && s.coh.arbQ.isEmpty then
      let s := (s.setFld (R.cohSts 4) F.cohSts_MODE_CUR (bitNat m)).setFld (R.cohSts 4) F.cohSts_SWITCHING 0
      .next (({ s with coh := { s.coh with switchTo := none } }).raise .coh 4 1)
    else .next s

/-- DIR_INIT (R388): the rebuild of one controller's directory starts; ignored in DIRECTORY mode or while it is busy. -/
def execDirInit (a : Agent) (die : Fin 4) (home : Fin 4) (s : State) : Host.Outcome State Fault Refusal :=
  if s.pageDead .coh die then .next s
  else if !fwAllowed a .coh then .next (s.denied a (R.cohDirInit die))
  else
    let s := (s.setFld (R.cohDirInit die) F.cohDirInit_HOME home).setFld (R.cohDirInit die) F.cohDirInit_GO 1
    if !s.arbiterMode || s.regBit (R.cohSts die) (2 + home) then .next s
    else .next (s.setBit (R.cohSts die) (2 + home) true)

/-- DIR_INIT_DONE (R388): every cache has written back and dropped the controller's lines, every entry is UNCACHED, and
DIR_BUSY clears. DEDUCED, log 58. -/
def execDirInitDone (die : Fin 4) (home : Fin 4) (s : State) : Host.Outcome State Fault Refusal :=
  let mine := fun (l : Nat) => homeOf l == (die.val, home.val)
  if !s.regBit (R.cohSts die) (2 + home) || s.coh.txns.any (fun t => mine t.line) then .next s
  else
    let s := s.flushLines mine
    let s := { s with coh := { s.coh with dir := s.coh.dir.filter (fun e => !mine e.1)
                                          dirErr := s.coh.dirErr.filter (fun e => !mine e.1)
                                          dirUse := s.coh.dirUse.filter (fun l => !mine l) } }
    .next (s.setBit (R.cohSts die) (2 + home) false)

end Sys2Proof.Machine
end

