-- ==== Sys2Proof/Machine/Contexts.lean ====
section
/-! DEFINITION. The context commands (R286 to R303) and task placement (R304 to R307): CTX_CMD, residency, preemption and
its save area, the deadline monitor, decision points, and the loading of command blocks. -/

namespace Sys2Proof.Machine

/-! ## CTX_CMD (R286, R313, R675) -/

/-- The partition number in force of a region (R32). -/
def State.partOf (s : State) (r : Nat) : Nat := natBits (s.reg (R.pkgPartCur (r / 8))).toNat (8 * (r % 8) + 4) (8 * (r % 8))

/-- Whether a region set is exactly the regions of one partition in force (R31, R286). -/
def State.isPartition (s : State) (regions : Nat) : Bool :=
  (List.range 32).any (fun p =>
    (List.range 32).all (fun r => natBit regions r == (s.partOf r == p)) && regions != 0)

/-- The register effect of a CTX_CMD write: CTX and CMD of CTX_CMD_STS take the written values. -/
def State.cmdSeen (s : State) (ctx cmd : Nat) : State :=
  (s.setFld R.pkgCtxCmdSts F.pkgCtxCmdSts_CTX ctx).setFld R.pkgCtxCmdSts F.pkgCtxCmdSts_CMD cmd

/-- A CTX_CMD that is refused: RESULT 1, CTX_DONE, nothing else. -/
def State.cmdRefused (s : State) (ctx cmd : Nat) : State := (s.cmdSeen ctx cmd).cmdEnd 1

/-- A CTX_CMD write: ignored while BUSY is 1 or while the PKG page is in reset; refused unless `ok`; otherwise `eff`. -/
def State.ctxCmd (s : State) (ctx cmd : Nat) (ok : Bool) (eff : State → State) : State :=
  if s.bit R.pkgCtxCmdSts F.pkgCtxCmdSts_BUSY || s.pageInReset .pkg 0 then s
  else if ok then eff (s.cmdSeen ctx cmd) else s.cmdRefused ctx cmd

/-- BUSY is set: the command is in progress. -/
def State.cmdStart (s : State) : State := s.setFld R.pkgCtxCmdSts F.pkgCtxCmdSts_BUSY 1

/-- START (R286): FREE to RUNNING when the entry is VALID and REGIONS names one partition in force. An entry that no memory
answers is recorded, and one on an unavailable stack cannot be read (R68, R316). -/
def execStart (_a : Agent) (ctx : CtxId) (s : State) : Host.Outcome State Fault Refusal :=
  let c := ctx.toNat
  let q0 := s.ctxQ c 0
  let s := if s.bit R.pkgCtxCmdSts F.pkgCtxCmdSts_BUSY || s.pageInReset .pkg 0 then s else s.sysMet 4 (s.ctxEntry c) (locHost 8 0)
  .next (s.ctxCmd c 1 ((s.ctxSt c).state == 0 && natBit q0 0 && !s.stackGone (s.ctxEntry c) && s.isPartition (natBits q0 63 32))
    (fun s => (s.setCtx c { CtxSt.free with state := 1, since := s.now }).cmdEnd 0))

/-- The units where a context is resident or has a non-empty command queue. -/
def State.activeUnits (s : State) (ctx : Nat) : List Nat :=
  (s.ctxUnits ctx).filter (fun u => s.resident u == some ctx || (s.cmdQueues u ctx).any (fun q => s.qCount u q != 0))

/-- PREEMPT (R292): RUNNING to PREEMPTING; REST_REQ on the context's units. -/
def execPreempt (_a : Agent) (ctx : CtxId) (s : State) : Host.Outcome State Fault Refusal :=
  let c := ctx.toNat
  .next (s.ctxCmd c 2 ((s.ctxSt c).state == 1) (fun s =>
    let s := (s.activeUnits c).foldl (fun s u => s.setFld (R.unitRes u) F.unitRes_REST_REQ 1) s
    (s.setCtx c { s.ctxSt c with state := 2, saved := [], since := s.now }).cmdStart))

/-- KILL (R289): the context is torn down with CAUSE ABORTED and the location of the package bus arbiter. -/
def execKill (_a : Agent) (ctx : CtxId) (s : State) : Host.Outcome State Fault Refusal :=
  let c := ctx.toNat
  .next (s.ctxCmd c 4 (s.ctxAlive c) (fun s => (s.beginTeardown c 0x29 0x8008).cmdStart))

/-- RELEASE (R286): DOWN to FREE. -/
def execRelease (_a : Agent) (ctx : CtxId) (s : State) : Host.Outcome State Fault Refusal :=
  let c := ctx.toNat
  .next (s.ctxCmd c 5 ((s.ctxSt c).state == 6) (fun s => (s.setCtx c CtxSt.free).cmdEnd 0))

/-! ## Teardown (R289, R290) -/

/-- CONTEXT_FAULT (R290): the faults of one cycle, in ascending order of location code; the first of a context tears it
down. -/
def execContextFault (faults : List CtxFault) (s : State) : Host.Outcome State Fault Refusal :=
  .next ((sortBy (fun a b => decide (a.loc.toNat ≤ b.loc.toNat)) faults).foldl
    (fun s f => s.ctxFault f.ctx.toNat f.status.toNat f.loc) s)

/-- TEARDOWN_COMPLETE (R289 step 6, R590, R675): DOWN, CAUSE and LOC written, CTX_DOWN, the CTX_TEARDOWN record, and the
end of a command the teardown ended. DEDUCED, log 47. -/
def execTeardownComplete (ctx : CtxId) (s : State) : Host.Outcome State Fault Refusal :=
  let c := ctx.toNat
  let x := s.ctxSt c
  if x.state ≠ 5 then .next s
  else
    let s := s.record { page := .pkg, inst := 0, sev := if x.uncorr then 2 else 0, code := 0xA,
                        loc := BitVec.ofNat 16 x.loc, ctx := some c, syn := x.cause, reqLoc := x.loc }
    let s := (s.setCtx c { x with state := 6 }).raise .pkg 0 1
    if s.cmdBusy c 4 then .next (s.cmdEnd 0)
    else if s.cmdBusy c 2 || s.cmdBusy c 3 then .next (s.cmdEnd 3)
    else .next s

/-! ## Residency (R287, R288) -/

/-- Whether the resident context of a unit may be replaced: it is PREEMPTED, DOWN or FREE, or its command queues on the unit
are empty with nothing in flight and no ring slot has it as its hop unit (R466). DEDUCED, log 49. -/
def State.mayLeave (s : State) (u ctx : Nat) : Bool :=
  let st := (s.ctxSt ctx).state
  st == 3 || st == 6 || st == 0 || (!s.isHopUnit u && (s.cmdQueues u ctx).all (fun q => s.qCount u q == 0 && s.qDrained u q))

/-- The unit's private memories become zero and its tags empty (R288). -/
def State.clearUnit (s : State) (u : Nat) : State :=
  let s := (s.clearSpad u).clearAcc u
  (List.range 16).foldl (fun s e => s.setReg (R.unitTag u e) 0) s

/-- A context becomes resident on a unit; the unit is cleared first where another context was resident. -/
def State.makeResident (s : State) (u ctx : Nat) : State :=
  let s := if s.resident u = some ctx then s else if s.resident u = none ∧ s.fld (R.unitRes u) F.unitRes_CTX = ctx then s else s.clearUnit u
  let s := s.setFld (R.unitRes u) F.unitRes_CTX ctx
  (s.setFld (R.unitRes u) F.unitRes_RESIDENT 1).setFld (R.unitRes u) F.unitRes_IS_AT_REST 0

/-- The contexts with a non-empty command queue on a unit. -/
def State.wanting (s : State) (u : Nat) : List Nat :=
  ((List.range 128).filter (fun q => s.qEn u q && s.qKind u q == 0 && s.qCount u q != 0)).map (fun q => s.qCtx u q)

/-- The RUNNING context of lowest ID that has work on a unit. A context occupies only units of its partition's regions (R30).
DEDUCED, log 49. -/
def State.nextResident (s : State) (u : Nat) : Option Nat :=
  ((s.wanting u).filter (fun c => (s.ctxSt c).state == 1 && s.ctxHasRegion c (unitRegion u))).min?

/-- RESIDENCY_CHANGE (R287). -/
def execResidencyChange (u : Fin 1024) (s : State) : Host.Outcome State Fault Refusal :=
  match s.resident u, s.nextResident u with
  | some c, some n => if s.mayLeave u c then .next (s.makeResident u n) else .next s
  | none, some n => .next (s.makeResident u n)
  | some c, none =>
    if (s.ctxSt c).state = 3 ∨ (s.ctxSt c).state = 6 ∨ (s.ctxSt c).state = 0 then .next (s.setFld (R.unitRes u) F.unitRes_RESIDENT 0)
    else .next s
  | none, none => .next s

/-! ## Preemption (R292 to R299) -/

/-- REST_ID a is higher than b in their half range (R293). -/
def restHigher (a b : Nat) : Bool :=
  let d := (a + 65536 - b % 65536) % 65536
  decide (1 ≤ d) && decide (d < 32768)

/-- A stopped queue issues again. -/
def State.unstop (s : State) (u q : Nat) : State :=
  ({ s with sch := { s.sch with stops := eraseKey s.sch.stops (queueId u q) } }).settleQ u q

/-- The highest of some REST_IDs. -/
def topRest (ids : List Nat) : Option Nat := ids.find? (fun n => ids.all (fun m => m == n || restHigher n m))

/-- Where queues of a context are stopped at different REST_IDs, those at lower IDs resume, to stop again after their REST
command with the highest (R293). In W0 mode REST flags are ignored (R296). -/
def State.resumeLower (s : State) (u ctx : Nat) : State :=
  match s.w0Mode ctx, topRest (s.restIds u ctx) with
  | false, some top =>
    (s.cmdQueues u ctx).foldl (fun s q =>
      match lookupKey s.sch.stops (queueId u q) with
      | some (.rest n) => if restHigher top n then s.stopQ u q (.toward top) else s
      | _ => s) s
  | _, _ => s

/-- UNIT_AT_REST (R293): a unit at rest sets AT_REST; otherwise queues stopped at lower REST_IDs resume. -/
def execUnitAtRest (u : Fin 1024) (s : State) : Host.Outcome State Fault Refusal :=
  match s.resident u with
  | none => .next s
  | some c =>
    if (s.ctxSt c).state ≠ 2 || !s.bit (R.unitRes u) F.unitRes_REST_REQ then .next s
    else if s.unitResting u c then
      if s.bit (R.unitRes u) F.unitRes_IS_AT_REST then .next s
      else .next ((s.setFld (R.unitRes u) F.unitRes_IS_AT_REST 1).raise .unit u 1)
    else .next ((s.resumeLower u c).leaveRest u)

/-- The image of a unit's registers in the save area (R295): queues, credit lines and tags of the context. -/
def State.saveImage (s : State) (u ctx : Nat) : List Byte :=
  let qs := (List.range 128).flatMap (fun q =>
    if s.qEn u q && s.qCtx u q == ctx then natToBytes 8 (s.reg (R.unitQCfg u q)).toNat ++ natToBytes 8 (s.reg (R.unitQPtr u q)).toNat
    else List.replicate 16 0)
  let ls := (List.range 32).flatMap (fun n =>
    if s.crlValid u n && s.fld (R.unitCrl u n) F.unitCrl_CTX == ctx then natToBytes 8 (s.reg (R.unitCrl u n)).toNat
    else List.replicate 8 0)
  let ts := (List.range 16).flatMap (fun e => natToBytes 8 (s.reg (R.unitTag u e)).toNat)
  qs ++ ls ++ ts ++ List.replicate 0x680 0

/-- SAVE_VA of a context. -/
def State.saveVa (s : State) (ctx : Nat) : Nat := natBits (s.ctxQ ctx 6) 47 12 * 4096

/-- PREEMPT_TBL of a context. -/
def State.preemptTbl (s : State) (ctx : Nat) : Nat := natBits (s.ctxQ ctx 5) 47 4 * 16

/-- Scratchpad bytes take values; words covered whole lose their errors. -/
def State.putSpad (s : State) (u ofs : Nat) (bs : List Byte) : State :=
  let s := { s with spad := (bs.zipIdx).foldl (fun (m : List Host.Cell) (e : Byte × Nat) => Sparse.set id 0 m (spadKey u (ofs + e.2)) e.1) s.spad }
  let a := spadKey u ofs
  { s with errs := s.errs.filter (fun e => !(decide (2 ^ 60 ≤ e.1) && decide (e.1 < 2 ^ 61)
      && decide (a ≤ 8 * (e.1 - 2 ^ 60)) && decide (8 * (e.1 - 2 ^ 60) + 8 ≤ a + bs.length))) }

/-- The image of a slot's 1,024 accord entries, 80 bytes each (R115), as they are used. -/
def State.slotBytes (s : State) (u slot : Nat) : List Byte :=
  (List.range 1024).flatMap (fun e => natToBytes 80 (s.accWord u (slot * 1024 + e)).toNat)

/-- A slot's entries take an image. -/
def State.putSlot (s : State) (u slot : Nat) (bs : List Byte) : State :=
  { s with acc := (List.range 1024).foldl (fun (m : List (Nat × AccWord)) (e : Nat) =>
      Sparse.set id 0 m (accKey u (slot * 1024 + e)) (BitVec.ofNat 640 (bytesToNat ((bs.drop (80 * e)).take 80)))) s.acc }

/-- The requester of a save or restore: the warden core of the unit's region. -/
def wardenLoc (u : Nat) : Loc := locRegion (unitRegion u) 0x10

/-- The status with which a save's or restore's access that fails faults the context (R295): it never parks. None where it
waits for a line, a link or an outbound read. -/
def MemFail.status : MemFail → Option Status
  | .fatal st => some st
  | .notPresent _ _ => some .translation
  | _ => none

/-! ## Requests of a warden core (R295, R300, R306), which may reach an outbound window (R412) -/

/-- Bytes that an outbound read has brought to a warden core. -/
def State.wardenGot (s : State) (r p pa : Nat) : Option (List Byte) := lookupKey s.host.wread ((r * 4 + p) * 2 ^ 64 + pa)

/-- A warden core's read of up to one page under a context. One that lies in an outbound window waits for its data.
DEDUCED, log 92. -/
def State.wardenCtxRead (s : State) (u ctx va n : Nat) (a : AccessKind) : Except MemFail (List Byte) × State :=
  let r := unitRegion u
  match s.ctxRead (unitCluster u) ctx va n a (wardenLoc u) with
  | (.error (.outbound p pa), s) =>
    let addr := s.outAddr p pa
    (match s.wardenGot r p addr with
    | some bs => (.ok bs, s)
    | none =>
      if !s.outOpen p || (s.pport p).outR.any (fun x => x.owner = .warden r) then (.error .busy, s)
      else (.error .busy, s.outRead p addr n (.warden r) (some (ctx, va))))
  | x => x

/-- A warden core's read of a range, page by page. -/
def State.wardenSpan (s : State) (u ctx : Nat) : Nat → Nat → Nat → Except MemFail (List Byte) × State
  | 0, _, _ => (.ok [], s)
  | fuel + 1, va, len =>
    if len = 0 then (.ok [], s)
    else
      let n := min len (4096 - va % 4096)
      match s.wardenCtxRead u ctx va n .read with
      | (.error e, s) => (.error e, s)
      | (.ok bs, s) =>
        match State.wardenSpan s u ctx fuel (va + n) (len - n) with
        | (.error e, s) => (.error e, s)
        | (.ok r, s) => (.ok (bs ++ r), s)

/-- A warden core's write of a range under a context, page by page; a page in an outbound window leaves by its port. -/
def State.wardenPut (s : State) (u ctx : Nat) : Nat → Nat → List Byte → Except MemFail Unit × State
  | 0, _, _ => (.ok (), s)
  | fuel + 1, va, bs =>
    if bs.isEmpty then (.ok (), s)
    else
      let n := min bs.length (4096 - va % 4096)
      match s.ctxWrite (unitCluster u) ctx va (bs.take n) (wardenLoc u) with
      | (.error (.outbound p pa), s) =>
        if s.outOpen p then
          State.wardenPut (s.outWrite p pa (bs.take n) false (.warden (unitRegion u)) (some (ctx, va))) u ctx fuel (va + n) (bs.drop n)
        else (.error .busy, s)
      | (.error e, s) => (.error e, s)
      | (.ok _, s) => State.wardenPut s u ctx fuel (va + n) (bs.drop n)

/-- Whether a warden core's outbound writes are all acknowledged. -/
def State.wardenQuiet (s : State) (u : Nat) : Bool :=
  (List.range 4).all (fun p => (s.pport p).outW.all (fun w => w.owner != .warden (unitRegion u)))

/-- The bytes that outbound reads brought to a warden core are used up. -/
def State.wardenUsed (s : State) (u : Nat) : State :=
  { s with host := { s.host with wread := s.host.wread.filter (fun e => e.1 / 2 ^ 66 != unitRegion u) } }

/-- One entry of the preemption table: whether it matches, and what it lists. -/
structure PreemptEntry where
  restId : Nat
  kind : Nat
  unit : Nat
  ofs : Nat
  len : Nat
  save : Nat

/-- A table entry from its 16 bytes (R294). -/
def preemptEntry (bs : List Byte) : PreemptEntry :=
  let a := bytesToNat (bs.take 8)
  let b := bytesToNat (bs.drop 8)
  ⟨natBits a 15 0, natBits a 17 16, natBits a 27 18, natBits a 48 28, natBits a 63 49 * 64, natBits b 47 0⟩

/-- The pieces of a unit's memories that an entry names, each with its place in the saved copy: a range, or slots in
ascending order of 81,920 bytes each. -/
def PreemptEntry.slots (e : PreemptEntry) : List Nat := (List.range 8).filter (fun k => natBit e.ofs k)

/-- A table entry's data is copied out to SAVE; an uncorrectable word of it fails (R295, R578). -/
def State.saveEntry (s : State) (u ctx : Nat) (e : PreemptEntry) : Except MemFail Unit × State :=
  let met := if e.kind = 0 then s.spadConsume u [(e.ofs, e.len)] ctx (wardenLoc u)
    else s.accConsume u (e.slots.flatMap (fun k => (List.range 1024).map (k * 1024 + ·))) ctx (wardenLoc u)
  match met with
  | (true, s) => (.error (.fatal .uncorrectable), s)
  | (false, s) =>
    let bs := if e.kind = 0 then s.spadBytes u e.ofs e.len else e.slots.flatMap (fun k => s.slotBytes u k)
    s.wardenPut u ctx (bs.length + 1) e.save bs

/-- A table entry's data is copied back from SAVE. -/
def State.loadEntry (s : State) (u ctx : Nat) (e : PreemptEntry) : Except MemFail Unit × State :=
  let n := if e.kind = 0 then e.len else e.slots.length * 81920
  match s.wardenSpan u ctx (n + 1) e.save n with
  | (.error f, s) => (.error f, s)
  | (.ok bs, s) =>
    if e.kind = 0 then (.ok (), s.putSpad u e.ofs bs)
    else (.ok (), (e.slots.zipIdx).foldl (fun s p => s.putSlot u p.1 (bs.drop (81920 * p.2))) s)

/-- The table is walked to its end entry; entries of rest point `n` and unit `u` are acted on (R294, R295). -/
def State.walkTable (s : State) (u ctx n : Nat) (act : State → PreemptEntry → Except MemFail Unit × State) :
    Nat → Nat → Except MemFail Unit × State
  | 0, _ => (.ok (), s)
  | fuel + 1, va =>
    match s.wardenCtxRead u ctx va 16 .read with
    | (.error f, s) => (.error f, s)
    | (.ok bs, s) =>
      let e := preemptEntry bs
      if e.kind = 3 then (.ok (), s)
      else if e.kind = 2 then (.error (.fatal .fieldValue), s)
      else if e.restId = n ∧ e.unit = u then
        match act s e with
        | (.error f, s) => (.error f, s)
        | (.ok _, s) => State.walkTable s u ctx n act fuel (va + 16)
      else State.walkTable s u ctx n act fuel (va + 16)

/-- The entries a preemption table can hold: one for each 16 bytes of device space. -/
def tableFuel : Nat := 2 ^ 44

/-- A save's or restore's access that was not performed: it faults the context, or the whole unit is tried again; an outbound
read sent for it, and what came for it before, stay. -/
def State.wardenFailed (was : State) (ctx u : Nat) (f : MemFail) (s : State) : State :=
  match f.status with
  | some st => (s.wardenUsed u).ctxFault ctx st.code (wardenLoc u)
  | none => { was with pcie := s.pcie }

/-- PREEMPT_SAVE (R295, R296): with every unit of the context at rest, one unit's area and its live ranges are written. -/
def execPreemptSave (ctx : CtxId) (u : Fin 1024) (s : State) : Host.Outcome State Fault Refusal :=
  let c := ctx.toNat
  let x := s.ctxSt c
  let us := s.activeUnits c
  if x.state ≠ 2 || !us.contains u || x.saved.contains u || !us.all (fun v => s.unitResting v c) then .next s
  else
    let was := s
    let s := (s.cmdQueues u c).foldl (fun s q => s.unfetch u q) s
    let n := (s.restIds u c).headD (s.fld (R.unitRes u) F.unitRes_LAST_REST)
    let area := s.wardenPut u c 4 (s.saveVa c + u * 4096) (s.saveImage u c)
    let r := match area with
      | (.ok _, s) => if s.w0Mode c then (Except.ok (), s) else s.walkTable u c n (fun s e => s.saveEntry u c e) tableFuel (s.preemptTbl c)
      | e => e
    match r with
    | (.error f, s) => .next (was.wardenFailed c u f s)
    | (.ok _, s) => .next ((s.wardenUsed u).setCtx c { x with saved := x.saved ++ [u.val], rests := insertKey x.rests u n })

/-- PREEMPT_SAVE_DONE (R286): every unit has been saved and every write performed; the context is PREEMPTED. -/
def execPreemptSaveDone (ctx : CtxId) (s : State) : Host.Outcome State Fault Refusal :=
  let c := ctx.toNat
  let x := s.ctxSt c
  if x.state = 2 ∧ (s.activeUnits c).all (fun u => x.saved.contains u && s.wardenQuiet u) then
    .next ((s.setCtx c { x with state := 3 }).cmdEnd 0)
  else .next s

/-- REST_REQ and the rest flag clear on a context's units and its queues stopped for rest issue again (R298, R299); a queue of
an unavailable unit stays stopped. -/
def State.endRest (s : State) (ctx : Nat) : State :=
  (s.ctxUnits ctx).foldl (fun s u =>
    let s := (s.setFld (R.unitRes u) F.unitRes_REST_REQ 0).setFld (R.unitRes u) F.unitRes_IS_AT_REST 0
    (s.cmdQueues u ctx).foldl (fun s q =>
      match lookupKey s.sch.stops (queueId u q) with
      | some (.decide _ _) => s
      | some _ => if s.unitAvail u then s.unstop u q else s
      | none => s) s) s

/-- PREEMPT_TIMEOUT (R298): not saved within PREEMPT_LIMIT, the context returns to RUNNING with RESULT 2. -/
def execPreemptTimeout (ctx : CtxId) (s : State) : Host.Outcome State Fault Refusal :=
  let c := ctx.toNat
  let x := s.ctxSt c
  if x.state = 2 ∧ s.elapsedNs x.since > s.fld R.pkgPreemptLimit F.pkgPreemptLimit_LIMIT_US * 1000 then
    .next (((s.endRest c).setCtx c { x with state := 1, saved := [] }).cmdEnd 2)
  else .next s

/-- Whether a queue still is what its saved image says: enabled, of its kind and bound to its context. -/
def State.queueKept (s : State) (u q : Nat) (cfg : Word) : Bool :=
  s.qEn u q && s.qKind u q == F.unitQCfg_KIND.get cfg && s.qCtx u q == F.unitQCfg_CTX.get cfg

/-- A unit's registers take their saved images (R299): queues, credit lines and tags. What has arrived in a queue of KIND 1 to
3, or come back to a credit line, while the context was out stays: the sentence after R299 has its token queues keep
filling. An image that is not of this context, or of a queue or line that another context holds now, is passed over.
DEDUCED, log 47. -/
def State.loadImage (s : State) (u ctx : Nat) (bs : List Byte) : State :=
  let w := fun o => BitVec.ofNat 64 (bytesToNat ((bs.drop o).take 8))
  let s := (List.range 128).foldl (fun s q =>
    let cfg := w (16 * q)
    if F.unitQCfg_EN.get cfg ≠ 1 ∨ F.unitQCfg_CTX.get cfg ≠ ctx ∨ (s.qEn u q ∧ s.qCtx u q ≠ ctx) then s
    else if F.unitQCfg_KIND.get cfg ≠ 0 ∧ s.queueKept u q cfg then s
    else (s.setReg (R.unitQCfg u q) cfg).setReg (R.unitQPtr u q) (w (16 * q + 8))) s
  let s := (List.range 32).foldl (fun s n =>
    let crl := w (0x800 + 8 * n)
    if F.unitCrl_VALID.get crl ≠ 1 ∨ F.unitCrl_CTX.get crl ≠ ctx ∨ s.crlValid u n then s else s.setReg (R.unitCrl u n) crl) s
  (List.range 16).foldl (fun s e => s.setReg (R.unitTag u e) (w (0x900 + 8 * e))) s

/-- One unit of a context is restored (R299): the unit becomes the context's, its image and its ranges come back.
DEDUCED, log 47. -/
def State.restoreUnit (s : State) (ctx u : Nat) : State :=
  let x := s.ctxSt ctx
  let free := match s.resident u with
    | some c => c == ctx || s.mayLeave u c
    | none => true
  if !free || !s.unitAvail u || !s.ctxHasRegion ctx (unitRegion u) then s
  else
    let was := s
    match s.wardenSpan u ctx 4 (s.saveVa ctx + u * 4096) 4096 with
    | (.error f, s) => was.wardenFailed ctx u f s
    | (.ok bs, s) =>
      let n := (lookupKey x.rests u).getD 0
      let s := (s.makeResident u ctx).loadImage u ctx bs
      let r := if s.w0Mode ctx then (Except.ok (), s)
        else s.walkTable u ctx n (fun s e => s.loadEntry u ctx e) tableFuel (s.preemptTbl ctx)
      match r with
      | (.error f, s) => was.wardenFailed ctx u f s
      | (.ok _, s) => (s.wardenUsed u).setCtx ctx { s.ctxSt ctx with saved := x.saved.filter (· ≠ u) }

/-- Every unit still to be restored whose place is free is restored. -/
def State.restoreAll (s : State) (ctx : Nat) : State :=
  (s.ctxSt ctx).saved.foldl (fun s u => if (s.ctxSt ctx).state = 4 then s.restoreUnit ctx u else s) s

/-- RESUME (R299): PREEMPTED to RESUMING, with every unit that is free restored. DEDUCED, log 47. -/
def execResume (_a : Agent) (ctx : CtxId) (s : State) : Host.Outcome State Fault Refusal :=
  let c := ctx.toNat
  .next (s.ctxCmd c 3 ((s.ctxSt c).state == 3) (fun s =>
    ((s.setCtx c { s.ctxSt c with state := 4 }).cmdStart).restoreAll c))

/-- RESUME_DONE (R299): when every available unit is restored, the queues issue again and the context is RUNNING. -/
def execResumeDone (ctx : CtxId) (s : State) : Host.Outcome State Fault Refusal :=
  let c := ctx.toNat
  if (s.ctxSt c).state ≠ 4 then .next s
  else
    let s := s.restoreAll c
    if (s.ctxSt c).state = 4 ∧ (s.ctxSt c).saved.all (fun u => !s.unitAvail u) then
      .next (((s.endRest c).setCtx c { s.ctxSt c with state := 1, saved := [] }).cmdEnd 0)
    else .next s

/-! ## The deadline monitor (R300 to R303) -/

/-- The units of a context's REGIONS. -/
def State.regionUnits (s : State) (ctx : Nat) : List Nat :=
  let m := s.ctxRegions ctx
  (List.range 1024).filter (fun u => natBit m (u / 32))

/-- DLM_ENABLE (R301, R302): a write of DLM_CFG that sets EN: CTX is bound, T_prev and M_prev are taken, FALLBACK clears,
and the verdicts of the context's units clear. -/
def execDlmEnable (_a : Agent) (r : Fin 32) (cfg : Word) (s : State) : Host.Outcome State Fault Refusal :=
  if s.pageInReset .rgn r || !s.rgnAvail r || F.rgnDlmCfg_EN.get cfg = 0 || s.bit (R.rgnDlmCfg r) F.rgnDlmCfg_EN then .next s
  else
    let c := F.rgnDlmCfg_CTX.get cfg
    let s := s.setReg (R.rgnDlmCfg r) (BitVec.ofNat 64 (c + 2 ^ 12))
    let s := s.setReg (R.rgnDlmPrevT r) (s.nowAt (r / 8))
    let s := s.setReg (R.rgnDlmPrevM r) (s.memWord (s.fld (R.rgnDlmAddr r) F.rgnDlmAddr_ADDR * 8))
    .next ((s.regionUnits c).foldl (fun s u =>
      (s.setFld (R.unitVerdict u) F.unitVerdict_VALID 0).setFld (R.unitVerdict u) F.unitVerdict_SW_VALID 0) s)

/-- The verdict of R301, with the projection where one is computed: (switch, F). -/
def verdictOf (fallback : Bool) (T Tprev : Word) (M Mprev total deadline margin : Nat) : Bool × Nat :=
  if fallback ∨ total ≤ M then (false, 0)
  else if M ≤ Mprev then (true, 0)
  else
    let F := BitVec.ofNat 64 (T.toNat + ceilDiv' ((total - M) * (T - Tprev).toNat) (M - Mprev))
    let bound := BitVec.ofNat 64 deadline - BitVec.ofNat 64 (margin * 1000000 * 65536)
    (decide (0 < cadenceDiff F bound), F.toNat)

/-- A verdict reaches a unit (R302). -/
def State.postVerdict (s : State) (id : Nat) (sw : Bool) (u : Nat) : State :=
  let r := R.unitVerdict u
  let s := ((s.setFld r F.unitVerdict_ID id).setFld r F.unitVerdict_VALID 1).setFld r F.unitVerdict_SWITCH (bitNat sw)
  if sw && !s.bit r F.unitVerdict_SW_VALID then (s.setFld r F.unitVerdict_SW_VALID 1).setFld r F.unitVerdict_SW_ID id else s

/-- The oldest entry of a warden's queue, read under the queue's context. -/
def State.wardenRead (s : State) (u q : Nat) : Except MemFail (BitVec 512) × State :=
  match s.wardenCtxRead u (s.qCtx u q) (s.qEntryVa u q (s.qHead u q)) 64 .read with
  | (.ok bs, s) => (.ok (entryOf bs), s)
  | (.error f, s) => (.error f, s)

/-- The oldest entry of a warden's queue is freed, and its credit returns (R269). -/
def State.wardenFree (s : State) (u q : Nat) : State :=
  let p := (s.wardenUsed u).takeEntry u q
  p.2.freeTaken u [p.1]

/-- Whether an inbox entry is a DEADLINE_CHECK: an ANCHOR with ACTION 0x6 (R300). -/
def isDeadline (e : BitVec 512) : Bool := Ent.opcode e == 0x03 && entBits e 32 3 0 == 6

/-- The warden takes the entries of its inbox in order up to its first DEADLINE_CHECK, which becomes the oldest entry: the
firmware of the region consumes the others (R255), without effect here. None where the inbox has none.
DESIGN CHOICE, log 93. -/
def State.toDeadline (s : State) (u q : Nat) : Nat → Except MemFail (Option (BitVec 512)) × State
  | 0 => (.ok none, s)
  | fuel + 1 =>
    if s.qCount u q = 0 then (.ok none, s)
    else match s.wardenRead u q with
    | (.error f, s) => (.error f, s)
    | (.ok e, s) => if isDeadline e then (.ok (some e), s) else State.toDeadline (s.wardenFree u q) u q fuel

/-- DEADLINE_CHECK (R300 to R302): the lead region's monitor acts on the oldest DEADLINE_CHECK anchor of a warden inbox; one
that R300 does not name is freed without effect. -/
def execDeadlineCheck (r : Fin 32) (u : Fin 32) (q : Fin 128) (s : State) : Host.Outcome State Fault Refusal :=
  let fu := r.val * 32 + u.val
  if !(s.qEn fu q && s.qKind fu q == 2 && s.qCount fu q != 0 && s.unitLive fu) then .next s
  else match s.toDeadline fu q (s.qCount fu q) with
  | (.error (.fatal st), s) => .next (s.ctxFault (s.qCtx fu q) st.code (wardenLoc fu))
  | (.error _, s) => .next s
  | (.ok none, _) => .next s
  | (.ok (some e), s) =>
      let cfg := s.reg (R.rgnDlmCfg r)
      let c := Ent.ctx e
      let lead := findBelow 32 (fun k => s.ctxHasRegion c k)
      if F.rgnDlmCfg_EN.get cfg ≠ 1 ∨ F.rgnDlmCfg_CTX.get cfg ≠ c ∨ lead ≠ some r.val then .next (s.wardenFree fu q)
      else
        let p1 := bvBytes e 48 8
        let id := natBits p1 47 32
        let T := s.nowAt (r / 8)
        let M := s.memWord (s.fld (R.rgnDlmAddr r) F.rgnDlmAddr_ADDR * 8)
        let v := verdictOf (F.rgnDlmCfg_FALLBACK.get cfg == 1) T (s.reg (R.rgnDlmPrevT r)) M.toNat
          (s.reg (R.rgnDlmPrevM r)).toNat (natBits p1 31 0) (bvBytes e 40 8) (natBits p1 63 48)
        let s := (s.regionUnits c).foldl (fun s u => s.postVerdict id v.1 u) s
        let s := if v.1 then s.setFld (R.rgnDlmCfg r) F.rgnDlmCfg_FALLBACK 1 else s
        let s := (s.setReg (R.rgnDlmPrevT r) T).setReg (R.rgnDlmPrevM r) M
        let s := s.setReg (R.rgnDlmProj r) (BitVec.ofNat 64 v.2)
        let s := (s.addFld (R.rgnDlmLast r) F.rgnDlmLast_CHECKS 1).setFld (R.rgnDlmLast r) F.rgnDlmLast_DECIDE_ID id
        .next ((s.setFld (R.rgnDlmLast r) F.rgnDlmLast_SWITCH (bitNat v.1)).wardenFree fu q)

/-- DECISION_RESUME (R303): a queue stopped at decision point n goes on when a verdict at or after n is there, switching to
its fallback when the context switched at n. Under REST_REQ it stays stopped as at a rest point (R292). -/
def execDecisionResume (u : Fin 1024) (q : Fin 128) (s : State) : Host.Outcome State Fault Refusal :=
  let k := queueId u q
  match lookupKey s.sch.stops k with
  | some (.decide n _) =>
    let v := s.reg (R.unitVerdict u)
    if F.unitVerdict_VALID.get v = 1 ∧ (F.unitVerdict_ID.get v + 65536 - n % 65536) % 65536 < 32768 then
      let sw := F.unitVerdict_SW_VALID.get v == 1 && F.unitVerdict_SW_ID.get v == n && s.bit (R.unitQCfg u q) F.unitQCfg_FB_VALID
      let s := if sw then
          let s := (s.setFld (R.unitQPtr u q) F.unitQPtr_HEAD (s.fld (R.unitQCfg u q) F.unitQCfg_FB_IDX)).setFld (R.unitQCfg u q) F.unitQCfg_FB_VALID 0
          { s with sch := { s.sch with heads := eraseKey s.sch.heads k, fbFetch := s.sch.fbFetch ++ [k] } }
        else s
      if s.restStops u (s.qCtx u q) then .next (s.stopQ u q (.rest n))
      else .next (s.unstop u q)
    else .next s
  | _ => .next s

/-! ## Loading command blocks (R304 to R307) -/

/-- Whether a queue may be loaded with a block (R307). -/
def State.tloadOk (s : State) (u lq size count : Nat) : Bool :=
  s.qEn u lq && s.qKind u lq == 0 && s.qCount u lq == 0 && s.qDrained u lq
    && (s.resident u == none || s.resident u == some (s.qCtx u lq))
    && decide (size ≤ 12) && decide (1 ≤ count) && decide (count ≤ ringCapacity size)

/-- The load of R307, as TLOAD0 and TLOAD1 hold it, or TLOAD_REJECT. -/
def State.tload (s : State) (u : Nat) : State :=
  let t0 := s.reg (R.unitTload0 u)
  let t1 := s.reg (R.unitTload1 u)
  let lq := F.unitTload0_LQ.get t0
  let size := F.unitTload0_SIZE.get t0
  let count := F.unitTload1_COUNT.get t1
  if s.tloadOk u lq size count then
    let s := s.setFld (R.unitQBase u lq) F.unitQBase_RING (F.unitTload0_RING.get t0)
    let s := (s.setFld (R.unitQCfg u lq) F.unitQCfg_SIZE size).setFld (R.unitQCfg u lq) F.unitQCfg_NEXT_SEQ (F.unitTload1_NEXT_SEQ.get t1)
    let s := s.setFld (R.unitQCfg u lq) F.unitQCfg_FB_VALID 0
    (s.setFld (R.unitQPtr u lq) F.unitQPtr_HEAD 0).setFld (R.unitQPtr u lq) F.unitQPtr_TAIL count
  else s.raise .unit u 2

/-- TLOAD (R307): a firmware write to TLOAD1. -/
def execTload (a : Agent) (u : Fin 1024) (value : Word) (s : State) : Host.Outcome State Fault Refusal :=
  if s.pageInReset .unit u || !s.unitAvail u then .next s
  else if !fwAllowed a .unit then .next (s.denied a (R.unitTload1 u))
  else
    let s := s.setReg (R.unitTload1 u) (value &&& BitVec.ofNat 64 (2 ^ 36 - 1))
    .next (s.tload u)

/-- The score of a candidate for a task's tags (R305). -/
def State.taskScore (s : State) (u : Nat) (tags : List Nat) : Nat :=
  let hit := fun t => t != 0 && tags.contains t
  let spad := ((List.range 16).map (fun e =>
    let r := s.reg (R.unitTag u e)
    if hit (F.unitTag_TAG.get r) then F.unitTag_LEN64.get r * 64 else 0)).sum
  let wins := ((List.range 128).filter (fun w => hit (Sparse.get 0 s.sch.winTags (unitCluster u * 128 + w)))).length
  2 * spad + 65536 * wins

/-- The best candidate of a region for a task: the highest score, ties to the lowest unit (R305). DEDUCED, log 50. -/
def State.taskWinner (s : State) (r ctx lq : Nat) (tags : List Nat) : Option Nat :=
  let cands := ((List.range 32).map (r * 32 + ·)).filter (fun u =>
    s.unitLive u && s.qEn u lq && s.qKind u lq == 0 && s.qCount u lq == 0 && s.qDrained u lq && s.qCtx u lq == ctx
      && (s.resident u == none || s.resident u == some ctx))
  cands.foldl (fun best u =>
    match best with
    | none => some u
    | some b => if s.taskScore u tags > s.taskScore b tags then some u else some b) none

/-- The smallest ring size whose capacity is at least a count (R306). -/
def sizeFor (count : Nat) : Nat := (findBelow 13 (fun n => ringCapacity n ≥ count)).getD 12

/-- TASK_PLACE (R304 to R306): the TASK entry at the head of a task queue is placed on the best candidate and freed. A block
that is NOT_PRESENT parks the fetch of the queue that is to run it (R341).
DEDUCED, log 50. -/
def execTaskPlace (u : Fin 1024) (q : Fin 128) (s : State) : Host.Outcome State Fault Refusal :=
  if !(s.qEn u q && s.qKind u q == 3 && s.qCount u q != 0 && s.unitLive u) then .next s
  else match s.wardenRead u q with
  | (.error (.fatal st), s) => .next (s.ctxFault (s.qCtx u q) st.code (wardenLoc u))
  | (.error _, s) => .next s
  | (.ok e, s) =>
    let ctx := s.qCtx u q
    let lq := entBits e 28 6 0
    let count := entBits e 24 16 0
    let ring := entBits e 16 47 0
    let tags := (List.range 4).map (fun i => bvBytes e (32 + 4 * i) 4)
    match s.taskWinner (unitRegion u) ctx lq tags with
    | none => .next s
    | some w =>
      if s.qParked w lq then .next s
      else match s.wardenCtxRead w ctx ring 64 .fetch with
      | (.error (.fatal st), s) => .next (s.ctxFault ctx st.code (wardenLoc u))
      | (.error (.notPresent L va), s) =>
        .next (s.parkSeq w lq (.fetch (Fin.ofNat 1024 w) (Fin.ofNat 128 lq)) ctx va .fetch L (s.fld (R.unitQCfg w lq) F.unitQCfg_NEXT_SEQ) 0)
      | (.error _, s) => .next s
      | (.ok bs, s) =>
        let first := entryOf bs
        let s := s.setReg (R.unitTload0 w) (BitVec.ofNat 64 (ring / 64 * 64 + lq * 2 ^ 48 + sizeFor count * 2 ^ 55))
        let s := s.setReg (R.unitTload1 w) (BitVec.ofNat 64 (Ent.seq first + count % 65536 * 2 ^ 20))
        .next ((s.tload w).wardenFree u q)

end Sys2Proof.Machine
end

