-- ==== Sys2Proof/Machine/Dma.lean ====
section
/-! DEFINITION. The DMA commands (R346 to R358): buffers (R281 to R284), endpoints (R349), the checks at issue (R351, R357),
the pieces of a DMA_COPY (R352 to R356), and PREFETCH (R358). -/

namespace Sys2Proof.Machine

/-! ## Endpoints (R349) -/

/-- One side of a DMA_COPY: its kind, its index, its offset and its stride. -/
structure Side where
  kind : Nat
  idx : Nat
  ofs : Nat
  stride : Nat
  deriving DecidableEq, Repr

/-- The source of a DMA_COPY body (R348). -/
def dmaSrc (e : BitVec 512) : Side := ⟨entBits e 16 1 0, entBits e 16 17 2, entBits e 24 47 0, bvBytes e 56 4⟩

/-- The destination of a DMA_COPY body (R348). -/
def dmaDst (e : BitVec 512) : Side := ⟨entBits e 32 1 0, entBits e 32 17 2, entBits e 40 47 0, bvBytes e 60 4⟩

/-- ROW_BYTES. -/
def dmaRowBytes (e : BitVec 512) : Nat := bvBytes e 48 4

/-- ROWS. -/
def dmaRows (e : BitVec 512) : Nat := bvBytes e 52 4

/-- Whether an endpoint word and its offset word have a reserved bit at 1, for the kind the endpoint names. -/
def endpointBad (e : BitVec 512) (o : Nat) : Bool :=
  let idxBad := match entBits e o 1 0 with
    | 1 => entBits e o 17 12 != 0
    | 2 => entBits e o 17 9 != 0
    | _ => false
  let ofsBad := match entBits e o 1 0 with
    | 1 => entBits e (o + 8) 47 21 != 0
    | 2 => entBits e (o + 8) 47 23 != 0
    | _ => false
  entBits e o 63 18 != 0 || entBits e (o + 8) 63 48 != 0 || idxBad || ofsBad

/-- The extent of a side (R350), for counts that are not zero. -/
def Side.extent (d : Side) (rows rb : Nat) : Nat := d.ofs + (rows - 1) * d.stride + rb

/-- Whether a side lies in the context's regions (R351 check 3). -/
def State.sideInRegions (s : State) (ctx : Nat) (d : Side) : Bool :=
  match d.kind with
  | 1 => s.ctxHasRegion ctx (d.idx / 32)
  | 2 => s.ctxHasRegion ctx (d.idx / 4)
  | _ => true

/-- Whether a window of cluster memory is owned by a context (R28, R336). -/
def State.winOwned (s : State) (c w ctx : Nat) : Bool :=
  s.bit (R.cluWin c w) F.cluWin_VALID && s.fld (R.cluWin c w) F.cluWin_CTX == ctx

/-- Whether every window a cluster-memory side's extent touches is owned by the context. -/
def State.sideOwned (s : State) (ctx rows rb : Nat) (d : Side) : Bool :=
  d.kind != 2 || (List.range ((d.extent rows rb - 1) / 65536 + 1 - d.ofs / 65536)).all
    (fun i => s.winOwned d.idx (d.ofs / 65536 + i) ctx)

/-- The checks of R351, in order, with the buffer-table entries of the two sides; a no-op meets checks 1 to 5 only (R350). -/
def State.copyCheck (s : State) (ctx : Nat) (e : BitVec 512) (sb db : Buf) : Option Status :=
  let src := dmaSrc e
  let dst := dmaDst e
  let rows := dmaRows e
  let rb := dmaRowBytes e
  let past := fun (d : Side) (b : Buf) => d.kind == 0 && decide (d.extent rows rb > b.bound)
  let out := fun (d : Side) => (d.kind == 1 && decide (d.extent rows rb > 0x180000)) || (d.kind == 2 && decide (d.extent rows rb > 0x800000))
  if endpointBad e 16 || endpointBad e 32 then some .reservedField
  else if src.kind = 3 ∨ dst.kind = 3 then some .fieldCode
  else if !s.sideInRegions ctx src || !s.sideInRegions ctx dst then some .fieldValue
  else if 1 < rows ∧ dst.stride < rb then some .stride
  else if (src.kind = 0 && !sb.ok false) || (dst.kind = 0 && !db.ok true) then some .buffer
  else if rows = 0 ∨ rb = 0 then none
  else if past src sb || past dst db then some .bounds
  else if out src || out dst then some .spadRange
  else if !s.sideOwned ctx rows rb src || !s.sideOwned ctx rows rb dst then some .ownerMismatch
  else none

/-! ## Channels (R347) -/

/-- The channel that holds a command. -/
def State.chanOf (s : State) (f : Flight) : Option Nat :=
  (s.xl.chans.find? (fun e => e.2.u = f.u ∧ e.2.q = f.q ∧ e.2.seq = f.seq)).map (·.1)

/-- A channel's command changes. -/
def State.setChan (s : State) (k : Nat) (x : Chan) : State := { s with xl := { s.xl with chans := insertKey s.xl.chans k x } }

/-- The issued DMA command of a queue with an opcode whose checks have not been made. -/
def State.dmaCmd (s : State) (u q op : Nat) : Option Flight :=
  s.flight u q (fun f => f.stage == .issued && !f.begun && f.eng == .dma && Ent.opcode f.entry == op)

/-- The buffer-table entry that a DMA command read at issue for its side `i` (R284). -/
def Flight.buf (f : Flight) (i : Nat) : Buf := bufOf (f.bufs.getD i 0)

/-- DMA_COPY (R351): its checks, with the buffer entries it read at issue (R284); then it runs piece by piece on its channel. A
no-op is done (R350, R674). -/
def execDmaCopy (u : Fin 1024) (q : Fin 128) (s : State) : Host.Outcome State Fault Refusal :=
  match s.dmaCmd u q 0x40 with
  | none => .next s
  | some f =>
    match s.copyCheck f.ctx f.entry (f.buf 0) (f.buf 1) with
    | some st => .next (s.failCmd f st (locCluster (unitCluster u) 8))
    | none =>
      if dmaRows f.entry = 0 ∨ dmaRowBytes f.entry = 0 then
        .next (s.setFlight f.u f.q f.seq (fun g => { g with stage := .finished 0 0, begun := true }))
      else match s.chanOf f with
      | some k =>
        let s := s.setFlight f.u f.q f.seq (fun g => { g with begun := true })
        .next (s.setChan k ⟨f.u, f.q, f.seq, f.ctx, f.entry, if (dmaSrc f.entry).kind = 0 then (f.buf 0).base else 0,
          if (dmaDst f.entry).kind = 0 then (f.buf 1).base else 0, 0, none⟩)
      | none => .next s

/-! ## Pieces (R352) -/

/-- The address of a linear index on a side whose byte 0 is at `base`: a device address for a buffer, else an offset. -/
def Side.at (d : Side) (base rb i : Nat) : Nat := base + d.ofs + i / rb * d.stride + i % rb

/-- The bytes before the next cut on a side. -/
def Side.room (d : Side) (a : Nat) : Nat :=
  match d.kind with
  | 0 => 4096 - a % 4096
  | 2 => 65536 - a % 65536
  | _ => 0x180000

/-- The page or window of a side that an address lies in: within one, a piece is not cut. -/
def Side.page (d : Side) (a : Nat) : Nat :=
  match d.kind with
  | 0 => a / 4096
  | 2 => a / 65536
  | _ => 0

/-- The segments of a piece from a linear index on, as linear index and length: a piece goes on from row to row while both
sides stay in the page or window where it began (R352). -/
def Chan.segsFrom (k : Chan) : Nat → Nat → Nat → List (Nat × Nat)
  | 0, _, _ => []
  | fuel + 1, i, n =>
    let rb := dmaRowBytes k.cmd
    let src := dmaSrc k.cmd
    let dst := dmaDst k.cmd
    let sa := src.at k.srcBase rb i
    let da := dst.at k.dstBase rb i
    if n = 0 ∨ dmaRows k.cmd * rb ≤ i ∨ src.page sa ≠ src.page (src.at k.srcBase rb k.pos)
        ∨ dst.page da ≠ dst.page (dst.at k.dstBase rb k.pos) then []
    else
      let m := min n (min (rb - i % rb) (min (src.room sa) (dst.room da)))
      (i, m) :: Chan.segsFrom k fuel (i + m) (n - m)

/-- The segments of the piece at the channel's position: at most 4 KiB. DEDUCED, log 51. -/
def Chan.segs (k : Chan) : List (Nat × Nat) := k.segsFrom 4096 k.pos 4096

/-- The length of the piece at the channel's position. -/
def Chan.pieceLen (k : Chan) : Nat := (k.segs.map (·.2)).sum

/-- Where a piece's side lies once it is translated. -/
inductive At where
  | mem (x : Xlated)
  | spad (u o : Nat)
  | clu (c o : Nat)
  deriving DecidableEq, Repr

/-- A side's piece is translated, where it is a buffer's. -/
def State.locate (s : State) (t ctx : Nat) (d : Side) (a : Nat) (acc : AccessKind) : Except Cause At × State :=
  match d.kind with
  | 1 => (.ok (.spad d.idx a), s)
  | 2 => (.ok (.clu d.idx a), s)
  | _ => match s.translate t ctx a acc with
    | (.ok x, s) => (.ok (.mem x), s)
    | (.error c, s) => (.error c, s)

/-- Where another address of the same page or window lies, from where one lies. -/
def At.move (p : At) (a0 a : Nat) : At :=
  match p with
  | .mem x => .mem { x with pa := x.pa - a0 % 4096 + a % 4096 }
  | .spad u _ => .spad u a
  | .clu c _ => .clu c a

/-- Whether a scratchpad may be reached for a context (R26, R354). -/
def State.spadOpen (s : State) (u ctx : Nat) : Bool := s.unitAvail u && s.resident u == some ctx

/-- Whether traffic between an atomizer and another cluster waits: at a link between their dies (R18 to R20), or for the other
cluster's atomizer, which is in reset (R354). -/
def State.clusterHeld (s : State) (t c : Nat) : Bool := t != c && (s.pathHeld (t / 32) (c / 32) true || s.cluInReset c)

/-- Bytes of a piece are read. -/
def State.atRead (s : State) (t ctx : Nat) (p : At) (n : Nat) (req : Loc) : Except MemFail (List Byte) × State :=
  match p with
  | .mem x => s.xRead t ctx x n req
  | .spad u o =>
    if s.clusterHeld t (unitCluster u) then (.error .busy, s)
    else if !s.spadOpen u ctx then (.error (.fatal .ownerMismatch), s)
    else match s.spadConsume u [(o, n)] ctx req with
      | (true, s) => (.error (.fatal .uncorrectable), s)
      | (false, s) => (.ok (s.spadBytes u o n), s)
  | .clu c o =>
    if s.clusterHeld t c then (.error .busy, s)
    else if !s.winOwned c (o / 65536) ctx then (.error (.fatal .ownerMismatch), s)
    else match s.consume (cluMemAddr c o) n (some ctx) req with
      | (true, s) => (.error (.fatal .uncorrectable), s)
      | (false, s) => (.ok (s.memBytes (cluMemAddr c o) n), s)

/-- Bytes of a piece are written: in another cluster by that cluster's atomizer (R354). -/
def State.atWrite (s : State) (t ctx : Nat) (p : At) (bs : List Byte) (req : Loc) : Except MemFail Unit × State :=
  match p with
  | .mem x => s.xWrite t ctx x bs req
  | .spad u o =>
    if s.clusterHeld t (unitCluster u) then (.error .busy, s)
    else if !s.spadOpen u ctx then (.error (.fatal .ownerMismatch), s)
    else match s.spadWrite u o bs ctx req with
      | (true, s) => (.error (.fatal .uncorrectable), s)
      | (false, s) => (.ok (), s)
  | .clu c o =>
    let a := cluMemAddr c o
    if s.clusterHeld t c then (.error .busy, s)
    else if !s.winOwned c (o / 65536) ctx then (.error (.fatal .ownerMismatch), s)
    else match s.mergeRead a bs.length (some ctx) req with
      | (true, s) => (.error (.fatal .uncorrectable), s)
      | (false, s) => (.ok (), s.storeBytes a bs (some ctx) req)

/-- The segments of a piece are read in order; `p` is where the piece's first byte, at address `a0`, lies. -/
def State.segsRead (s : State) (c : Nat) (k : Chan) (p : At) (a0 : Nat) : List (Nat × Nat) → Except MemFail (List Byte) × State
  | [] => (.ok [], s)
  | (i, n) :: rest =>
    match s.atRead c k.ctx (p.move a0 ((dmaSrc k.cmd).at k.srcBase (dmaRowBytes k.cmd) i)) n (locCluster c 8) with
    | (.error f, s) => (.error f, s)
    | (.ok bs, s) =>
      match State.segsRead s c k p a0 rest with
      | (.error f, s) => (.error f, s)
      | (.ok bs', s) => (.ok (bs ++ bs'), s)

/-- The segments of a piece are written in order. One in an outbound window leaves by its port (R411). -/
def State.segsWrite (s : State) (c : Nat) (k : Chan) (p : At) (a0 : Nat) : List (Nat × Nat) → List Byte → Except MemFail Unit × State
  | [], _ => (.ok (), s)
  | (i, n) :: rest, bs =>
    let a := (dmaDst k.cmd).at k.dstBase (dmaRowBytes k.cmd) i
    match s.atWrite c k.ctx (p.move a0 a) (bs.take n) (locCluster c 8) with
    | (.ok _, s) => State.segsWrite s c k p a0 rest (bs.drop n)
    | (.error (.outbound q pa), s) =>
      if s.outOpen q then
        State.segsWrite (s.outWrite q pa (bs.take n) (s.bit (R.pcieCtl q) F.pcieCtl_RO_EN) (.cmd k.u k.q k.seq) (some (k.ctx, a)))
          c k p a0 rest (bs.drop n)
      else (.error (.outbound q pa), s)
    | (.error f, s) => (.error f, s)

/-- Whether byte `a` of a space lies in rows of `rb` bytes from `start` on. DESIGN CHOICE, log 52. -/
def inRows (a start stride rows rb : Nat) : Bool :=
  decide (start ≤ a) &&
    if stride = 0 then decide (a - start < rb)
    else
      let hi := min (rows - 1) ((a - start) / stride)
      decide (a - start - hi * stride < rb)

/-- The physical page of a context's device page, by its page tables. -/
def State.physPage (s : State) (ctx v : Nat) (a : AccessKind) : Option Nat :=
  match (s.walk ctx (v * 4096) a).res with
  | .ok l => some (l.pa + (v * 4096 - l.va))
  | .error _ => none

/-- The device pages of a copy's source that are one physical page with a device page of its destination. -/
def State.aliases (s : State) (k : Chan) (v : Nat) : List Nat :=
  let src := dmaSrc k.cmd
  let lo := k.srcBase + src.ofs
  let hi := k.srcBase + src.extent (dmaRows k.cmd) (dmaRowBytes k.cmd)
  let p := s.physPage k.ctx v .write
  v :: ((List.range ((hi - 1) / 4096 + 1 - lo / 4096)).map (lo / 4096 + ·)).filter (fun w => p.isSome && s.physPage k.ctx w .read == p)

/-- Whether the byte at a destination address of a copy is also one of its source bytes: in a buffer, by its place in physical
memory (R356). -/
def State.overlaps (s : State) (k : Chan) (a : Nat) : Bool :=
  let src := dmaSrc k.cmd
  let dst := dmaDst k.cmd
  let inSrc := fun a => inRows a (k.srcBase + src.ofs) src.stride (dmaRows k.cmd) (dmaRowBytes k.cmd)
  if src.kind ≠ dst.kind then false
  else if src.kind = 0 then (s.aliases k (a / 4096)).any (fun v => inSrc (v * 4096 + a % 4096))
  else src.idx == dst.idx && inSrc a

/-- The bytes a piece writes: those whose place is also a source byte's are free values (R356). DESIGN CHOICE, log 52. -/
def State.overlapBytes (s : State) (k : Chan) (bs : List Byte) : List Byte × State :=
  if (dmaSrc k.cmd).kind ≠ (dmaDst k.cmd).kind then (bs, s)
  else
    (bs.zipIdx.map (fun b => if s.overlaps k ((dmaDst k.cmd).at k.dstBase (dmaRowBytes k.cmd) (k.pos + b.2))
        then Config.freeByte (s.fresh + b.2) else b.1),
     { s with fresh := s.fresh + bs.length })

/-- The channel's command fails at a piece (R353), or is lost with its host (R422). DEDUCED, log 27. -/
def State.chanFail (s : State) (k : Chan) (code : Nat) : State :=
  match s.flight k.u k.q (fun f => f.seq == k.seq) with
  | some f => s.complete f code 0 (locCluster (unitCluster k.u) 8)
  | none => s

/-- A channel parks with its command (R341); RESTART is the piece's linear index. What an outbound read has brought is read
again when it resumes (R355). -/
def State.chanPark (s : State) (c ch : Nat) (k : Chan) (va : Nat) (a : AccessKind) (level : Nat) : State :=
  let s := s.park (c / 32) (queueId k.u k.q) (.channel (Fin.ofNat 128 c) (Fin.ofNat 16 ch)) k.ctx va a level k.seq k.pos (locCluster c 8)
  let s := (s.setChan (c * 16 + ch) { k with data := none }).settleQ k.u k.q
  let s := s.addFld (R.dmaParkCnt c) F.dmaParkCnt_COUNT 1
  (s.setFld (R.dmaCh c ch) F.dmaCh_PARKED 1).setBit (R.dmaSts c) (16 + ch) true

/-- A side of the channel's piece could not be translated. -/
def State.chanCause (s : State) (c ch : Nat) (k : Chan) (va : Nat) (a : AccessKind) : Cause → State
  | .notPresent L => s.chanPark c ch k va a L
  | _ => s.chanFail k Status.translation.code

/-- A piece has been written: the counters of R647, the position, and the command's end. DEDUCED, log 51. -/
def State.pieceDone (s : State) (c ch n : Nat) (k : Chan) : State :=
  let s := s.addFld (R.dmaBytes c) F.dmaBytes_COUNT n
  let s := s.addFld (R.dmaPieces c) F.dmaPieces_COUNT 1
  let s := s.addFld (R.dmaMoveCyc c) F.dmaMoveCyc_COUNT ((n + 127) / 128)
  let s := s.setChan (c * 16 + ch) { k with pos := k.pos + n, data := none }
  if k.pos + n < dmaRows k.cmd * dmaRowBytes k.cmd then s
  else s.setFlight k.u k.q k.seq (fun g => { g with stage := .finished 0 0 })

/-- The bytes of a piece meet an armed injection on the atomizer's channel buffers (R594): detector 2 of the CLU page. The
result says whether the piece met an uncorrectable word. -/
def State.chanInject (s : State) (c ctx : Nat) : Bool × State := s.bufferStrike .clu c 2 (locCluster c 8) ctx (locCluster c 8)

/-- The write of a piece whose bytes have been read, to where its destination address `da` lies. -/
def State.pieceWrite (s : State) (c ch : Nat) (k : Chan) (dst : At) (da : Nat) (bs : List Byte) (was : State) : State :=
  match s.chanInject c k.ctx with
  | (true, s) => s.chanFail k Status.uncorrectable.code
  | (false, s) =>
    match s.overlapBytes k bs with
    | (bs, s) =>
      match s.segsWrite c k dst da k.segs bs with
      | (.ok _, s) => s.pieceDone c ch bs.length k
      | (.error (.fatal st), s) => s.chanFail k st.code
      | (.error (.outbound _ _), s) => s.chanFail k 0x2A
      | (.error _, _) => was

/-- The outbound reads of a piece, one segment after the other: the bytes brought so far, with the next read sent where none
is under way. -/
def State.fetchSegs (s : State) (k : Chan) (sp : At) (sa : Nat) (q : Nat) (was : State) : State :=
  let got := (k.data.getD []).length
  match k.segs.find? (fun g => g.1 = k.pos + got) with
  | none => was
  | some (i, n) =>
    let a := (dmaSrc k.cmd).at k.srcBase (dmaRowBytes k.cmd) i
    if !s.outOpen q then s.chanFail k 0x2A
    else if (was.pport q).outR.any (fun r => r.owner = .cmd k.u k.q k.seq) then was
    else match sp.move sa a with
      | .mem x => s.outRead q (s.outAddr q x.pa) n (.cmd k.u k.q k.seq) (some (k.ctx, a))
      | _ => was

/-- The next piece of a channel's DMA_COPY: both sides are translated in order, the source is read, the destination
written (R352 to R354). A piece whose line is BUSY or whose outbound read is under way waits. DEDUCED, log 51. -/
def State.piece (s : State) (c ch : Nat) (k : Chan) : State :=
  let rb := dmaRowBytes k.cmd
  let src := dmaSrc k.cmd
  let dst := dmaDst k.cmd
  let sa := src.at k.srcBase rb k.pos
  let da := dst.at k.dstBase rb k.pos
  if (src.kind == 0 && s.walkHeld c k.ctx sa) || (dst.kind == 0 && s.walkHeld c k.ctx da) then s
  else match s.locate c k.ctx src sa .read with
  | (.error e, t) => t.chanCause c ch k sa .read e
  | (.ok sp, t) =>
    match t.locate c k.ctx dst da .write with
    | (.error e, t) => t.chanCause c ch k da .write e
    | (.ok dp, t) =>
      if (k.data.getD []).length = k.pieceLen then t.pieceWrite c ch k dp da (k.data.getD []) s
      else match t.segsRead c k sp sa k.segs with
        | (.ok bs, t) => t.pieceWrite c ch k dp da bs s
        | (.error (.fatal st), t) => t.chanFail k st.code
        | (.error (.outbound q _), t) => t.fetchSegs k sp sa q s
        | (.error _, _) => s

/-- DMA_PIECE (R352): the next piece of a channel's copy that has begun, is not parked and is not done. -/
def execDmaPiece (c : Fin 128) (ch : Fin 16) (s : State) : Host.Outcome State Fault Refusal :=
  match lookupKey s.xl.chans (c.val * 16 + ch.val) with
  | none => .next s
  | some k =>
    match s.flight k.u k.q (fun f => f.seq == k.seq) with
    | some f =>
      if s.running && f.begun && f.stage == .issued && Ent.opcode k.cmd == 0x40 && !s.regBit (R.dmaSts c) (16 + ch) then
        .next (s.movedFaults (s.piece c ch k))
      else .next s
    | none => .next s

/-! ## PREFETCH (R357, R358) -/

/-- The checks of R357, in order, with the buffer-table entry read at issue (R284). -/
def prefetchCheck (e : BitVec 512) (b : Buf) : Option Status :=
  if bodyBad e [(16, 17, 0), (24, 47, 0), (32, 31, 0), (36, 1, 0)] then some .reservedField
  else if entBits e 16 1 0 ≠ 0 then some .fieldCode
  else if !b.ok false then some .buffer
  else if bvBytes e 32 4 = 0 then none
  else if entBits e 24 47 0 + bvBytes e 32 4 > b.bound then some .bounds
  else none

/-- How a prefetch goes on: the pages skipped, or the status it fails with; `busy` where a line is BUSY. -/
inductive Pref where
  | go (skipped : Nat)
  | bad (st : Status)
  | busy

/-- One page of a prefetch: its translation, and the lines of its range that are brought into the region cache.
DEDUCED, log 53. -/
def State.prefetchPage (s : State) (c ctx va len : Nat) (tlb cache : Bool) (skipped : Nat) : Pref × State :=
  let keep := s.xl.tlb
  if s.walkHeld c ctx va then (.busy, s)
  else match s.translate c ctx va .read with
  | (.error (.notPresent _), s) => (.go (skipped + 1), s)
  | (.error _, s) => (.bad .translation, s)
  | (.ok x, s) =>
    let s := if tlb then s else { s with xl := { s.xl with tlb := keep } }
    if !(cache && x.c) || (outPort x.pa).isSome then (.go skipped, s)
    else match s.homeCheck ctx x.pa true (locCluster c 8) with
      | (some st, s) => (.bad st, s)
      | (none, s) =>
        if s.waysBusy x.pa len || s.memHeld (c / 32) x.pa then (.busy, s)
        else (.go skipped, s.cachedFill (fun _ => cacheOfTlb c) cacheDets (some (BitVec.ofNat 12 ctx)) x.pa len)

/-- The pages of a prefetch in ascending order. -/
def State.prefetchPages (s : State) (c ctx : Nat) (tlb cache : Bool) : Nat → Nat → Nat → Nat → Pref × State
  | 0, _, _, skipped => (.go skipped, s)
  | fuel + 1, va, len, skipped =>
    if len = 0 then (.go skipped, s)
    else
      let n := min len (4096 - va % 4096)
      match s.prefetchPage c ctx va n tlb cache skipped with
      | (.go k, s) => State.prefetchPages s c ctx tlb cache fuel (va + n) (len - n) k
      | r => r

/-- PREFETCH (R357, R358): checks, then every page; it is done with the number of pages skipped in its detail.
DEDUCED, log 53. -/
def execPrefetch (u : Fin 1024) (q : Fin 128) (s : State) : Host.Outcome State Fault Refusal :=
  match s.dmaCmd u q 0x42 with
  | none => .next s
  | some f =>
    let c := unitCluster u
    let loc := locCluster c 8
    match prefetchCheck f.entry (f.buf 0) with
    | some st => .next (s.failCmd f st loc)
    | none =>
      let len := bvBytes f.entry 32 4
      let va := (f.buf 0).base + entBits f.entry 24 47 0
      match s.prefetchPages c f.ctx (entBit f.entry 36 0) (entBit f.entry 36 1) (len / 4096 + 2) va len 0 with
      | (.go k, s) => .next (s.setFlight f.u f.q f.seq (fun g => { g with stage := .finished 0 (min k 0xFFFF), begun := true }))
      | (.bad st, s) => .next (s.failCmd f st loc)
      | (.busy, _) => .next s

end Sys2Proof.Machine
end

