-- ==== Sys2Proof/Machine/Functions.lean ====
section
/-! DEFINITION. The functions of the drain's activations (R188) and of the vector engine (R205, R218), each rounded once to
FP32 under RNE. A transcendental value is formed to 384 fraction bits, far beyond what decides a rounding to 24; values
that FP32 holds exactly (e^0, 2^n, log2 2^n, square roots) are formed exactly. -/

namespace Sys2Proof.Machine

/-- Fraction bits of the fixed-point numbers here. DESIGN CHOICE, log 29. -/
def fxW : Nat := 384

/-- 1 in fixed point. -/
def fxOne : Int := 2 ^ fxW

/-- A product of fixed-point numbers. -/
def fxMul (a b : Int) : Int := a * b / 2 ^ fxW

/-- A rational in fixed point. -/
def fxOf (n : Int) (d : Nat) : Int := n * 2 ^ fxW / d

/-- Σ t^(2i+1) / (2i+1): atanh t for |t| ≤ 1/3. -/
def fxAtanh (t : Int) : Int :=
  let q := fxMul t t
  fxMul t ((List.range 130).foldr (fun i acc => fxOne / (2 * i + 1) + fxMul q acc) 0)

/-- Σ (−1)^i / ((2i+1) k^(2i+1)): arctan (1/k). -/
def fxArctanInv (k : Nat) : Int :=
  fxMul (fxOne / k) ((List.range 130).foldr (fun i acc => fxOne / (2 * i + 1) - acc / (k * k)) 0)

/-- ln 2. -/
def fxLn2 : Int := 2 * fxAtanh (fxOf 1 3)

/-- π, by Machin's formula. -/
def fxPi : Int := 16 * fxArctanInv 5 - 4 * fxArctanInv 239

/-- e^r for |r| ≤ 1. DESIGN CHOICE, log 29. -/
def fxExp (r : Int) : Int := (List.range 100).foldr (fun i acc => fxOne + fxMul r acc / (i + 1)) fxOne

/-- e^x for a rational |x| ≤ 512, as a pair of naturals. -/
def expPair (n : Int) (d : Nat) : Nat × Nat :=
  let x := fxOf n d
  let k := (2 * x + fxLn2) / (2 * fxLn2)
  let m := (fxExp (x - k * fxLn2)).toNat
  if 0 ≤ k then (m * 2 ^ k.toNat, 2 ^ fxW) else (m, 2 ^ (fxW + (-k).toNat))

/-- ln of a positive rational in fixed point. DESIGN CHOICE, log 29. -/
def fxLn (n d : Nat) : Int :=
  let k := floorLog2 n d
  let a := if 0 ≤ k then n else n * 2 ^ (-k).toNat
  let b := if 0 ≤ k then d * 2 ^ k.toNat else d
  2 * fxAtanh (fxOf ((a : Int) - b) (a + b)) + k * fxLn2

/-- e^(−|x|): beyond 256 a value below every bound that matters. -/
def expNegPair (n d : Nat) : Nat × Nat := if 256 * d < n then (1, 2 ^ 400) else expPair (-(n : Int)) d

/-- 1 / (1 + e^(−x)) of a signed rational, as a pair. -/
def sigmoidPair (neg : Bool) (n d : Nat) : Nat × Nat :=
  let e := expNegPair n d
  if neg then (e.1, e.2 + e.1) else (e.2, e.2 + e.1)

/-- A real function's value rounded once to FP32 under RNE: the encoding. DESIGN CHOICE, log 29. -/
def roundF32 (x : Val) : Nat := (Fmt.f32.convert .rne 0 x).1

/-- The magnitude of tanh. -/
def tanhPair (n d : Nat) : Nat × Nat :=
  if n * 2 ^ 60 < d then (n * (3 * d * d - n * n), 3 * d * d * d)
  else
    let e := expNegPair (2 * n) d
    (e.2 - e.1, e.2 + e.1)

/-- √(2/π). -/
def fxGeluC : Nat := Nat.sqrt (2 ^ (2 * fxW + 1) * 2 ^ fxW / fxPi.toNat)

/-- The activations of R188 that are computed in FP32: GELU, SiLU, sigmoid, tanh, softplus (codes 2 to 6 of ACT). -/
inductive Act where
  | gelu | silu | sigmoid | tanh | softplus
  deriving DecidableEq, Repr

/-- A function of R188 on a value of FP32: its exact value, or what the table of special inputs gives. -/
def Act.apply (a : Act) (x : Val) : Val :=
  match a, x with
  | _, .nan => .nan
  | _, .ovf s => .inf s
  | .gelu, .inf s => if s then .fin true 0 1 else .inf false
  | .silu, .inf s => if s then .fin true 0 1 else .inf false
  | .sigmoid, .inf s => if s then .fin false 0 1 else .fin false 1 1
  | .tanh, .inf s => .fin s 1 1
  | .softplus, .inf s => if s then .fin false 0 1 else .inf false
  | .gelu, .fin s n d =>
    if n = 0 then x
    else
      let c := 2 * fxGeluC * n * (1000000 * d * d + 44715 * n * n)
      let p := sigmoidPair s c (2 ^ fxW * 1000000 * d * d * d)
      .fin s (n * p.1) (d * p.2)
  | .silu, .fin s n d =>
    if n = 0 then x
    else
      let p := sigmoidPair s n d
      .fin s (n * p.1) (d * p.2)
  | .sigmoid, .fin s n d =>
    let p := sigmoidPair s n d
    .fin false p.1 p.2
  | .tanh, .fin s n d =>
    if n = 0 then x
    else
      let p := tanhPair n d
      .fin s p.1 p.2
  | .softplus, .fin s n d =>
    if !s && decide (64 * d < n) then x
    else
      let e := if s then expNegPair n d else expPair n d
      if s && decide (40 * d < n) then
        .fin false (e.1 * (6 * e.2 * e.2 - 3 * e.1 * e.2 + 2 * e.1 * e.1)) (6 * e.2 * e.2 * e.2)
      else Val.ofInt (fxLn (e.2 + e.1) e.2) (2 ^ fxW)

/-- The square root of a positive rational: exact, or with the digits past 2^-200 of it told by half a step. -/
def sqrtVal (n d : Nat) : Val :=
  let k := (floorLog2 n d) / 2
  let j := (200 - k).toNat
  let a := n * 2 ^ (2 * j)
  let r := Nat.sqrt (a / d)
  if r * r * d = a then .fin false r (2 ^ j) else .fin false (2 * r + 1) (2 ^ (j + 1))

/-- The special functions of R205. -/
inductive Fun where
  | exp | exp2 | log | log2 | rcp | rsqrt | sqrt | tanh | sigm
  deriving DecidableEq, Repr

/-- A function of R205 on a value of FP32: its exact value, or IEEE 754's special value. DESIGN CHOICE, log 29. -/
def Fun.apply (f : Fun) (x : Val) : Val :=
  match f, x with
  | _, .nan => .nan
  | _, .ovf _ => .nan
  | .tanh, x => Act.tanh.apply x
  | .sigm, x => Act.sigmoid.apply x
  | .exp, .inf s => if s then .fin false 0 1 else .inf false
  | .exp2, .inf s => if s then .fin false 0 1 else .inf false
  | .log, .inf s => if s then .nan else .inf false
  | .log2, .inf s => if s then .nan else .inf false
  | .rcp, .inf s => .fin s 0 1
  | .rsqrt, .inf s => if s then .nan else .fin false 0 1
  | .sqrt, .inf s => if s then .nan else .inf false
  | .exp, .fin s n d =>
    if n = 0 then .fin false 1 1
    else if s then (let p := expNegPair n d; .fin false p.1 p.2)
    else if 128 * d < n then .inf false
    else (let p := expPair n d; .fin false p.1 p.2)
  | .exp2, .fin s n d =>
    if 512 * d < n then (if s then .fin false 1 (2 ^ 400) else .inf false)
    else
      let v := sgn s n
      let k := v / (d : Int)
      let r := v - k * d
      if r = 0 then Val.dyadic false 1 k
      else Val.dyadic false (fxExp (fxMul (fxOf r d) fxLn2)).toNat (k - fxW)
  | .log, .fin s n d =>
    if n = 0 then .inf true else if s then .nan else Val.ofInt (fxLn n d) (2 ^ fxW)
  | .log2, .fin s n d =>
    if n = 0 then .inf true
    else if s then .nan
    else
      let k := floorLog2 n d
      if (if 0 ≤ k then decide (n = d * 2 ^ k.toNat) else decide (n * 2 ^ (-k).toNat = d)) then Val.ofInt k 1
      else Val.ofInt (fxLn n d) fxLn2.toNat
  | .rcp, .fin s n d => if n = 0 then .inf s else .fin s d n
  | .rsqrt, .fin s n d => if n = 0 then .inf s else if s then .nan else sqrtVal d n
  | .sqrt, .fin s n d => if n = 0 then x else if s then .nan else sqrtVal n d

end Sys2Proof.Machine
end

