-- ==== Sys2Proof/Machine/Drain.lean ====
section
/-! DEFINITION. The drain path: DRAIN's checks (R197, R198), its four stages (R184 to R191), its reads, clearing and timing
(R192 to R194). -/

namespace Sys2Proof.Machine

/-- The fields of a DRAIN body. -/
structure Drain where
  m : Nat
  n : Nat
  base : Nat
  clear : Bool
  out : Nat
  stride : Nat
  outSc : Nat
  scaleOfs : Nat
  biasOfs : Nat
  scaleVal : Nat
  fmt : Nat
  scaled : Bool
  scaleMode : Nat
  biasEn : Bool
  act : Nat
  rnd : Nat
  slot : Nat
  stream : Nat
  ctr : Nat
  deriving DecidableEq, Repr

/-- The DRAIN layout's fields (R197). -/
def drainFields : List (Nat × Nat × Nat) :=
  [(16, 21, 0), (20, 20, 0), (24, 20, 0), (28, 20, 0), (32, 20, 0), (36, 20, 0), (40, 31, 0), (44, 18, 0), (48, 63, 0),
   (56, 63, 0)]

/-- The DRAIN of an entry. -/
def Drain.of (e : BitVec 512) : Drain :=
  { m := entBits e 16 8 0, n := entBits e 16 17 9, base := entBits e 16 20 18, clear := entBit e 16 21,
    out := entBits e 20 20 0, stride := entBits e 24 20 0, outSc := entBits e 28 20 0, scaleOfs := entBits e 32 20 0,
    biasOfs := entBits e 36 20 0, scaleVal := entBits e 40 31 0, fmt := entBits e 44 3 0, scaled := entBit e 44 4,
    scaleMode := entBits e 44 6 5, biasEn := entBit e 44 7, act := entBits e 44 10 8, rnd := entBits e 44 12 11,
    slot := entBits e 44 18 13, stream := bvBytes e 48 8, ctr := bvBytes e 56 8 }

/-- Whether OUT_SCALED (or SCALED) contradicts the table of R189. -/
def scaledBad (fmt : Nat) (scaled : Bool) : Bool := (decide (fmt ≤ 2) && !scaled) || (decide (5 ≤ fmt) && scaled)

/-- Checks 1 to 3 of R198. -/
def Drain.checkForm (d : Drain) (e : BitVec 512) : Option Status :=
  if bodyBad e drainFields then some .reservedField
  else if (Fmt.ofCode d.fmt).isNone ∨ d.scaleMode = 3 ∨ d.act = 7 ∨ d.rnd = 3 then some .fieldCode
  else if scaledBad d.fmt d.scaled then some .formatScale
  else none

/-- The bytes of `n` output elements, rounded up to whole bytes (check 6). -/
def outBytes (fmt n : Nat) : Nat := match Fmt.ofCode fmt with
  | some f => (n * f.bits + 7) / 8
  | none => 0

/-- The ranges a DRAIN reads in the scratchpad. -/
def Drain.reads (d : Drain) : List Span :=
  (if d.scaleMode = 2 then [(d.scaleOfs, 4 * d.n)] else []) ++ (if d.biasEn then [(d.biasOfs, 4 * d.n)] else [])

/-- The ranges a DRAIN writes: columns at or above N are not written (R191). -/
def Drain.writes (d : Drain) : List Span :=
  (List.range d.m).map (fun m => (d.out + m * d.stride, outBytes d.fmt d.n))
    ++ (if d.scaled then [(d.outSc, d.m * ((d.n + 31) / 32))] else [])

/-- Checks 4 to 7 of R198. -/
def Drain.checkShape (d : Drain) : Option Status :=
  if 256 < d.m ∨ 256 < d.n then some .shape
  else if 8 < d.base + (d.m + 31) / 32 * ((d.n + 31) / 32) then some .accRange
  else if d.stride < outBytes d.fmt d.n then some .stride
  else if !spansFit (d.reads ++ d.writes) then some .spadRange
  else none

/-! ## Stages (R184 to R188) -/

/-- The scale stage (R185); the flag is ACC_OVF's. -/
def scaleStage (x s : Val) : Val × Nat :=
  match x, s with
  | _, .nan => (.nan, 0)
  | .nan, _ => (.nan, 0)
  | .fin a n d, .fin b m e => if n = 0 ∨ m = 0 then (.zero, 0) else (.fin (a != b) (n * m) (d * e), 0)
  | .fin a n _, .inf b => if n = 0 then (.nan, 0) else (.inf (a != b), 0)
  | .inf a, .fin b m _ => if m = 0 then (.nan, 0) else (.inf (a != b), 0)
  | .inf a, .inf b => (.inf (a != b), 0)
  | .ovf a, .fin b m _ => if m = 0 then (.zero, flagAccOvf) else (.ovf (a != b), 0)
  | .ovf a, .inf b => (.inf (a != b), 0)
  | x, .ovf _ => (x, 0)

/-- The bias stage (R186): the class table of R120, with exact unbounded sums. -/
def biasStage (x b : Val) : Val :=
  match x, b with
  | .nan, _ => .nan
  | _, .nan => .nan
  | .fin s n d, .fin t m e => Val.ofInt (sgn s n * e + sgn t m * d) (d * e)
  | .fin _ _ _, y => y
  | y, .fin _ _ _ => y
  | .inf s, .inf t => if s = t then .inf s else .nan
  | .inf s, .ovf t => if s = t then .inf s else .nan
  | .ovf s, .inf t => if s = t then .inf s else .nan
  | .ovf s, .ovf t => if s = t then .ovf s else .nan

/-- ReLU (R187). -/
def reluStage (x : Val) : Val :=
  match x with
  | .fin neg _ _ => if neg then .zero else x
  | .inf neg => if neg then .zero else x
  | .ovf neg => if neg then .zero else x
  | .nan => .nan

/-- The activation of a code of ACT above ReLU. -/
def actOf (c : Nat) : Act := match c with
  | 2 => .gelu
  | 3 => .silu
  | 4 => .sigmoid
  | 5 => .tanh
  | _ => .softplus

/-- The activation stage (R187, R188), with the flags of its conversion to FP32. -/
def actStage (act : Nat) (x : Val) : Val × Nat :=
  match act with
  | 0 => (x, 0)
  | 1 => (reluStage x, 0)
  | _ =>
    let p := toF32 x
    ((toF32 ((actOf act).apply p.1)).1, p.2)

/-- The value an entry gives to the conversion stage with a column's FP32 scale and bias, and the flags set on the way: an
overflowed accord that is consumed sets ACC_OVF whatever becomes of it (R183 to R188). -/
def Drain.stages (d : Drain) (scale bias : Nat) (x : Val) : Val × Nat :=
  let p := match d.scaleMode with
    | 1 => scaleStage x (Fmt.f32.decode d.scaleVal)
    | 2 => scaleStage x (Fmt.f32.decode scale)
    | _ => (x, 0)
  let y := if d.biasEn then biasStage p.1 (Fmt.f32.decode bias) else p.1
  let r := actStage d.act y
  let ovf := match x with
    | .ovf _ => flagAccOvf
    | _ => 0
  (r.1, ovf ||| p.2 ||| r.2)

/-! ## Reads (R192, R193) -/

/-- The tile row and the column tile of a DRAIN's read `i`: column tile by column tile, rows ascending (R192). -/
def Drain.readAt (d : Drain) (i : Nat) : Nat × Nat := (i % d.m, i / d.m)

/-- The reads of a DRAIN. -/
def Drain.readCount (d : Drain) : Nat := d.m * ((d.n + 31) / 32)

/-- The columns of a column tile. -/
def Drain.cols (d : Drain) (b : Nat) : List Nat := ((List.range 32).map (32 * b + ·)).filter (· < d.n)

/-- The outputs of one read, which are written 20 cycles after it: offset, value and bits of the row's elements and, for a
block-scaled output, of its scale, with the flags (R189 to R191, R194). -/
def Drain.outputs (d : Drain) (j : DrainJob) (f : Fmt) (md : Rnd) (xs : List Accord) (m b : Nat) : List (Nat × Nat × Nat) × Nat :=
  let vs := ((d.cols b).zip xs).map (fun p => d.stages (j.scales.getD p.1 0) (j.bias.getD p.1 0) p.2.val)
  let fl := vs.foldl (fun a x => a ||| x.2) 0
  let wd := (d.cols b).map (fun n => j.draw.at' md (m * d.n + n))
  let o := d.out + m * d.stride + b * (4 * f.bits)
  if d.scaled then
    let y := blockConvert f md (vs.map (·.1)) wd
    ([(o, packBits f.bits y.2.1, f.bits * y.2.1.length), (d.outSc + m * ((d.n + 31) / 32) + b, y.1, 8)], fl ||| y.2.2)
  else
    let cs := (vs.zip wd).map (fun p => f.convert md p.2 p.1.1)
    ([(o, packBits f.bits (cs.map (·.1)), f.bits * cs.length)], cs.foldl (fun a c => a ||| c.2) fl)

/-- An FP32 encoding of each column at an offset, where they are fetched. -/
def State.f32s (s : State) (u ofs n : Nat) (on : Bool) : List Nat := if on then (List.range n).map (fun i => s.spadNat u (ofs + 4 * i) 4) else []

/-- A DRAIN that holds its tokens begins to draw (R132, R137) and fetches its per-column operands; its first read is one or
nine cycles after the claim (R192). DEDUCED, log 24. -/
def Drain.run (d : Drain) (f : Flight) (c : Nat) (s : State) : RunEnd × State :=
  match Rnd.ofCode d.rnd with
  | none => (.fails .fieldCode, s)
  | some md =>
    match s.beginDraw md d.slot d.stream d.ctr (d.m * d.n) f.ctx with
    | .error st => (.fails st, s)
    | .ok w =>
      match s.spadConsume f.u d.reads f.ctx (locUnit f.u 6) with
      | (true, s) => (.fails .uncorrectable, s)
      | (false, s) =>
        let j : DrainJob := { q := f.q, seq := f.seq, entry := f.entry, draw := w
                              scales := s.f32s f.u d.scaleOfs d.n (d.scaleMode == 2), bias := s.f32s f.u d.biasOfs d.n d.biasEn
                              first := c + (if d.scaleMode = 2 || d.biasEn then 9 else 1), next := 0 }
        (.works, s.setEng f.u { s.unitEng f.u with drain := some j })

/-! ## One cycle of the drain path -/

/-- The bytes of a write that lie in the scratchpad bytes which a later cycle's write already holds are left as they are
(R196). -/
def State.keepLater (s : State) (u ofs stamp : Nat) (bs : List Byte) : List Byte :=
  let w := (s.unitEng u).wrote
  bs.zipIdx.map (fun b => if decide (stamp < (lookupKey w (ofs + b.2)).getD 0) then s.spadByte u (ofs + b.2) else b.1)

/-- The cycle of a write, as a stamp, joins the bytes it covers. -/
def State.stampBytes (s : State) (u ofs n stamp : Nat) : State :=
  let e := s.unitEng u
  s.setEng u { e with wrote := (List.range n).foldl (fun w i =>
    if (lookupKey w (ofs + i)).getD 0 ≤ stamp then insertKey w (ofs + i) stamp else w) e.wrote }

/-- Whether a vector command of a unit has begun and its writes are still to be made: a drain's write may be the later. -/
def State.vecOpen (s : State) (u : Nat) : Bool := (s.unitFlights u).any (fun g => g.eng == .vec && g.begun && g.stage == .issued)

/-- The drain path writes an output in the present cycle: its value stands over a vector engine's of the same cycle, and a
vector engine's of a later cycle over it (R194, R196). -/
def State.drainOut (s : State) (u : Nat) (o : DrainOut) : State :=
  let bs := s.keepLater u o.ofs (2 * o.due + 1) (s.mergeBits u o.ofs o.val o.bits)
  match s.spadWrite u o.ofs bs (s.flightOf u o.q o.seq |>.map (·.ctx) |>.getD 0) (locUnit u 6) with
  | (true, s) => s.failAt u o.q o.seq .uncorrectable
  | (false, s) => if s.vecOpen u then s.stampBytes u o.ofs bs.length (2 * o.due + 1) else s

/-- The outputs due in the present cycle are written. -/
def State.outTick (s : State) (u : Nat) : State :=
  let e := s.unitEng u
  let s := s.setEng u { e with outs := e.outs.filter (fun o => decide (e.cyc < o.due)) }
  (e.outs.filter (fun o => decide (o.due ≤ e.cyc))).foldl (fun s o => if (s.flightOf u o.q o.seq).isSome then s.drainOut u o else s) s

/-- A read of the drain path: a tile row of a column tile is consumed, converted and, with CLEAR, zeroed; its outputs wait
20 cycles; after the last read the tokens are released a cycle later, and completion follows 21 cycles later (R192 to
R194). -/
def State.drainRead (s : State) (u : Nat) (j : DrainJob) : State :=
  let d := Drain.of j.entry
  let p := d.readAt j.next
  let es := (d.cols p.2).map (accEntryOf d.base d.m p.1)
  let ctx := s.jobCtx u j.q j.seq
  match Fmt.ofCode d.fmt, Rnd.ofCode d.rnd with
  | some fm, some md =>
    match s.accConsume u es ctx (locUnit u 6) with
    | (true, s) => (s.setEng u { s.unitEng u with drain := none }).failAt u j.q j.seq .uncorrectable
    | (false, s) =>
      let t := s.unitCyc u
      let y := d.outputs j fm md (es.map (s.accEntry u)) p.1 p.2
      let s := (s.addFld (R.vecDrainEnt u) F.vecDrainEnt_COUNT es.length).addFld (R.vecDrainCyc u) F.vecDrainCyc_COUNT 1
      let s := if d.clear then s.accPuts u ctx (es.map (fun e => (e, .fin 0))) else s
      let last := j.next + 1 == d.readCount
      let e := s.unitEng u
      let s := s.setEng u { e with outs := e.outs ++ y.1.map (fun o => ⟨j.q, j.seq, t + 20, o.1, o.2.1, o.2.2⟩)
                                   drain := if last then none else some { j with next := j.next + 1 } }
      s.setFlight u j.q j.seq (fun g =>
        let g := { g with detail := g.detail ||| y.2 }
        if last then { g with stage := .running g.stage.owned, relAt := t + 1, doneAt := t + 21 } else g)
  | _, _ => s

/-- One cycle of the drain path. -/
def State.drainTick (s : State) (u : Nat) : State :=
  match (s.unitEng u).drain with
  | some j => if j.first ≤ s.unitCyc u then s.drainRead u j else s
  | none => s

end Sys2Proof.Machine
end

