-- ==== Sys2Proof/Machine/RegAccess.lean ====
section
/-! DEFINITION. Register accesses in general (R16, R630 to R637): which writes reach a page, and the field-by-field rule of
R634 with the access codes of R16. -/

namespace Sys2Proof.Machine

/-- Whether a die-to-die link is dead (R585). -/
def State.linkIsDead (s : State) (k : Nat) : Bool :=
  match lookupKey s.rep.links k with
  | some l => l.dead
  | none => false

/-- Whether a register access between an agent and a page crosses a dead link, there or back (R585). DEDUCED, log 41. -/
def State.regLost (s : State) (a : Agent) (p : Page) (i : Nat) : Bool :=
  (pathLinks (agentDie a) (p.dieOf i) true ++ pathLinks (p.dieOf i) (agentDie a) true).any s.linkIsDead

/-- Whether a write of an agent reaches a page's registers: the page exists, its block takes writes (R100, R564), the path
carries them (R585), and the agent is not an outside host, which reaches the BAR0 registers only (R630). DEDUCED, log 7. -/
def State.regReaches (s : State) (a : Agent) (p : Page) (i : Nat) : Bool :=
  decide (i < p.count) && !s.pageDead p i && !(pathLinks (agentDie a) (p.dieOf i) true).any s.linkHeld
    && (match a with
      | .pcieHost _ => false
      | .keeper k => !s.broken (locHost 2 k)
      | _ => true)

/-- The word a register holds after a written word, one field at a time (R634): `fw` is whether FW fields take it and
`free` whether a guarded field is open. -/
def writeFields (fw : Bool) (free : Fld → Bool) (fs : List FieldSpec) (old new : Word) : Word :=
  fs.foldl (fun w f =>
    if !free f.fld then w
    else match f.acc with
      | .ro => w
      | .rwp => w
      | .st => w
      | .rw => f.fld.put w (f.fld.get new)
      | .wo => f.fld.put w (f.fld.get new)
      | .w1c => BitVec.ofNat 64 (w.toNat &&& (2 ^ 64 - 1 - (new.toNat &&& f.fld.mask)))
      | .fw => if fw then f.fld.put w (f.fld.get new) else w) old

/-- Whether a register has a field of FW access. -/
def Reg.hasFw (r : Reg) : Bool := r.fields.any (fun f => f.acc == .fw)

/-- A write applied field by field (R634); FW fields that an agent may not write are ignored, and ACCESS_DENIED is logged
(R16, R637). -/
def State.plainWrite (s : State) (a : Agent) (r : Reg) (v : Word) (free : Fld → Bool) : State :=
  let fw := fwAllowed a r.page
  let s := s.setReg r (writeFields fw free r.fields (s.reg r) v)
  if r.hasFw && !fw then s.denied a r else s

/-- A write of IRQ_STS or IRQ_EN: one more message becomes due where the condition is true after it (R399). -/
def State.irqWrite (s : State) (a : Agent) (r : Reg) (v : Word) : State :=
  let s := s.plainWrite a r v (fun _ => true)
  if s.irqCond r.page r.inst then s.pushIrq r.page r.inst else s

end Sys2Proof.Machine
end

