-- ==== Sys2Proof/Machine/Errors.lean ====
section
/-! DEFINITION. Patrol scrub, the die-to-die links, the record window and injection (15_errors_and_injection.md). -/

namespace Sys2Proof.Machine

/-! ## Patrol scrub (R583, R599) -/

/-- The words of a stack: 48 GiB. -/
def stackWords : Nat := 0x180000000

/-- The position of a stack's scrub. -/
def State.scrubPos (s : State) (k : Nat) : Nat := Sparse.get 0 s.rep.scrub k

/-- A scrub record: no context, no requester (R583). -/
def State.scrubRecord (s : State) (k pa code sev : Nat) (m : BitVec 72) (inj : Bool) : State :=
  s.record { page := .hbm, inst := k, sev := sev, code := code, loc := locStack k, addr := pa, kind := 1, syn := syndrome m,
             inj := inj }

/-- The scrub passes to its next word; after the last, PASSES counts the pass. DEDUCED, log 40. -/
def State.scrubNext (s : State) (k : Nat) : State :=
  let p := s.scrubPos k + 1
  if p = stackWords then
    ({ s with rep := { s.rep with scrub := Sparse.set id 0 s.rep.scrub k 0 } }).addFld (R.hbmScrubSts k) F.hbmScrubSts_PASSES 1
  else { s with rep := { s.rep with scrub := Sparse.set id 0 s.rep.scrub k p } }

/-- A stored word is written back corrected: it stores the word R575 gives, with its inverted bits gone. DEDUCED, log 36. -/
def State.scrubMend (s : State) (pa : Nat) (m : BitVec 72) : State :=
  (s.putBytes pa (natToBytes 8 (eccData (bytesToNat ((List.range 8).map (fun i => Sparse.get 0 s.mem (pa + i)))) m))).setErr (pa / 8) 0

/-- SCRUB_READ (R583): the next word of a stack, by its class. DEDUCED, log 40. -/
def execScrubRead (stack : Fin 16) (s : State) : Host.Outcome State Fault Refusal :=
  let pa := ofStack stack (8 * s.scrubPos stack)
  if !s.running || !s.stackAvail stack || !s.bit (R.hbmScrubCfg stack) F.hbmScrubCfg_EN || s.lineBusy (pa / 128) then .next s
  else
    let fire := s.injFires .hbm stack 0 [1] none
    let stored := Sparse.get 0 s.errs (pa / 8)
    let m := if fire then stored ^^^ injMask (s.reg (R.inj .hbm stack)) else stored
    let s := if fire then s.injFired .hbm stack else s
    match eccClass m with
    | .clean => .next (s.scrubNext stack)
    | .correctable _ =>
      let s := (s.scrubMend pa m).injectStore pa 8 none 0
      let s := s.satFld (R.hbmCeCnt stack) F.hbmCeCnt_COUNT 1
      let s := s.satFld (R.hbmScrubSts stack) F.hbmScrubSts_CORRECTED 1
      .next ((s.scrubRecord stack pa 0x10 1 m fire).scrubNext stack)
    | .uncorrectable => .next ((s.scrubRecord stack pa 0x12 2 m fire).scrubNext stack)

/-! ## Die-to-die links (R584, R585) -/

/-- A link in service with nothing to replay. -/
def D2dLink.fresh : D2dLink := { toFar := 0, toNear := 0, fails := 0, retraining := false, dead := false, delivered := 0 }

/-- A link's state. -/
def State.d2d (s : State) (k : Nat) : D2dLink := Sparse.get D2dLink.fresh s.rep.links k

/-- A link's state is set. -/
def State.setD2d (s : State) (k : Nat) (x : D2dLink) : State :=
  { s with rep := { s.rep with links := Sparse.set id D2dLink.fresh s.rep.links k x } }

/-- The compute die at a link's near end. -/
def d2dNear (k : Nat) : Nat := k % 4

/-- The number of the link at its near end (R55). -/
def d2dNearDet (k : Nat) : Nat := if k < 4 then 0 else 1

/-- The location code of the link at an end (R55, R56). DEDUCED, log 41. -/
def d2dLoc (k : Nat) (far : Bool) : Loc :=
  if far then (if k < 4 then locHost 0xA k else locDie ((k + 1) % 4) 2 0x1B) else locDie (d2dNear k) (d2dNearDet k) 0x1B

/-- The DIE page that holds the records of an end; the host end's stand in the compute die's page. DEDUCED, log 41. -/
def d2dPage (k : Nat) (far : Bool) : Nat := if far && decide (4 ≤ k) then (k + 1) % 4 else d2dNear k

/-- The detector of an end (R594); the host end has none. -/
def d2dDet (k : Nat) (far : Bool) : Option (Nat × Nat) :=
  if far then (if k < 4 then none else some ((k + 1) % 4, 2)) else some (d2dNear k, d2dNearDet k)

/-- The injection of an end on a flit in the given modes: the mask it inverts. -/
def State.d2dInject (s : State) (k : Nat) (far : Bool) (modes : List Nat) (ctx : Option CtxId) : BitVec 72 × Bool × State :=
  match d2dDet k far with
  | some (d, det) =>
    if s.injFires .die d det modes (ctx.map (·.toNat)) then (injMask (s.reg (R.inj .die d)), true, s.injFired .die d)
    else (0, false, s)
  | none => (0, false, s)

/-- The discarded arrivals of the oldest flit of a direction. -/
def D2dLink.bad (l : D2dLink) (far : Bool) : Nat := if far then l.toFar else l.toNear

/-- That count takes a value. -/
def D2dLink.setBad (l : D2dLink) (far : Bool) (n : Nat) : D2dLink :=
  if far then { l with toFar := n } else { l with toNear := n }

/-- D2D_FLIT_RECEIVE (R584): the oldest flit of a direction arrives (to the far end or to the near one), on behalf of a
context's request or of none, with the given bits inverted on the way. After eight replays without success no more flits
move until the link has retrained. DEDUCED, log 41. -/
def execD2dFlitReceive (link : Fin 8) (far : Bool) (ctx : Option CtxId) (flipped : BitVec 72) (s : State) : Host.Outcome State Fault Refusal :=
  let l := s.d2d link
  if !s.running || l.retraining || l.dead || decide (9 ≤ l.bad far) then .next s
  else
    let a := s.d2dInject link (!far) [0, 2] ctx
    let b := a.2.2.d2dInject link far [1] ctx
    let s := b.2.2
    let m := flipped ^^^ a.1 ^^^ b.1
    match eccClass m with
    | .uncorrectable => .next (s.setD2d link (l.setBad far (l.bad far + 1)))
    | .clean => .next (s.setD2d link { l.setBad far 0 with delivered := l.delivered + 1 })
    | .correctable _ =>
      let s := s.setD2d link { l.setBad far 0 with delivered := l.delivered + 1 }
      .next (s.record { page := .die, inst := d2dPage link far, sev := 1, code := 0x20, loc := d2dLoc link far,
                        ctx := ctx.map (·.toNat), syn := syndrome m, inj := a.2.1 || b.2.1 })

/-- LINK_RETRAIN (R584): a link whose flit was replayed eight times retrains; where it is retraining already, that
retraining has failed and the next begins, up to the third. DEDUCED, log 41. -/
def execLinkRetrain (link : Fin 8) (s : State) : Host.Outcome State Fault Refusal :=
  let l := s.d2d link
  let rec_ := fun (s : State) =>
    s.record { page := .die, inst := d2dPage link false, sev := 0, code := 0x21, loc := d2dLoc link false }
  if !s.running || l.dead then .next s
  else if l.retraining then
    if l.fails < 2 then .next (rec_ (s.setD2d link { l with fails := l.fails + 1 })) else .next s
  else if 9 ≤ l.toFar ∨ 9 ≤ l.toNear then .next (rec_ (s.setD2d link { l with retraining := true, fails := 0 }))
  else .next s

/-- D2D_RETRAIN_DONE (R584): the link is in service again, and replay resumes with nothing lost. -/
def execD2dRetrainDone (link : Fin 8) (s : State) : Host.Outcome State Fault Refusal :=
  let l := s.d2d link
  if s.running && l.retraining then .next (s.setD2d link { l with toFar := 0, toNear := 0, fails := 0, retraining := false })
  else .next s

/-- LINK_DEAD (R585): the third retraining in a row fails. -/
def execLinkDead (link : Fin 8) (s : State) : Host.Outcome State Fault Refusal :=
  let l := s.d2d link
  if s.running && l.retraining && l.fails == 2 then
    let s := (s.setD2d link { l with retraining := false, fails := 3, dead := true }).setFld R.pkgSts F.pkgSts_D2D_DEAD 1
    .next (s.record { page := .die, inst := d2dPage link false, sev := 3, code := 0x22, loc := d2dLoc link false })
  else .next s

/-! ## The record window (R586) -/

/-- ERR_REC_CLEAR (R586): a write of 1 to ERR_REC0.VALID clears the four words of the window. -/
def execErrRecClear (a : Agent) (page : Page) (inst : Fin 1024) (s : State) : Host.Outcome State Fault Refusal :=
  if !s.regReaches a page inst || !s.bit (R.errRec page inst 0) F.errQ0_VALID then .next s
  else .next ((List.range 4).foldl (fun s k => s.setReg (R.errRec page inst k) 0) s)

/-! ## Injection (R593, R594) -/

/-- Whether R594 lists a detector index for a page. -/
def injDetOk (p : Page) (i det : Nat) : Bool :=
  p.hasInj i && (match p with
    | .unit | .clu | .rgn | .die => decide (det ≤ 2)
    | .acc => decide (det ≤ 9)
    | .coh => decide (det ≤ 3)
    | .xlt | .pcie => decide (det ≤ 1)
    | .host => decide (det ≤ 193)
    | _ => det == 0)

/-- Whether a written INJ word is taken, or ignored as a whole (R593). -/
def injWordOk (p : Page) (i : Nat) (w : Word) : Bool :=
  F.inj_MODE.get w != 3 && decide (F.inj_BIT_A.get w ≤ 71)
    && (F.inj_TWO.get w == 0 || decide (F.inj_BIT_B.get w ≤ 71)) && injDetOk p i (F.inj_DET.get w)

/-- A write of INJ (R593): firmware only, and ignored as a whole where R593 says so. -/
def State.injWrite (s : State) (a : Agent) (p : Page) (i : Nat) (w : Word) : State :=
  if !p.hasInj i then s
  else if !fwAllowed a p then s.denied a (R.inj p i)
  else if injWordOk p i w then s.setReg (R.inj p i) (w &&& BitVec.ofNat 64 (2 ^ 39 - 1))
  else s

/-- INJ_WRITE (R593). -/
def execInjWrite (a : Agent) (page : Page) (inst : Fin 1024) (value : Word) (s : State) : Host.Outcome State Fault Refusal :=
  if s.regReaches a page inst then .next (s.injWrite a page inst value) else .next s

end Sys2Proof.Machine
end

