-- ==== Sys2Proof/Machine/Optics.lean ====
section
/-! DEFINITION. The optical ports and the Zenwald link (R430 to R463): training and the shell, frames sent and received,
acknowledgement and replay, the forming of a fabric, and the cadence over the link. -/

namespace Sys2Proof.Machine

/-! ## Training and the digital shell (R432 to R434, R455) -/

/-- A port acts: the package runs and the port is available. -/
def State.optLive (s : State) (p : Nat) : Bool := s.running && s.optAvail p

/-- The active wavelengths of a direction (R434): all 16, or the 8 lowest of at least 8 with DEGRADE_OK. -/
def activeLanes (mask : BitVec 16) (degradeOk : Bool) : Option Nat :=
  if mask.toNat = 0xFFFF then some 0xFFFF
  else
    let ls := (List.range 16).filter (fun i => natBit mask.toNat i)
    if degradeOk && 8 ≤ ls.length then some ((ls.take 8).map (fun i => 2 ^ i)).sum else none

/-- The received wavelengths with a margin code of at least 2 (R434, R435). -/
def marginLanes (mask : BitVec 16) (margin : Word) : BitVec 16 :=
  BitVec.ofNat 16 ((List.range 16).map (fun i =>
    if natBit mask.toNat i && 2 ≤ natBits margin.toNat (4 * i + 3) (4 * i) then 2 ^ i else 0)).sum

/-- MARGIN of the active wavelengths; 0 for the others (R463). -/
def marginWord (active : Nat) (margin : Word) : Word :=
  BitVec.ofNat 64 ((List.range 16).map (fun i =>
    if natBit active i then natBits margin.toNat (4 * i + 3) (4 * i) * 2 ^ (4 * i) else 0)).sum

/-- The HCAL code of a ring: transmit rings 0 to 15, receive rings 16 to 31 (R463). -/
def State.hcal (s : State) (p ring : Nat) : Nat :=
  natBits (s.reg (R.optHcal p (ring / 4))).toNat (16 * (ring % 4) + 15) (16 * (ring % 4))

/-- Whether the calibration may find a code for a ring (R433, R592): within 64 codes of a preload, none above HEATER_MAX.
DEDUCED, log 69. -/
def State.codeAllowed (s : State) (p ring code : Nat) : Bool :=
  let h := s.hcal p ring
  decide (code ≤ s.fld (R.optSafe p) F.optSafe_HEATER_MAX) && (h == 0 || decide (h ≤ code + 64 ∧ code ≤ h + 64))

/-- The shell writes the heater codes it finds (R433). -/
def State.putHcal (s : State) (p : Nat) (codes : List (BitVec 16)) : State :=
  let c := fun i => (codes.getD i 0).toNat
  (List.range 8).foldl (fun s n =>
    s.setReg (R.optHcal p n) (BitVec.ofNat 64 ((List.range 4).map (fun k => c (4 * n + k) * 2 ^ (16 * k))).sum)) s

/-- STS.STATE changes. -/
def State.setOptState (s : State) (p n : Nat) : State := s.setFld (R.optSts p) F.optSts_STATE n

/-- A port begins to train (R455): its link starts afresh; what it heard of its neighbour's candidate stays until it
expires (R459). -/
def State.startTraining (s : State) (p : Nat) : State :=
  let x := s.port p
  let s := s.setPort p { OptPort.fresh with peer := x.peer, heard := x.heard, heaters := x.heaters }
  let s := (s.setFld (R.optSts p) F.optSts_REASON 0).setFld (R.optSts p) F.optSts_DEGRADED 0
  let s := (s.setReg (R.optLambda p) 0).setReg (R.optMargin p) 0
  (s.setFld (R.optPeer p) F.optPeer_VALID 0).setOptState p 1

/-- A frame that waits for a port that goes DOWN (R448, R454). -/
def State.dropWaiting (s : State) (p : Nat) : Frame → State
  | .msg m => s.refuseMsg m p
  | .credit _ => s.loseCredit p
  | _ => s

/-- Whether some port still connects the package to a fabric. -/
def State.anyLink (s : State) : Bool := (List.range 8).any (fun p => s.portOpen p)

/-- A port enters DOWN (R454): unacknowledged frames are discarded, waiting ones are handled under R448, and it trains
again at once while EN is 1. -/
def State.downPort (s : State) (p : Nat) : State :=
  let x := s.port p
  let s := (s.setOptState p 6).raise .opt p 1
  let s := s.setPort p { OptPort.fresh with peer := x.peer, heard := x.heard, heaters := x.heaters }
  let s := x.ready.foldl (fun s f => s.dropWaiting p f) s
  let s := if s.anyLink then s else { s with time := { s.time with joined := false } }
  let s := s.elect
  if s.bit (R.optCtl p) F.optCtl_EN && s.optAvail p then s.startTraining p else s

/-- Whether a port is past training and not in recovery. -/
def State.optUp (s : State) (p : Nat) : Bool := s.helloPort p

/-- A port enters recovery (R453). DEDUCED, log 67. -/
def State.enterRecovery (s : State) (p : Nat) : State :=
  if s.optUp p then
    (s.setPort p { s.port p with since := s.now, replays := 0, nakSent := false, nakDue := false }).setOptState p 4 |>.raise .opt p 2
  else s

/-- HEATER_ADJUST (R432, R592): the rings' heaters follow; a ring that needs a code above HEATER_MAX loses lock. -/
def execHeaterAdjust (port : Fin 8) (codes : List (BitVec 16)) (s : State) : Host.Outcome State Fault Refusal :=
  if !s.optLive port || s.optState port == 0 || codes.length != 32 then .next s
  else
    let m := s.fld (R.optSafe port) F.optSafe_HEATER_MAX
    let s' := s.setPort port { s.port port with heaters := codes.map (fun c => Nat.min c.toNat m) }
    .next (if codes.any (fun c => decide (c.toNat > m)) then s'.enterRecovery port else s')

/-- LOCK_LOSS (R432). -/
def execLockLoss (port : Fin 8) (_ring : Fin 32) (s : State) : Host.Outcome State Fault Refusal :=
  if s.optLive port then .next (s.enterRecovery port) else .next s

/-- A frame of a port's own control channel becomes ready, in place of an unsent one like it. DEDUCED, log 68. -/
def State.pushCtrl (s : State) (p : Nat) (f : Frame) (like : Frame → Bool) : State :=
  let x := s.port p
  s.setPort p { x with ready := x.ready.filter (fun g => !like g) ++ [f] }

/-- A CAD_REQ with the next exchange number becomes ready (R460). DEDUCED, log 69. -/
def State.askCadence (s : State) (p : Nat) : State :=
  let x := s.port p
  let n := (x.xchg + 1) % 65536
  let s := s.setPort p { x with xchg := n, t1 := none }
  s.pushCtrl p (.cadReq n) (fun f => match f with | .cadReq _ => true | _ => false)

/-- TRAINING_DONE (R433, R434, R455, R460): the port is LINKED, full or degraded, and asks once for the cadence; a
direction that cannot run leaves it in TRAINING with NO_LIGHT or LOCK_FAIL. -/
def execTrainingDone (port : Fin 8) (lanesTx : BitVec 16) (lanesRx : BitVec 16) (codes : List (BitVec 16)) (margin : Word)
    (s : State) : Host.Outcome State Fault Refusal :=
  let p := port.val
  if !s.optLive p || s.optState p != 1 || codes.length != 32
      || !(codes.zipIdx.all (fun e => s.codeAllowed p e.2 e.1.toNat)) then .next s
  else
    let ok := s.bit (R.optCtl p) F.optCtl_DEGRADE_OK
    match activeLanes lanesTx ok, activeLanes (marginLanes lanesRx margin) ok with
    | some tx, some rx =>
      let s := s.putHcal p codes
      let s := s.setPort p { s.port p with heaters := codes.map (fun c => c.toNat) }
      let s := (s.setReg (R.optLambda p) (BitVec.ofNat 64 (tx + rx * 65536))).setReg (R.optMargin p) (marginWord rx margin)
      let degraded := tx != 0xFFFF || rx != 0xFFFF
      let s := s.setFld (R.optSts p) F.optSts_DEGRADED (bitNat degraded)
      let s := if degraded then s.raise .opt p 3 else s
      let s := ((s.setFld (R.optSts p) F.optSts_REASON 0).setOptState p 2).raise .opt p 0
      .next (s.askCadence p)
    | _, _ => .next (s.setFld (R.optSts p) F.optSts_REASON (if lanesRx = 0 then 1 else 2))

/-- CTL.EN takes a value (R454, R455, R463). -/
def State.setOptEn (s : State) (p : Nat) (en : Bool) : State :=
  let s := s.setFld (R.optCtl p) F.optCtl_EN (bitNat en)
  let st := s.optState p
  if en then (if st = 0 ∨ st = 6 then s.startTraining p else s)
  else if st = 0 ∨ st = 6 then s else s.downPort p

/-- OPT_EN (R455): a firmware write to CTL.EN, ignored while the port is unavailable. -/
def execOptEn (a : Agent) (port : Fin 8) (en : Bool) (s : State) : Host.Outcome State Fault Refusal :=
  if s.pageDead .opt port then .next s
  else if !fwAllowed a .opt then .next (s.denied a (R.optCtl port))
  else .next (s.setOptEn port en)

/-- A write of 1 to CTL.RETRAIN (R453). -/
def State.retrainPort (s : State) (p : Nat) : State := if s.optState p = 3 then s.enterRecovery p else s

/-- RETRAIN (R453). -/
def execRetrain (_a : Agent) (port : Fin 8) (s : State) : Host.Outcome State Fault Refusal :=
  if s.pageDead .opt port then .next s else .next (s.retrainPort port)

/-! ## Sending (R438, R443 to R445) -/

/-- The channel whose buffer credits the next link word returns, and how many. -/
def OptPort.creditReturn (x : OptPort) : Nat × Nat :=
  match [2, 1, 0].find? (fun v => x.toReturn.getD v 0 != 0) with
  | some v => (v, Nat.min (x.toReturn.getD v 0) 4095)
  | none => (0, 0)

/-- The link word of a frame (R438). -/
def OptPort.linkWord (x : OptPort) (kind fseq : Nat) : Word :=
  let c := x.creditReturn
  BitVec.ofNat 64 (kind + fseq * 2 ^ 6 + (x.rxSeq + 16383) % 16384 * 2 ^ 20 + bitNat (x.rxAny || x.nakDue) * 2 ^ 34
    + bitNat x.nakDue * 2 ^ 35 + c.1 * 2 ^ 36 + c.2 * 2 ^ 38)

/-- A port after a link word has left: what it acknowledged and returned is no longer due. DESIGN CHOICE, log 84. -/
def OptPort.linkSent (x : OptPort) : OptPort :=
  let c := x.creditReturn
  { x with nakDue := false, ackPending := 0, toReturn := x.toReturn.set c.1 (x.toReturn.getD c.1 0 - c.2) }

/-- A cadence value to the stamps' resolution of 1/16 ns (R461). -/
def stamp (w : Word) : Word := BitVec.ofNat 64 (w.toNat / 4096 * 4096)

/-- A frame as it departs from a port: a CAD_RSP carries T3 (R442, R460), from its die's replica (R461). -/
def State.departing (s : State) (p : Nat) : Frame → Frame
  | .cadRsp x up t2 _ => .cadRsp x up t2 (stamp (s.nowAt (p / 2)))
  | f => f

/-- A frame leaves a port: it takes the next FSEQ and a buffer credit, and is kept for replay (R443, R445). -/
def State.sendFrame (s : State) (p : Nat) (f : Frame) : State :=
  let x := s.port p
  let f := s.departing p f
  let w := x.linkWord f.kind x.txSeq
  let y := x.linkSent
  let t1 := match f with
    | .cadReq n => if n = x.xchg then some (stamp (s.nowAt (p / 2))) else x.t1
    | _ => x.t1
  let s := s.setPort p { y with unacked := y.unacked ++ [(x.txSeq, f)], txSeq := (x.txSeq + 1) % 16384, t1 := t1,
                                credits := y.credits.set f.vc (y.credits.getD f.vc 0 - 1), wire := [w :: f.words] }
  match f with
  | .msg _ => s.addFld (R.optFrameCnt p) F.optFrameCnt_TX 1
  | _ => s

/-- Whether a ready frame is of a channel and, on channel 0, of a sender (R451): a context of this package, or transit. -/
def State.frameOf (s : State) (vc : Nat) (sender : Option CtxId) (f : Frame) : Bool :=
  f.vc == vc && (match f with
    | .msg m => (match sender with
      | some c => m.srcPkg == s.pkgId && m.ctx == c.toNat
      | none => m.srcPkg != s.pkgId)
    | _ => true)

/-- Whether a port may send a ready frame of a channel: it holds a credit, keeps fewer than 8,192 unacknowledged frames,
and its state admits the channel (R443, R445, R455). -/
def State.maySend (s : State) (p vc : Nat) : Bool :=
  let x := s.port p
  (s.optState p == 3 || (s.optUp p && vc == 2)) && x.credits.getD vc 0 != 0 && decide (x.unacked.length < 8192)

/-- Whether a frame of a higher channel goes first (R443). -/
def State.higherReady (s : State) (p vc : Nat) : Bool :=
  [2, 1].any (fun v => decide (vc < v) && s.maySend p v && (s.port p).ready.any (fun f => f.vc == v))

/-- FRAME_SEND (R443, R451). DEDUCED, log 50. -/
def execFrameSend (port : Fin 8) (vc : Fin 3) (sender : Option CtxId) (s : State) : Host.Outcome State Fault Refusal :=
  let p := port.val
  if !s.optLive p || !s.maySend p vc || s.higherReady p vc then .next s
  else match (s.port p).ready.find? (fun f => s.frameOf vc sender f) with
  | none => .next s
  | some f =>
    let x := s.port p
    .next ((s.setPort p { x with ready := x.ready.eraseP (fun f => s.frameOf vc sender f) }).sendFrame p f)

/-- Every unacknowledged frame is sent again, in FSEQ order (R444). -/
def State.replay (s : State) (p : Nat) : State :=
  let x := s.port p
  if x.unacked.isEmpty then s
  else
    let ws := x.unacked.map (fun e => x.linkWord e.2.kind e.1 :: e.2.words)
    let s := s.setPort p { x.linkSent with wire := ws, replays := x.replays + 1 }
    s.satFld (R.optLinkCnt p) F.optLinkCnt_REPLAY x.unacked.length

/-- The frames up to and including an acknowledged FSEQ leave the replay buffer (R445). -/
def OptPort.acked (x : OptPort) (ack : Nat) : OptPort :=
  match x.unacked.findIdx? (fun e => e.1 = ack) with
  | some i => { x with unacked := x.unacked.drop (i + 1), replays := 0 }
  | none => x

/-- ACK_TIMER (R444, R445): an acknowledgement, a NAK or returned credits that are due leave in an IDLE frame. -/
def execAckTimer (port : Fin 8) (s : State) : Host.Outcome State Fault Refusal :=
  let p := port.val
  let x := s.port p
  if s.optLive p && s.optUp p && (x.nakDue || x.ackPending != 0 || x.toReturn.any (· != 0)) then
    .next (s.setPort p { x.linkSent with wire := [[x.linkWord 0 0]] })
  else .next s

/-- What a judgement comes to: HELD with a REASON, DATA, or the state it was in (R455, R456). -/
def State.judged (s : State) (p : Nat) (reason : Nat) (both : Bool) : State :=
  let s := s.setFld (R.optSts p) F.optSts_REASON reason
  if reason ≠ 0 then (if s.optState p = 5 then s else (s.setOptState p 5).raise .opt p 4)
  else if both then s.setOptState p 3 else s

/-! ## Forming a fabric (R456, R459, R540) -/

/-- The offset from the source that a package knows at a port (in ps × 131072): that of the upstream port's last exchange,
else of the port's own. -/
def State.knownOfs (s : State) (p : Nat) : Int :=
  match s.upstream.bind (fun q => (s.port q).ofs) with
  | some o => o
  | none => ((s.port p).ofs).getD 0

/-- Whether R82 keeps the package out: it has not joined, a stream is armed, and its offset exceeds 1 µs. DEDUCED, log 23. -/
def State.unaligned (s : State) (p : Nat) : Bool :=
  !s.time.joined && s.anyArmed && !s.bit R.timeSts F.timeSts_IS_SOURCE && decide (1000000 * 131072 < (s.knownOfs p).natAbs)

/-- The first matching REASON of R456; 0 for none. DEDUCED, log 67. -/
def State.holdReason (s : State) (p : Nat) (h : Hello) : Nat :=
  if h.fabric ≠ s.fld (R.optFabCfg 0) F.optFabCfg_FABRIC_ID then 3
  else if h.pkg = s.pkgId then 4
  else if s.bit (R.optFabSts 0) F.optFabSts_UNLICENSED then 5
  else if h.size ≠ s.fabSize then 6
  else if s.unaligned p then 7
  else if (s.port p).exchanged && decide ((s.port p).rtt > 1400 * 65536) then 8
  else if h.reason ≠ 0 then 9
  else 0

/-- The last HELLO since training. -/
def State.peerHello (s : State) (p : Nat) : Option Hello :=
  if s.bit (R.optPeer p) F.optPeer_VALID then (s.port p).peer else none

/-- Whether a port sends READY (R456, R460, R540). -/
def State.sendsReady (s : State) (p : Nat) : Bool :=
  match s.peerHello p with
  | some h => s.holdReason p h == 0 && (s.port p).exchanged && s.bit R.pkgCtl F.pkgCtl_READY
  | none => false

/-- A port in LINKED or HELD is judged (R456): HELD with the first matching REASON, or DATA when both ends send READY.
DEDUCED, log 67. -/
def State.judge (s : State) (p : Nat) : State :=
  if s.optState p = 2 ∨ s.optState p = 5 then
    match s.peerHello p with
    | some h => s.judged p (s.holdReason p h) (s.sendsReady p && h.ready)
    | none => s
  else s

/-- LINK_RECOVERED (R453): back within 1 ms; replay resumes from the peer's ACK, and the port is in DATA again where R456
lets it be. -/
def execLinkRecovered (port : Fin 8) (ack : Option (BitVec 14)) (s : State) : Host.Outcome State Fault Refusal :=
  let p := port.val
  if s.optLive p && s.optState p == 4 && decide (s.elapsedNs (s.port p).since ≤ 1000000) then
    let x := match ack with
      | some a => (s.port p).acked a.toNat
      | none => s.port p
    let s := s.setPort p { x with replays := 0 }
    .next (((s.setOptState p 2).judge p).replay p)
  else .next s

/-- RECOVERY_TIMEOUT (R454). -/
def execRecoveryTimeout (port : Fin 8) (s : State) : Host.Outcome State Fault Refusal :=
  if s.optLive port && s.optState port == 4 && decide (1000000 < s.elapsedNs (s.port port).since) then .next (s.downPort port)
  else .next s

/-- The HELLO a port sends (R442, R459): a candidate at 63 hops is not advertised. -/
def State.helloFrame (s : State) (p : Nat) : Hello :=
  let c := s.bestCandidate
  let ok := match c with
    | some (_, h, _) => decide (h < 63)
    | none => false
  { fabric := s.fld (R.optFabCfg 0) F.optFabCfg_FABRIC_ID, pkg := s.pkgId, port := p, size := s.fabSize,
    licMax := s.fld (R.optFabSts 0) F.optFabSts_LIC_MAX, candPkg := if ok then (c.map (·.1)).getD 0 else 0,
    candHops := if ok then (c.map (·.2.1)).getD 0 else 0, candValid := ok, armed := s.anyArmed,
    ready := s.sendsReady p, reason := s.fld (R.optSts p) F.optSts_REASON }

/-- HELLO_TIMER (R459). -/
def execHelloTimer (port : Fin 8) (s : State) : Host.Outcome State Fault Refusal :=
  if s.optLive port && s.optUp port then
    .next (s.pushCtrl port (.hello (s.helloFrame port)) (fun f => match f with | .hello _ => true | _ => false))
  else .next s

/-- CANDIDATE_EXPIRY (R459): a candidate not heard for 1 ms no longer counts, and the best is found anew. -/
def execCandidateExpiry (port : Fin 8) (s : State) : Host.Outcome State Fault Refusal :=
  if s.running && decide (1000000 < s.elapsedNs (s.port port).heard) then .next s.elect else .next s

/-- CAD_REQ_TIMER (R460): a follower asks on its upstream port. -/
def execCadReqTimer (s : State) : Host.Outcome State Fault Refusal :=
  match s.upstream with
  | some p => if s.optLive p && s.optUp p then .next (s.askCadence p) else .next s
  | none => .next s

/-! ## Receiving (R438, R444, R445, R449) -/

/-- What a frame comes to as it arrives: words of which one is uncorrectable, or a reserved kind, or words that are no
whole frame (damaged); an IDLE's link word; or a sequenced frame's link word and, where SUB is one of R442, the frame. -/
inductive Arrival where
  | damaged
  | idle (w : Word)
  | frame (w : Word) (vc : Nat) (f : Option Frame)
  deriving DecidableEq, Repr

/-- The code words received, corrected (R444, R575). DEDUCED, log 68. -/
def FrameIn.read (f : FrameIn) : List Word :=
  f.words.zipIdx.map (fun e => BitVec.ofNat 64 (eccData e.1.toNat (f.flips.getD e.2 0)))

/-- Whether the inversions of a word can be corrected. -/
def correctable (m : BitVec 72) : Bool :=
  match eccClass m with
  | .correctable _ => true
  | _ => false

/-- How many of a frame's words meet a test on their inversions. -/
def FrameIn.count (f : FrameIn) (p : BitVec 72 → Bool) : Nat :=
  ((List.range f.words.length).filter (fun i => p (f.flips.getD i 0))).length

/-- The frame that has arrived (R437, R444). -/
def FrameIn.arrival (f : FrameIn) : Arrival :=
  if f.count (fun m => eccClass m == .uncorrectable) ≠ 0 then .damaged
  else match f.read with
  | [] => .damaged
  | w :: ws =>
    match wbits w 3 0, ws.length with
    | 0, 0 => .idle w
    | 1, 8 => .frame w 0 (frameOfWords 1 ws)
    | 2, 2 => .frame w 1 (frameOfWords 2 ws)
    | 3, 3 => .frame w 2 (frameOfWords 3 ws)
    | _, _ => .damaged

/-- A discarded frame: one NAK per gap (R444). DEDUCED, log 68. -/
def State.discardFrame (s : State) (p : Nat) : State :=
  let x := s.port p
  if x.nakSent then s else s.setPort p { x with nakSent := true, nakDue := true }

/-- A received link word acts: acknowledgement, returned credits, and a NAK's replay (R438, R443 to R445). A frame replayed
8 times without acknowledgement puts the port into recovery. -/
def State.linkWordIn (s : State) (p : Nat) (w : Word) : State :=
  let x := s.port p
  let x := if wbits w 34 34 = 1 then x.acked (wbits w 33 20) else x
  let v := wbits w 37 36
  let x := if v < 3 then { x with credits := x.credits.set v (x.credits.getD v 0 + wbits w 49 38) } else x
  let s := s.setPort p x
  if wbits w 35 35 = 1 then
    if 8 ≤ x.replays then s.enterRecovery p else s.replay p
  else s

/-- A sequenced frame is taken (R443 to R445): its buffer credit is to be returned and it is to be acknowledged. -/
def State.takeFrame (s : State) (p vc : Nat) : State :=
  let x := s.port p
  s.setPort p { x with rxSeq := (x.rxSeq + 1) % 16384, rxAny := true, nakSent := false, ackPending := x.ackPending + 1,
                       toReturn := x.toReturn.set vc (x.toReturn.getD vc 0 + 1) }

/-- A MSG frame acts: delivered here, or forwarded (R447 to R449). None: its destination's line is busy. DEDUCED, log 68. -/
def State.msgIn (s : State) (p : Nat) (m : MsgFrame) : Option State :=
  let s := s.addFld (R.optFrameCnt p) F.optFrameCnt_RX 1
  if m.destPkg = s.pkgId then
    let x : InFlight := { srcPkg := m.srcPkg, srcUnit := m.srcUnit, srcLine := m.srcLine, srcQ := m.srcLq, destQ := m.destQ,
                          lineCtx := m.ctx, seq := m.seq, isMsg := m.opcode == 2, entry := mkEntry 0 0 m.body.toNat }
    if s.pathHeld (p / 2) (unitDie (qidUnit m.destQ)) true then none else s.deliver x
  else some (s.routeMsg m true)

/-- A CREDIT frame acts (R447 to R449). -/
def State.creditFrameIn (s : State) (p : Nat) (c : CreditFrame) : State :=
  if c.destPkg = s.pkgId then
    let x : CreditIn := ⟨1024 + p / 2, c.unit, c.line, c.count, c.status, c.lq, none⟩
    if s.pathHeld (p / 2) (unitDie c.unit) true then { s with sch := { s.sch with credits := s.sch.credits ++ [x] } } else s.creditIn x
  else s.routeCredit c true

/-- A HELLO acts (R456, R458, R459). -/
def State.helloIn (s : State) (p : Nat) (h : Hello) : State :=
  let s := s.setPort p { s.port p with peer := some h, heard := s.now }
  let s := s.setReg (R.optPeer p) (BitVec.ofNat 64 (h.pkg + h.port * 2 ^ 12 + 2 ^ 15))
  s.elect.judge p

/-- UP_OFS of an answer (R460). -/
def State.upOfs (s : State) : BitVec 32 :=
  if s.bit R.timeSts F.timeSts_IS_SOURCE then 0 else BitVec.ofNat 32 (s.fld R.timeAlignOfs F.timeAlignOfs_OFS_PS)

/-- A CAD_REQ is answered (R460); T3 is stamped as the answer departs. -/
def State.cadReqIn (s : State) (p n : Nat) : State := s.pushFrame p (.cadRsp n s.upOfs (stamp (s.nowAt (p / 2))) 0)

/-- ⌊n / d⌋ or ⌈n / d⌉: exact where d divides n; otherwise the spec does not say which. DESIGN CHOICE, log 22. -/
def State.roundOpen (s : State) (n d : Int) : Int × State :=
  if n % d = 0 then (n / d, s)
  else
    let t := s.takeFresh
    (n / d + (if natBit (Config.freeWord t.1).toNat 0 then 1 else 0), t.2)

/-- The offset from the source drives the cadence (R80 to R82): a package that joins with no stream armed steps once; any
other slews. The offset `num` is in units of 2^-17 ns / 1000, `ps` in picoseconds. An offset that OFS_PS cannot hold is written
modulo 2^32: the spec gives neither a saturation nor a wrap. DEDUCED, log 23. DESIGN CHOICE, log 90. -/
def State.applyOffset (s : State) (num ps : Int) : State :=
  let u := s.roundOpen num 2000
  let s := u.2
  if !s.time.joined && !s.anyArmed then
    let s := s.stepCounter (BitVec.ofInt 64 ((s.now.toNat : Int) - u.1))
    let s := { s with time := { s.time with joined := true } }
    (s.setFld R.timeAlignOfs F.timeAlignOfs_OFS_PS 0).setFld R.timeSts F.timeSts_ALIGNED 1
  else
    let s := s.slewBy u.1
    let s := if ps.natAbs ≤ 1000000 then { s with time := { s.time with joined := true } } else s
    let s := s.setFld R.timeAlignOfs F.timeAlignOfs_OFS_PS (patternOf 32 ps)
    if 5000 < ps.natAbs then (s.setFld R.timeSts F.timeSts_ALIGNED 0).raise .time 0 2
    else s.setFld R.timeSts F.timeSts_ALIGNED 1

/-- A CAD_RSP acts (R456, R460, R461): the round trip, and on the upstream port the offset from the source. -/
def State.cadRspIn (s : State) (p n : Nat) (up : BitVec 32) (t2 t3 : Word) : State :=
  let x := s.port p
  match x.t1 with
  | none => s
  | some t1 =>
    if n ≠ x.xchg then s
    else
      let t4 := stamp (s.nowAt (p / 2))
      let rtt := cadenceDiff t4 t1 - cadenceDiff t3 t2
      let r := s.roundOpen (rtt * 1000) 65536
      let s := r.2.setFld (R.optRtt p) F.optRtt_PS (patternOf 32 r.1)
      let asym := signedOf 32 (s.fld (R.optAsym p) F.optAsym_PS)
      let num := (cadenceDiff t4 t3 - cadenceDiff t2 t1) * 1000 - asym * 65536 + up.toInt * 131072
      let s := s.setPort p { s.port p with exchanged := true, rtt := rtt.toNat, t1 := none, ofs := some num }
      let s := if s.upstream = some p then
          let q := s.roundOpen num 131072
          q.2.applyOffset num q.1
        else s
      s.judge p

/-- A frame taken in order acts. None: it waits in the receiver's buffer. DEDUCED, log 68. -/
def State.frameActs (s : State) (p : Nat) : Frame → Option State
  | .msg m => s.msgIn p m
  | .credit c => some (s.creditFrameIn p c)
  | .hello h => some (s.helloIn p h)
  | .cadReq n => some (s.cadReqIn p n)
  | .cadRsp n up t2 t3 => some (s.cadRspIn p n up t2 t3)

/-- A frame arrives at a port in LINKED, DATA or HELD (R444, R449): `mine` says which frames the command names.
DEDUCED, log 68. -/
def State.arrive (s : State) (p : Nat) (f : FrameIn) (mine : Arrival → Bool) : State :=
  let a := f.arrival
  if !s.optLive p || !s.optUp p || !(a == .damaged || mine a) then s
  else
    let s1 := s.satFld (R.optLinkCnt p) F.optLinkCnt_CE (f.count correctable)
    match a with
    | .damaged => s1.discardFrame p
    | .idle w => s1.linkWordIn p w
    | .frame w vc g =>
      if wbits w 19 6 ≠ (s1.port p).rxSeq then s1.discardFrame p
      else
        let s2 := (s1.takeFrame p vc).linkWordIn p w
        match g with
        | none => s2
        | some g => (s2.frameActs p g).getD s

/-- IDLE (R438): its link word acts. -/
def execIdle (port : Fin 8) (f : FrameIn) (s : State) : Host.Outcome State Fault Refusal :=
  .next (s.arrive port f (fun a => match a with | .idle _ => true | _ => false))

/-- MSG (R449): delivered, forwarded or refused. -/
def execMsg (port : Fin 8) (f : FrameIn) (s : State) : Host.Outcome State Fault Refusal :=
  .next (s.arrive port f (fun a => match a with | .frame _ v _ => v == 0 | _ => false))

/-- CREDIT (R449): credits added or forwarded, a refusal's status recorded. -/
def execCredit (port : Fin 8) (f : FrameIn) (s : State) : Host.Outcome State Fault Refusal :=
  .next (s.arrive port f (fun a => match a with | .frame _ v _ => v == 1 | _ => false))

/-- HELLO (R456, R459). -/
def execHello (port : Fin 8) (f : FrameIn) (s : State) : Host.Outcome State Fault Refusal :=
  .next (s.arrive port f (fun a => match a with | .frame _ 2 (some (.hello _)) => true | .frame _ 2 none => true | _ => false))

/-- CAD_REQ (R460). -/
def execCadReq (port : Fin 8) (f : FrameIn) (s : State) : Host.Outcome State Fault Refusal :=
  .next (s.arrive port f (fun a => match a with | .frame _ 2 (some (.cadReq _)) => true | .frame _ 2 none => true | _ => false))

/-- CAD_RSP (R460). -/
def execCadRsp (port : Fin 8) (f : FrameIn) (s : State) : Host.Outcome State Fault Refusal :=
  .next (s.arrive port f (fun a => match a with | .frame _ 2 (some (.cadRsp ..)) => true | .frame _ 2 none => true | _ => false))

end Sys2Proof.Machine
end

