-- ==== Sys2Proof/Machine/Pcie.lean ====
section
/-! DEFINITION. The PCIe ports (R405 to R425, R428, R429): the configuration space and BAR0 of an endpoint, inbound requests
and the I/O translation, the events that complete or lose outbound requests, and configuration requests through ECAM. -/

namespace Sys2Proof.Machine

/-! ## Ports -/

/-- The TLB of a port (R416). -/
def portTlb (q : Nat) : Nat := 128 + q

/-- The location code of a port's I/O translation (R56). -/
def ioLoc (q : Nat) : Loc := locHost 9 q

/-- Whether a port's link is up or in recovery. -/
def State.linkUp (s : State) (q : Nat) : Bool := s.running && s.pcieAvail q && decide (2 ≤ s.fld (R.pcieLinkSts q) F.pcieLinkSts_STATE)

/-- A completion leaves a port: its PCIe completion status (0 successful, 1 Unsupported Request, 4 Completer Abort) and data.
DESIGN CHOICE, log 84. -/
def State.pcieReply (s : State) (q code : Nat) (bs : List Byte) : State :=
  let x := s.pport q
  s.setPport q { x with sent := x.sent ++ [(code, bs)] }

/-- A rejected request is counted: UR (R415) or CA (R416), and IN_REJECT is set. -/
def State.rejectCount (s : State) (q : Nat) (ca : Bool) : State :=
  (if ca then s.satFld (R.pcieInReject q) F.pcieInReject_CA 1 else s.satFld (R.pcieInReject q) F.pcieInReject_UR 1).raise .pcie q 3

/-- Whether an operation is posted: it has no completion. -/
def PcieOp.posted : PcieOp → Bool
  | .write _ => true
  | _ => false

/-- A request is completed as Unsupported Request, and performs nothing (R413, R415). DEDUCED, log 63. -/
def State.unsupported (s : State) (q : Nat) (op : PcieOp) : State :=
  let s := s.rejectCount q false
  if op.posted then s else s.pcieReply q 1 []

/-- A request is completed as Completer Abort (R416, R417). -/
def State.aborted (s : State) (q : Nat) (op : PcieOp) : State :=
  let s := s.rejectCount q true
  if op.posted then s else s.pcieReply q 4 []

/-! ## The configuration space (R408, R409) -/

/-- PKG.CAP.PART_CODE. -/
def State.partCode (s : State) : Nat := s.fld R.pkgCap F.pkgCap_PART_CODE

/-- The Vendor ID (R409). -/
def State.vendorId (s : State) : Nat := (s.storeRead 0x24).toNat % 65536

/-- A stored configuration doubleword. PRESUMED, log 61. -/
def PciePort.cfgWord (x : PciePort) (ofs : Nat) : Nat := (Sparse.get 0 x.cfg ofs).toNat

/-- The doubleword at an offset of the endpoint function's configuration space. The places are those of the PCI
configuration header, with the PCI Express capability at 0x70 and the MSI-X capability at 0xB0 (PRESUMED).
PRESUMED, log 61. -/
def State.epConfig (s : State) (q ofs : Nat) : Nat :=
  let x := s.pport q
  let dev := 0x100 + s.partCode
  match ofs with
  | 0x00 => s.vendorId + dev * 65536
  | 0x04 => Nat.land (x.cfgWord 4) 0x406 + 0x100000
  | 0x08 => 0x12000001
  | 0x10 => Nat.land (x.cfgWord 0x10) 0xFFF00000 + 4
  | 0x14 => x.cfgWord 0x14
  | 0x18 => 0xC
  | 0x1C => x.cfgWord 0x1C / 2 ^ (x.bar2 - 32) * 2 ^ (x.bar2 - 32)
  | 0x2C => s.vendorId + dev * 65536
  | 0x34 => 0x70
  | 0x70 => 0x0002B010
  | 0xB0 => Nat.land (x.cfgWord 0xB0) 0xC0000000 + 0x001F0011
  | 0xB4 => 0
  | 0xB8 => 0x1000
  | _ => 0

/-- The doubleword at an offset of a Root Port's own configuration space (R409). PRESUMED, log 61. -/
def State.rpConfig (s : State) (q ofs : Nat) : Nat :=
  match ofs with
  | 0x00 => s.vendorId + (0x110 + q) * 65536
  | 0x04 => Nat.land ((s.pport q).cfgWord 4) 0x406 + 0x100000
  | 0x08 => 0x06040001
  | 0x0C => 0x00010000
  | 0x18 => Nat.land ((s.pport q).cfgWord 0x18) 0x00FFFFFF
  | 0x34 => 0x40
  | 0x40 => 0x0000700D
  | 0x44 => s.vendorId + (0x110 + q) * 65536
  | 0x70 => 0x00420010
  | _ => 0

/-- A configuration doubleword is stored. PRESUMED, log 61. -/
def State.setCfg (s : State) (q ofs : Nat) (v : BitVec 32) : State :=
  let x := s.pport q
  s.setPport q { x with cfg := Sparse.set id 0 x.cfg ofs v }

/-- MSI-X Enable. -/
def PciePort.msixOn (x : PciePort) : Bool := natBit (x.cfgWord 0xB0) 31

/-- Function Mask. -/
def PciePort.msixMasked (x : PciePort) : Bool := natBit (x.cfgWord 0xB0) 30

/-- A word of the MSI-X table: every vector is masked at reset. -/
def PciePort.msixWord (x : PciePort) (i : Nat) : Word := Sparse.get (if i % 2 = 1 then BitVec.ofNat 64 (2 ^ 32) else 0) x.msix i

/-- A vector is sent as a memory write of the host's, or stays pending while masked or not sendable (R401, R408). -/
def State.fireVector (s : State) (q v : Nat) : State :=
  let x := s.pport q
  let ctl := (x.msixWord (2 * v + 1)).toNat
  if x.msixMasked || natBit ctl 32 || !s.outOpen q then
    s.setPport q { x with pba := x.pba ||| 2 ^ v }
  else
    s.setPport q { x with pba := (x.pba ||| 2 ^ v) - 2 ^ v,
                          outW := x.outW ++ [⟨(x.msixWord (2 * v)).toNat, natToBytes 4 ctl, false, .msi, none⟩] }

/-- Pending vectors that may now be sent leave. -/
def State.firePending (s : State) (q : Nat) : State :=
  (List.range 32).foldl (fun s v => if natBit (s.pport q).pba v && (s.pport q).msixOn then s.fireVector q v else s) s

/-! ## Outbound requests that end (R421 to R424) -/

/-- A command whose outbound request is lost completes HOST_LOST. -/
def State.loseCmd (s : State) (u q seq : Nat) : State :=
  match s.flight u q (fun f => f.seq == seq) with
  | some f => s.complete f 0x2A 0 (locUnit u 0)
  | none => s

/-- What becomes of the owner of an outbound request that is lost or ends in error. DEDUCED, log 62. -/
def State.loseOwner (s : State) : OutOwner → State
  | .cmd u q seq => s.loseCmd u q seq
  | .fetch u q => if s.qState u q = 5 then s else s.fetchLost u q
  | .core c => { s with host := { s.host with results := insertKey s.host.results c (.data (List.replicate 8 0xFF)) } }
  | .msi => s
  | .slot k => s.slotLost k
  | .warden _ => s

/-- The loss of everything a port has not had acknowledged or completed (R422). -/
def State.losePort (s : State) (q : Nat) : State :=
  let x := s.pport q
  let owners := x.outW.map (·.owner) ++ x.outR.map (·.owner)
  let s := s.setPport q { x with outW := [], outR := [] }
  owners.dedup.foldl State.loseOwner s

/-- The link's state and, of an endpoint, its configuration space are reset (R410). DEDUCED, log 62. -/
def State.resetLink (s : State) (q : Nat) : State :=
  let mode := s.fld (R.pcieLinkSts q) F.pcieLinkSts_MODE_CUR
  let s := (s.setReg (R.pcieLinkSts q) 0).setFld (R.pcieLinkSts q) F.pcieLinkSts_MODE_CUR mode
  if mode = 1 then
    let x := s.pport q
    s.setPport q { x with cfg := [], msix := [], pba := 0 }
  else s

/-- A link-down (R410, R422, R429). DEDUCED, log 62. -/
def State.linkDown (s : State) (q : Nat) : State :=
  let s := (s.resetLink q).losePort q
  (s.satFld (R.pcieLinkEvt q) F.pcieLinkEvt_DOWN 1).raise .pcie q 0

/-- PCIE_WRITE_ACK (R421): the oldest outbound write is acknowledged: it is performed. -/
def execPcieWriteAck (port : Fin 4) (s : State) : Host.Outcome State Fault Refusal :=
  let x := s.pport port
  if s.linkUp port then .next (s.setPport port { x with outW := x.outW.tail }) else .next s

/-- The data of an outbound read reaches its owner. DEDUCED, log 62. -/
def State.readDone (s : State) (q : Nat) (r : OutRead) (data : List Byte) : State :=
  match r.owner with
  | .cmd u lq seq =>
    if r.len = 0 then
      let k := queueId u lq
      { s with sch := { s.sch with outPorts := Sparse.set id [] s.sch.outPorts k ((Sparse.get [] s.sch.outPorts k).filter (· != q)) } }
    else
      { s with xl := { s.xl with chans := s.xl.chans.map (fun e =>
          if e.2.u = u ∧ e.2.q = lq ∧ e.2.seq = seq ∧ ¬ s.regBit (R.dmaSts (e.1 / 16)) (16 + e.1 % 16) then (e.1, { e.2 with data := some (e.2.data.getD [] ++ data) }) else e) } }
  | .fetch u lq => if s.canFetch u lq && (lookupKey s.sch.heads (queueId u lq)).isNone then s.fetched u lq (entryOf data) else s
  | .core c => { s with host := { s.host with results := insertKey s.host.results c (.data data) } }
  | .msi => s
  | .slot k => s.slotFetched k (q * 2 ^ 64 + r.addr) data
  | .warden w => { s with host := { s.host with wread := insertKey s.host.wread ((w * 4 + q) * 2 ^ 64 + r.addr) data } }

/-- PCIE_READ_COMPLETION (R421): the oldest outbound read's completion arrives with its data. -/
def execPcieReadCompletion (port : Fin 4) (data : List Byte) (s : State) : Host.Outcome State Fault Refusal :=
  let x := s.pport port
  match x.outR with
  | [] => .next s
  | r :: rest =>
    if s.linkUp port && data.length == r.len then .next ((s.setPport port { x with outR := rest }).readDone port r data)
    else .next s

/-- PCIE_CPL_TIMEOUT (R422): the oldest outbound read has waited beyond CPL_TIMEOUT; it ends in error. DEDUCED, log 62. -/
def execPcieCplTimeout (port : Fin 4) (s : State) : Host.Outcome State Fault Refusal :=
  let x := s.pport port
  match x.outR with
  | [] => .next s
  | r :: rest =>
    if decide (s.elapsedNs r.since > s.fld (R.pcieCplTimeout port) F.pcieCplTimeout_US * 1000) then
      .next ((s.setPport port { x with outR := rest }).loseOwner r.owner)
    else .next s

/-- PCIE_LINK_DOWN (R422): an event that loses unacknowledged requests. A Function Level Reset and a cleared Bus Master
Enable are an endpoint's; the second leaves the link up. -/
def execPcieLinkDown (port : Fin 4) (cause : PcieDown) (s : State) : Host.Outcome State Fault Refusal :=
  if !s.linkUp port then .next s
  else match cause with
  | .bmeClear =>
    if s.pcieEndpoint port && s.bit (R.pcieLinkSts port) F.pcieLinkSts_BME then
      let s := s.setCfg port 4 (BitVec.ofNat 32 ((s.pport port).cfgWord 4 - Nat.land ((s.pport port).cfgWord 4) 4))
      .next ((s.setFld (R.pcieLinkSts port) F.pcieLinkSts_BME 0).losePort port)
    else .next s
  | .flr => if s.pcieEndpoint port then .next ((s.resetLink port).losePort port) else .next s
  | _ => .next (s.linkDown port)

/-- PCIE_RECOVERY (R422): an entry into Recovery that ends in L0; nothing is lost. -/
def execPcieRecovery (port : Fin 4) (s : State) : Host.Outcome State Fault Refusal :=
  if s.linkUp port then .next ((s.satFld (R.pcieLinkEvt port) F.pcieLinkEvt_RECOVERY 1).raise .pcie port 2) else .next s

/-- Whether a port's PERST pin is asserted: a root port drives it (R407, R539). -/
def State.perstOut (s : State) (q : Nat) : Bool :=
  !s.pcieEndpoint q && (s.plat.perstHold || s.bit (R.pcieCtl q) F.pcieCtl_PERST_OUT)

/-- PCIE_LINK_UP (R429): a link that is down comes up at a rate and width within the port's limits; the size of BAR2 is
taken, and LINK_UP is set. At 64.0 GT/s the link is in FLIT mode (R405). -/
def execPcieLinkUp (port : Fin 4) (rate : Fin 8) (width : Fin 8) (flit : Bool) (s : State) : Host.Outcome State Fault Refusal :=
  let x := s.pport port
  if !s.running || !s.pcieAvail port || s.perstOut port || s.fld (R.pcieLinkSts port) F.pcieLinkSts_STATE ≥ 2
      || rate.val = 0 || decide (rate.val > x.limRate) || decide (width.val > x.limWidth) || (rate.val = 6 && !flit) then .next s
  else
    let n := s.fld (R.pcieEpBar2 port) F.pcieEpBar2_SIZE_LOG2
    let s := s.setPport port { x with bar2 := if 30 ≤ n ∧ n ≤ 40 then n else 36 }
    let r := R.pcieLinkSts port
    let s := (((s.setFld r F.pcieLinkSts_STATE 2).setFld r F.pcieLinkSts_RATE rate).setFld r F.pcieLinkSts_WIDTH width).setFld r
      F.pcieLinkSts_FLIT (bitNat flit)
    .next (s.raise .pcie port 1)

/-! ## Inbound requests (R413 to R418) -/

/-- The device table entry of a requester (R414), where it binds the requester: its PARK and its context. -/
def State.dtEntry (s : State) (q : Nat) (bdf : Nat) : Option (Bool × Nat) :=
  let a := s.fld (R.pcieDtBase q) F.pcieDtBase_ADDR * 2 ^ 19 + 8 * bdf
  if !s.systemGranule a || !s.stackAvail (stackOf a) || s.memUE a 8 then none
  else
    let e := (s.memWord a).toNat
    if natBit e 0 && natBits e 3 2 == 0 && natBits e 63 16 == 0 then some (natBit e 1, natBits e 15 4) else none

/-- The device virtual address of a request that goes to package memory (R413). -/
def State.inboundVa (s : State) (q : Nat) (addr len : Nat) : Option Nat :=
  if !s.pcieEndpoint q then some addr
  else
    let x := s.pport q
    let base := (x.cfgWord 0x1C) * 2 ^ 32 / 2 ^ x.bar2 * 2 ^ x.bar2
    if base ≤ addr ∧ addr + len ≤ base + 2 ^ x.bar2 ∧ natBit (x.cfgWord 4) 1 then
      some (s.fld (R.pcieEpVa q) F.pcieEpVa_VA * 2 ^ 30 + (addr - base))
    else none

/-- The offset of a request in BAR0, where it hits it. -/
def State.bar0Hit (s : State) (q : Nat) (addr len : Nat) : Option Nat :=
  let x := s.pport q
  let base := Nat.land (x.cfgWord 0x10) 0xFFF00000 + x.cfgWord 0x14 * 2 ^ 32
  if s.pcieEndpoint q ∧ natBit (x.cfgWord 4) 1 ∧ base ≤ addr ∧ addr + len ≤ base + 0x100000 then some (addr - base) else none

/-- The bytes an operation covers. -/
def PcieOp.len : PcieOp → Nat
  | .read n => n
  | .write bs => bs.length
  | .atomic _ n _ _ => n

/-- A mailbox register takes a word the outside host wrote, and MBOX is set (R427). -/
def State.mboxWrite (s : State) (i : Nat) (v : Word) : State :=
  if s.pageDead .host 0 then s else (s.setReg (R.hostMbox i) v).raise .host 0 1

/-- The aligned 8-byte word at an offset of BAR0 (R408). -/
def State.bar0Word (s : State) (q ofs : Nat) : Word :=
  if ofs < 0x200 then (s.pport q).msixWord (ofs / 8)
  else if ofs = 0x1000 then BitVec.ofNat 64 (s.pport q).pba
  else if 0x2000 ≤ ofs ∧ ofs < 0x2100 then s.reg (R.hostMbox ((ofs - 0x2000) / 8))
  else 0

/-- An aligned 8-byte word at an offset of BAR0 is written. -/
def State.bar0Put (s : State) (q ofs : Nat) (v : Word) : State :=
  if ofs < 0x200 then
    let x := s.pport q
    let d : Word := if ofs / 8 % 2 = 1 then BitVec.ofNat 64 (2 ^ 32) else 0
    (s.setPport q { x with msix := Sparse.set id d x.msix (ofs / 8) v }).firePending q
  else if 0x2000 ≤ ofs ∧ ofs < 0x2100 then s.mboxWrite ((ofs - 0x2000) / 8) v
  else s

/-- A request that hits BAR0 is served there. Writes act on whole aligned 8-byte words; a shorter write merges. -/
def State.bar0 (s : State) (q ofs : Nat) (op : PcieOp) : State :=
  match op with
  | .read n =>
    let word := fun (o : Nat) => s.bar0Word q (o / 8 * 8)
    s.pcieReply q 0 ((List.range n).map (fun i => BitVec.ofNat 8 ((word (ofs + i)).toNat / 2 ^ (8 * ((ofs + i) % 8)))))
  | .write bs =>
    let ws := if bs.isEmpty then [] else (List.range ((ofs + bs.length - 1) / 8 + 1 - ofs / 8)).map (ofs / 8 + ·)
    ws.foldl (fun s w =>
      let old := (s.bar0Word q (8 * w)).toNat
      let byte := fun (i : Nat) => if ofs ≤ 8 * w + i ∧ 8 * w + i < ofs + bs.length then ((bs.getD (8 * w + i - ofs) 0).toNat) else old / 2 ^ (8 * i) % 256
      s.bar0Put q (8 * w) (BitVec.ofNat 64 (((List.range 8).map (fun i => byte i * 2 ^ (8 * i))).sum))) s
  | .atomic _ _ _ _ => s.unsupported q op

/-- How an inbound piece ends. -/
inductive PieceEnd where
  | ok (bs : List Byte)
  | notPresent (level : Nat)
  | fatal (st : Status)
  | unsupported
  | busy

/-- One piece of an inbound request, translated through the port's TLB and performed at the home with RD_CUR, WR_LINE,
WR_PART or ATOM (R416): nothing is kept in a cache. Its bytes pass through the port's buffers (R594). DEDUCED, log 38. -/
def State.inPieceRun (s : State) (q ctx va : Nat) (op : PcieOp) (ofs n : Nat) : PieceEnd × State :=
  let a : AccessKind := match op with
    | .read _ => .read
    | .write _ => .write
    | .atomic _ _ _ _ => .atomic
  let loc := locHost 5 q
  if s.walkHeld (portTlb q) ctx va then (.busy, s)
  else match s.translate (portTlb q) ctx va a with
  | (.error (.notPresent L), s) => (.notPresent L, s)
  | (.error _, s) => (.fatal .translation, s)
  | (.ok x, s) =>
    let x := { x with c := false }
    if (outPort x.pa).isSome then (.unsupported, s)
    else match s.bufferStrike .pcie q 1 loc ctx loc with
    | (true, s) => (.fatal .uncorrectable, s)
    | (false, s) =>
    match op with
    | .read _ =>
      (match s.xRead (portTlb q) ctx x n loc with
      | (.ok bs, s) => (.ok bs, s)
      | (.error (.fatal st), s) => (.fatal st, s)
      | (.error _, s) => (.busy, s))
    | .write bs =>
      (match s.xWrite (portTlb q) ctx x ((bs.drop ofs).take n) loc with
      | (.ok _, s) => (.ok [], s)
      | (.error (.fatal st), s) => (.fatal st, s)
      | (.error _, s) => (.busy, s))
    | .atomic o size v cmp =>
      match s.homeCheck ctx x.pa false loc with
      | (some st, s) => (.fatal st, s)
      | (none, s) =>
        if s.lineBusy (x.pa / 128) || s.memHeld 4 x.pa then (.busy, s)
        else match (s.dirsMeet x.pa size.val (some (BitVec.ofNat 12 ctx))).consume x.pa size.val (some ctx) loc with
          | (true, s) => (.fatal .uncorrectable, s)
          | (false, s) =>
            let old := s.memBytes x.pa size.val
            (.ok old, s.homeAtomic x.pa size.val (fun w => o.apply size.val w v.toNat cmp.toNat) (some ctx) loc)

/-- One piece of an inbound request, with the faults of the dirty lines that it moved out of a cache (R579). -/
def State.inPiece (s : State) (q ctx va : Nat) (op : PcieOp) (ofs n : Nat) : PieceEnd × State :=
  let r := s.inPieceRun q ctx va op ofs n
  (r.1, s.movedFaults r.2)

/-- A fault record of the I/O translation (R417): its QID is the requester ID, RESTART the byte index of the piece. -/
def State.ioRecord (s : State) (q bdf ctx va : Nat) (op : PcieOp) (level ofs : Nat) : State :=
  let write := match op with
    | .read _ => false
    | _ => true
  s.faultQueued 4 bdf (faultRecord va ctx (ioLoc q) write false level 0 bdf ofs s.now)

/-- The access of an operation (R325). -/
def PcieOp.access : PcieOp → AccessKind
  | .read _ => .read
  | .write _ => .write
  | .atomic _ _ _ _ => .atomic

/-- An inbound request runs on from a byte index, piece by piece (R416, R417). The result says whether it is done with; it
is not when it parks or when a line is BUSY. -/
def State.inRun (s : State) (q : Nat) (r : PcieReq) (ctx va : Nat) (park : Bool) : Nat → Nat → List Byte → Bool × State
  | 0, _, _ => (true, s)
  | fuel + 1, ofs, got =>
    let len := r.op.len
    if len ≤ ofs ∧ (0 < ofs ∨ len = 0) then (true, if r.op.posted then s else s.pcieReply q 0 got)
    else
      let n := min (len - ofs) (4096 - (va + ofs) % 4096)
      match s.inPiece q ctx (va + ofs) r.op ofs n with
      | (.ok bs, s) => State.inRun s q r ctx va park fuel (ofs + n) (got ++ bs)
      | (.fatal st, s) => (true, (s.aborted q r.op).ctxFault ctx st.code (ioLoc q))
      | (.unsupported, s) => (true, s.unsupported q r.op)
      | (.notPresent L, s) =>
        let s := s.ioRecord q r.bdf.toNat ctx (va + ofs) r.op L ofs
        if park then
          let x := s.pport q
          let s := s.setPport q { x with parked := ⟨r, ctx, ofs, got, true, s.now⟩ :: x.parked }
          (false, { s with xl := { s.xl with parks := s.xl.parks ++
            [⟨4, r.bdf.toNat, .pcie (Fin.ofNat 4 q) r.bdf.toNat, ctx, va + ofs, r.op.access⟩] } })
        else (true, s.aborted q r.op)
      | (.busy, s) =>
        let x := s.pport q
        (false, s.setPport q { x with parked := ⟨r, ctx, ofs, got, false, s.now⟩ :: x.parked })

/-- Whether an atomic is one the ports complete (R405): FetchAdd, Swap and CAS on an aligned word of its sizes. -/
def PcieOp.legal (op : PcieOp) (addr : Nat) : Bool :=
  match op with
  | .atomic o n _ _ => (o == .add || o == .swap || o == .cas) && atomLegal o addr n
  | _ => true

/-- An inbound request begins, or goes on at a byte index: BAR0, the checks of R413 and R415, then its pieces.
DEDUCED, log 63. -/
def State.inServe (s : State) (q : Nat) (r : PcieReq) (ofs : Nat) (got : List Byte) : Bool × State :=
  let addr := r.addr.toNat
  match s.bar0Hit q addr r.op.len with
  | some o => (true, s.bar0 q o r.op)
  | none =>
    match s.inboundVa q addr r.op.len with
    | none => (true, s.unsupported q r.op)
    | some va =>
      if !s.bit (R.pcieCtl q) F.pcieCtl_DT_EN || !r.op.legal addr then (true, s.unsupported q r.op)
      else match s.dtEntry q r.bdf.toNat with
      | none => (true, s.unsupported q r.op)
      | some (park, ctx) =>
        if !s.ctxAlive ctx then (true, s.unsupported q r.op)
        else s.inRun q r ctx va park (r.op.len / 4096 + 3) ofs got

/-- Requests that wait at a port are served in order while none at the head is parked (R417). -/
def State.drainIn (s : State) (q : Nat) : Nat → State
  | 0 => s
  | fuel + 1 =>
    let x := s.pport q
    match x.parked with
    | [] => s
    | k :: rest =>
      if k.parked then s
      else match (s.setPport q { x with parked := rest }).inServe q k.req k.done k.got with
        | (true, s) => State.drainIn s q fuel
        | (false, s) => s

/-- The waiting requests of a port. DEDUCED, log 63. -/
def State.drainPort (s : State) (q : Nat) : State := s.drainIn q ((s.pport q).parked.length + 1)

/-- PCIE_INBOUND_REQUEST (R416): a request joins those of its port and is served in its turn. -/
def execPcieInboundRequest (r : PcieReq) (s : State) : Host.Outcome State Fault Refusal :=
  if s.linkUp r.port then
    let x := s.pport r.port
    .next ((s.setPport r.port { x with parked := x.parked ++ [⟨r, 0, 0, [], false, s.now⟩] }).drainPort r.port)
  else .next s

/-- A parked request is ended as under R416: Completer Abort, and its context faults with TRANSLATION (R418). -/
def State.endParked (s : State) (q : Nat) (k : InPark) : State :=
  let x := s.pport q
  let s := s.setPport q { x with parked := x.parked.erase k }
  let s := { s with xl := { s.xl with parks := s.xl.parks.filter (fun p => match p.who with
    | .pcie port bdf => !(port.val == q && bdf == k.req.bdf.toNat)
    | _ => true) } }
  ((s.aborted q k.req.op).ctxFault k.ctx Status.translation.code (ioLoc q)).drainPort q

/-- PCIE_PARK_TIMEOUT (R418): a request parked beyond PARK_LIMIT. -/
def execPcieParkTimeout (port : Fin 4) (idx : Nat) (s : State) : Host.Outcome State Fault Refusal :=
  match (s.pport port).parked[idx]? with
  | none => .next s
  | some k =>
    if k.parked && decide (s.elapsedNs k.since > s.fld (R.pcieParkLimit port) F.pcieParkLimit_US * 1000) then
      .next ((s.endParked port k).raise .pcie port 4)
    else .next s

/-! ## Releases, resets of the far end, and configuration -/

/-- HL_RELEASE (R425): a queue in STATE 5 issues again from its HEAD, whose entry is fetched anew. DEDUCED, log 46. -/
def execHlRelease (_a : Agent) (qid : BitVec 17) (s : State) : Host.Outcome State Fault Refusal :=
  let u := qidUnit qid.toNat
  let q := qidQueue qid.toNat
  if s.pageDead .host 0 || s.qState u q != 5 then .next s
  else
    let s := s.unfetch u q
    .next (s.setQState u q (if s.qCount u q = 0 then 0 else 1))

/-- SBR (R422, R429): a secondary bus reset on a root port. -/
def execSbr (_a : Agent) (port : Fin 4) (s : State) : Host.Outcome State Fault Refusal :=
  if s.pageDead .pcie port || s.pcieEndpoint port || !s.linkUp port then .next s else .next (s.linkDown port)

/-- What an access of an agent came to is recorded. DESIGN CHOICE, log 84. -/
def State.setResult (s : State) (a : Agent) (x : AccResult) : State :=
  { s with host := { s.host with results := insertKey s.host.results (agentLoc a).toNat x } }

/-- ECAM_ACCESS (R407, R630): a configuration read or write through a port's window. Bus 0, device 0, function 0 is the Root
Port itself; other functions answer over the link, or not at all: then a read is all ones.
PRESUMED, log 61. DEDUCED, log 65. -/
def execEcamAccess (x : EcamAccess) (s : State) : Host.Outcome State Fault Refusal :=
  let own := decide (x.ofs.toNat / 4096 = 0) && !s.pcieEndpoint x.port
  let far := s.linkUp x.port && !s.pcieEndpoint x.port
  let words := x.size.val / 4
  if !s.running || (x.size.val != 4 && x.size.val != 8) || x.ofs.toNat % x.size.val != 0 then .next s
  else match x.write with
  | some v =>
    let s := if own then
        (List.range words).foldl (fun s i => s.setCfg x.port (x.ofs.toNat % 4096 + 4 * i) (BitVec.ofNat 32 (v.toNat / 2 ^ (32 * i)))) s
      else s
    .next (s.setResult x.agent .done)
  | none =>
    let word := fun (i : Nat) =>
      if own then s.rpConfig x.port (x.ofs.toNat % 4096 + 4 * i)
      else if far then ((x.answers[i]?).map (·.toNat)).getD 0xFFFFFFFF
      else 0xFFFFFFFF
    .next (s.setResult x.agent (.data ((List.range words).flatMap (fun i => natToBytes 4 (word i)))))

/-- MBOX_WRITE (R427): the outside host of an endpoint port writes a mailbox register through BAR0. -/
def execMboxWrite (port : Fin 4) (idx : Fin 32) (value : Word) (s : State) : Host.Outcome State Fault Refusal :=
  if s.linkUp port && s.pcieEndpoint port then .next (s.mboxWrite idx value) else .next s

/-- PCIE_CONFIG_REQUEST (R408 to R410, R412): the outside host of an endpoint port reads its configuration space, or writes it:
Bus Master Enable and MSI-X follow. -/
def execPcieConfigRequest (port : Fin 4) (r : CfgReq) (s : State) : Host.Outcome State Fault Refusal :=
  let o := r.ofs.toNat / 4 * 4
  if !(s.linkUp port && s.pcieEndpoint port) then .next s
  else match r.write with
  | none => .next (s.pcieReply port 0 (natToBytes 4 (s.epConfig port o)))
  | some v =>
    let s := s.setCfg port o v
    let bme := natBit ((s.pport port).cfgWord 4) 2
    let was := s.bit (R.pcieLinkSts port) F.pcieLinkSts_BME
    let s := s.setFld (R.pcieLinkSts port) F.pcieLinkSts_BME (bitNat bme)
    let s := if was && !bme then s.losePort port else s
    .next ((s.firePending port).pcieReply port 0 [])

end Sys2Proof.Machine
end

