-- ==== Sys2Proof/Machine/Security.lean ====
section
/-! DEFINITION. Security: images (R603 to R607), the identity key (R609 to R612), licences (R613, R614), the limits record
(R6, R555, R556), attestation (R618, R619), the random-number key slots (R134, R135), and the test access port (R668). -/

namespace Sys2Proof.Machine

/-! ## Result codes (R602) -/

/-- The outcomes of a verification. -/
inductive VResult where
  | ok | empty | format | type | length | floor | bind | digest | signature | ue | noIdentity
  deriving DecidableEq, Repr

/-- The code of an outcome. -/
def VResult.code : VResult → Nat
  | .ok => 0 | .empty => 1 | .format => 2 | .type => 3 | .length => 4 | .floor => 5 | .bind => 6 | .digest => 7
  | .signature => 8 | .ue => 9 | .noIdentity => 10

/-- A signature over signed bytes: Ed25519 on their SHA-512 digest (R601). DEDUCED, log 78. -/
def sigOk (key : BitVec 256) (signed sig : List Byte) : Bool := edVerify key.toNat (sha512 signed) sig

/-! ## Images (R603, R604) -/

/-- Word Qn of an image header. -/
def hdrQ (hdr : List Byte) (n : Nat) : Nat := bytesToNat ((hdr.drop (8 * n)).take 8)

/-- The version floor of an image type, in the store (R550). -/
def State.imageFloor (s : State) (ty : Nat) : Nat := (s.storeRead (0x263 + ty)).toNat

/-- The greatest payload of an image type, in bytes (R604). -/
def imageMax (ty : Nat) : Nat := if ty = 1 then 0x400000 - 256 else if ty = 2 then 0x100000 else 0x40000

/-- Checks 1 to 4 of R604, on the header; the payload's address is checked for a warden image. -/
def State.headerResult (s : State) (ty pay : Nat) (hdr : List Byte) : Option VResult :=
  let q := hdrQ hdr
  let reserved := (q 0) / 2 ^ 40 != 0 || [4, 5, 6, 7].any (fun n => q n != 0) || ((List.range 8).map (· + 24)).any (fun n => q n != 0)
  let len := q 3 % 2 ^ 32
  let entry := q 3 / 2 ^ 32
  if q 0 % 2 ^ 32 ≠ 0x57463157 ∨ reserved = true then some .format
  else if natBits (q 0) 39 32 ≠ ty then some .type
  else if len > imageMax ty ∨ entry % 4 ≠ 0 ∨ entry ≥ len ∨ q 2 > q 1 ∨ (ty = 2 ∧ (entry ≠ 0 ∨ pay % 65536 ≠ 0)) then some .length
  else if q 1 < s.imageFloor ty then some .floor
  else none

/-- Checks 5 and 6 of R604, on a payload. -/
def payloadResult (hdr pay : List Byte) : VResult :=
  if sha512 pay ≠ (hdr.drop 64).take 64 then .digest
  else if !sigOk (Config.vendorKey 1) (hdr.take 128) ((hdr.drop 128).take 64) then .signature
  else .ok

/-- Whether bytes of package memory can be read by a verification; an unavailable stack or an uncorrectable word ends it
with UE. DEDUCED, log 38. -/
def State.readable (s : State) (pa len : Nat) : Bool := s.sysOk pa len && !s.memUE pa len

/-- An image in package memory is verified (R604), with the bytes the verification accepted. -/
def State.imageResult (s : State) (ty hdrPa payPa : Nat) : VResult × List Byte :=
  if !s.readable hdrPa 256 then (.ue, [])
  else
    let hdr := s.memBytes hdrPa 256
    match s.headerResult ty payPa hdr with
    | some r => (r, [])
    | none =>
      let len := hdrQ hdr 3 % 2 ^ 32
      if !s.readable payPa len then (.ue, [])
      else
        let pay := s.memBytes payPa len
        (payloadResult hdr pay, hdr ++ pay)

/-- The keeper image's place in keeper scratch SRAM (R543). -/
def keeperImage : Nat := 0x800000

/-- The image that keeper scratch SRAM holds is verified; its payload follows its header. -/
def State.keeperResult (s : State) : VResult × List Byte := s.imageResult 1 keeperImage (keeperImage + 256)

/-- IMAGE_VERIFY (R606): a firmware write of VERIFY_CMD. The written fields stand; with GO set, no verification in progress
and a type of 2 or 3, the verification begins. -/
def execImageVerify (a : Agent) (cmd : Word) (s : State) : Host.Outcome State Fault Refusal :=
  if s.pageDead .sec 0 then .next s
  else if !fwAllowed a .sec then .next (s.denied a R.secVerifyCmd)
  else
    let ty := F.secVerifyCmd_TYPE.get cmd
    if ty < 2 ∨ s.bit R.secVerifySts F.secVerifySts_BUSY = true then .next s
    else
      let s := s.setReg R.secVerifyCmd (cmd &&& BitVec.ofNat 64 7)
      if F.secVerifyCmd_GO.get cmd = 0 then .next s
      else
        let j : VerifyJob := ⟨ty, s.fld R.secVerifyHdr F.secVerifyHdr_ADDR * 256, s.fld R.secVerifyPay F.secVerifyPay_ADDR * 256⟩
        .next ({ s with sec := { s.sec with verify := some j } }.setFld R.secVerifySts F.secVerifySts_BUSY 1)

/-- VERIFY_DONE (R606): the result is written; an accepted image replaces the running one, or is named by WARDEN_OK, and is
measured (R616). -/
def execVerifyDone (s : State) : Host.Outcome State Fault Refusal :=
  match s.sec.verify with
  | none => .next s
  | some j =>
    if s.broken (locHost 4 0) then .next s else
    let r := s.imageResult j.type j.hdr j.pay
    let ver := if s.readable j.hdr 256 then hdrQ (s.memBytes j.hdr 256) 1 % 2 ^ 32 else 0
    let s := { s with sec := { s.sec with verify := none } }
    let s := (s.setReg R.secVerifySts (BitVec.ofNat 64 (r.1.code * 2 + j.type * 32 + ver * 2 ^ 32))).raise .sec 0 0
    if r.1 ≠ .ok then .next s
    else if j.type = 3 then .next ((s.measure' 5 r.2).setFld R.secSts F.secSts_SE_RUN 1)
    else
      let granules := ceilDiv' (r.2.length - 256) 65536
      .next ((s.measure' 6 r.2).setReg R.secWardenOk (BitVec.ofNat 64 (1 + granules * 2 + j.pay)))

/-! ## Identity (R609, R610, R612) -/

/-- The public key that the seed store holds. -/
def State.identityKey (s : State) : Option (BitVec 256) :=
  s.sec.seed.map (fun d => BitVec.ofNat 256 (edPublic (natToBytes 32 d.toNat)))

/-- Register 0x260 + r of a key. -/
def keyWord (k : BitVec 256) (r : Nat) : Word := BitVec.ofNat 64 (k.toNat / 2 ^ (64 * r))

/-- The zero registers of the public key are written. -/
def State.writeKey (s : State) (k : BitVec 256) : State :=
  (List.range 4).foldl (fun s r => if s.storeRead (0x260 + r) = 0 ∧ keyWord k r ≠ 0 then s.storePerform (0x260 + r) (keyWord k r) else s) s

/-- The identity becomes FAULT (R612). -/
def State.idFault (s : State) : State := (s.setFld R.secSts F.secSts_ID 2).raise .sec 0 1

/-- The comparison or generation of R609. DESIGN CHOICE, log 77. -/
def State.identity (s : State) : State :=
  let rd := fun r => s.storeRead (0x260 + r)
  match s.identityKey with
  | some k =>
    if (List.range 4).all (fun r => !s.storeUE (0x260 + r) && (rd r == 0 || rd r == keyWord k r)) then
      (s.writeKey k).setFld R.secSts F.secSts_ID 1
    else s.idFault
  | none =>
    if (List.range 4).all (fun r => !s.storeUE (0x260 + r) && rd r == 0) then
      let f := s.takeFresh
      let seed := (sha512 (natToBytes 512 (Config.entropy f.1).toNat)).take 32
      let s := { f.2 with sec := { f.2.sec with seed := some (BitVec.ofNat 256 (bytesToNat seed)) } }
      (s.writeKey (BitVec.ofNat 256 (edPublic seed))).setFld R.secSts F.secSts_ID 1
    else s.idFault

/-! ## Licences (R613, R614) -/

/-- The first register of a licence slot. -/
def licReg (k n : Nat) : Nat := 0x100 + 32 * k + n

/-- The bytes of the identity public key. -/
def State.identityBytes (s : State) : List Byte := s.storeBytesOf 0x260 4

/-- The check of a licence slot, in the order of R614. -/
def State.licResult (s : State) (k : Nat) : VResult :=
  let rd := fun n => s.storeRead (licReg k n)
  let r0 := (rd 0).toNat
  let ue := (List.range 32).any (fun n => s.storeUE (licReg k n))
  if !ue && (List.range 32).all (fun n => rd n == 0) then .empty
  else if ue then .ue
  else if natBits r0 7 0 ≠ 1 ∨ natBits r0 9 8 = 1 ∨ natBits r0 15 10 ≠ 0 ∨ natBits r0 31 18 ≠ 0
      ∨ ((List.range 15).any (fun n => rd (9 + n) != 0)) = true then .format
  else if s.fld R.secSts F.secSts_ID ≠ 1 then .noIdentity
  else if s.storeBytesOf (licReg k 1) 8 ≠ sha512 s.identityBytes then .bind
  else if !sigOk (Config.vendorKey 2) (s.storeBytesOf (licReg k 0) 24) (s.storeBytesOf (licReg k 24) 8) then .signature
  else .ok

/-- The maximum fabric size of an effective tier (R8). -/
def tierSize (t : Nat) : Nat := if t = 3 then 4096 else if t = 2 then 1024 else 256

/-- The licence check at C2 and W2: LIC_STS, LIC_MAX and LIC_REJECT (R8, R12, R614). -/
def State.licenceCheck (s : State) : State :=
  let rs := (List.range 8).map s.licResult
  let good := (List.range 8).filter (fun k => rs.getD k .empty == .ok)
  let r0 := fun k => (s.storeRead (licReg k 0)).toNat
  let tier := (good.map (fun k => natBits (r0 k) 9 8)).foldl max 0
  let codes := (rs.zipIdx.map (fun e => e.1.code * 2 ^ (4 * e.2))).sum
  let v := codes + tier * 2 ^ 32 + bitNat (good.any (fun k => natBit (r0 k) 16)) * 2 ^ 34
    + bitNat (good.any (fun k => natBit (r0 k) 17)) * 2 ^ 35
  let s := (s.setReg R.secLicSts (BitVec.ofNat 64 v)).setFld (R.optFabSts 0) F.optFabSts_LIC_MAX (tierSize tier)
  let s := s.markUnlicensed
  if rs.any (fun r => r != .ok && r != .empty) then s.raise .sec 0 2 else s

/-! ## The limits record (R2, R6, R555, R556, R559) -/

/-- The row of R2 for a part code: clock cap in MHz, TDP and excursion ceiling in W. -/
def partLimits : Nat → Option (Nat × Nat × Nat)
  | 1 => some (1750, 2400, 3000)
  | 2 => some (1400, 1900, 2375)
  | 3 => some (1050, 1400, 1750)
  | _ => none

/-- Whether the limits record stands: it reads, its signature verifies, and its fields are those of R2. -/
def State.limitsValid (s : State) : Bool :=
  let r0 := (s.storeRead 0).toNat
  (List.range 16).all (fun i => !s.storeUE i)
    && sigOk (Config.vendorKey 0) (s.storeBytesOf 0 8) (s.storeBytesOf 8 8)
    && partLimits (natBits r0 3 0) == some (natBits r0 15 4, natBits r0 31 16, natBits r0 47 32)
    && r0 / 2 ^ 48 == 0 && (List.range 5).all (fun i => s.storeRead (3 + i) == 0)

/-- The limits in force are loaded: CAP, and the SAFE fields that start from them (R6, R592, R640). -/
def State.limitsVerify (s : State) : State :=
  let ok := s.limitsValid
  let code := if ok then natBits (s.storeRead 0).toNat 3 0 else 3
  let l := (partLimits code).getD (1050, 1400, 1750)
  let s := s.setReg R.pkgCap (BitVec.ofNat 64 (code + l.1 * 2 ^ 4 + l.2.1 * 2 ^ 16 + l.2.2 * 2 ^ 32 + 2 * 2 ^ 60))
  let s := s.setFld R.pkgSafe F.pkgSafe_PWR_W l.2.1
  let s := (List.range 32).foldl (fun s r => s.setFld (R.rgnSafe r) F.rgnSafe_CLK_MHZ l.1) s
  if ok then s
  else s.record { page := .pkg, inst := 0, sev := 0, code := 3, loc := locHost 8 0, sys := true }

/-! ## Attestation (R618, R619) -/

/-- The responder answers. DEDUCED, log 79. DESIGN CHOICE, log 84. -/
def State.answer (s : State) (x : SpdmAnswer) : State := { s with sec := { s.sec with answers := s.sec.answers ++ [x] } }

/-- A request as the responder takes it: no response while a package reset is in progress, no keeper firmware runs, or a block it needs has failed (R64); Busy
while no security engine image runs (R619). -/
def State.spdm (s : State) (x : State → SpdmAnswer) : State :=
  if !s.works (locHost 7 0) || s.broken (locHost 4 0) || !s.plat.warmRun.isEmpty || !s.plat.keepersRun || s.plat.offPrep then s
  else if !s.bit R.secSts F.secSts_SE_RUN then s.answer .busy
  else s.answer (x s)

/-- Whether the identity is FAULT. -/
def State.idIsFault (s : State) : Bool := s.fld R.secSts F.secSts_ID == 2

/-- The identity public key as the store holds it. -/
def State.publicKey (s : State) : BitVec 256 := BitVec.ofNat 256 (bytesToNat s.identityBytes)

/-- The certificate's bytes (R612): its length in register 0x07F, at most 1,024. -/
def State.certBytes (s : State) : List Byte := (s.storeBytesOf 0x80 128).take (min 1024 (s.storeRead 0x7F).toNat)

/-- The chain of slot 0: the root hash, then the certificate of the identity key (R618). -/
def State.chainBytes (s : State) : List Byte := bytes64 Config.rootDigest ++ s.certBytes

/-- The digest of the chain of slot 0. -/
def State.chainDigest (s : State) : BitVec 512 := of64 (sha512 s.chainBytes)

/-- The SPDM value type of a measurement (R616). -/
def measType : Nat → Nat
  | 1 => 0 | 2 => 2 | 3 => 2 | 4 => 1 | 5 => 1 | 6 => 1 | _ => 3

/-- A measurement block: index, value type and value. -/
def State.measBlock (s : State) (i : Nat) : Nat × Nat × BitVec 512 := (i, measType i, (s.meas i).1)

/-- GET_VERSION: version 1.2 only. DEDUCED, log 79. -/
def execGetVersion (s : State) : Host.Outcome State Fault Refusal := .next (s.spdm (fun _ => .version 1 2))

/-- GET_CAPABILITIES: CERT_CAP, CHAL_CAP and MEAS_CAP 2, with CTExponent 11. -/
def execGetCapabilities (s : State) : Host.Outcome State Fault Refusal := .next (s.spdm (fun _ => .capabilities true true 2 11))

/-- NEGOTIATE_ALGORITHMS: the algorithms of R618, where the requester offers them. -/
def execNegotiateAlgorithms (ed25519 sha512 : Bool) (s : State) : Host.Outcome State Fault Refusal :=
  .next (s.spdm (fun _ => .algorithms ed25519 sha512))

/-- GET_DIGESTS: slot 0 only. -/
def execGetDigests (s : State) : Host.Outcome State Fault Refusal := .next (s.spdm (fun s => .digests 1 s.chainDigest))

/-- GET_CERTIFICATE: bytes of the chain of slot 0, or ERROR Unspecified while the identity is FAULT. -/
def execGetCertificate (slot : BitVec 8) (ofs len : BitVec 16) (s : State) : Host.Outcome State Fault Refusal :=
  .next (s.spdm (fun s =>
    if s.idIsFault then .unspecified
    else if slot ≠ 0 ∨ ofs.toNat ≥ s.chainBytes.length then .invalidRequest
    else
      let part := (s.chainBytes.drop ofs.toNat).take len.toNat
      .certificate part (s.chainBytes.length - ofs.toNat - part.length)))

/-- CHALLENGE: a response signed with the identity key, or ERROR Unspecified while the identity is FAULT. DEDUCED, log 79. -/
def execChallenge (slot : BitVec 8) (nonce : BitVec 256) (s : State) : Host.Outcome State Fault Refusal :=
  .next (s.spdm (fun s =>
    if s.idIsFault then .unspecified
    else if slot ≠ 0 then .invalidRequest
    else .challengeAuth s.chainDigest nonce s.publicKey))

/-- GET_MEASUREMENTS: operation 0 asks for their number, 1 to 7 for one block, 0xFF for all; signed when requested.
DEDUCED, log 79. -/
def execGetMeasurements (op : BitVec 8) (signed : Bool) (s : State) : Host.Outcome State Fault Refusal :=
  .next (s.spdm (fun s =>
    if signed && s.idIsFault then .unspecified
    else
      let key := if signed then some s.publicKey else none
      if op = 0 then .measurements 7 [] key
      else if op = 0xFF then .measurements 7 ((List.range 7).map (fun i => s.measBlock (i + 1))) key
      else if op.toNat ≤ 7 then .measurements 1 [s.measBlock op.toNat] key
      else .invalidRequest))

/-- SPDM_UNSUPPORTED_REQUEST (R618). -/
def execSpdmUnsupportedRequest (s : State) : Host.Outcome State Fault Refusal := .next (s.spdm (fun _ => .unsupportedRequest))

/-! ## Random-number key slots (R134, R135) -/

/-- KEYSLOT_LOCKED (R135, R589). DEDUCED, log 76. -/
def State.keyLocked (s : State) (a : Agent) (r : Reg) : State :=
  s.record { page := .sec, inst := 0, sev := 0, code := 4, loc := locHost 4 0, sys := true, addr := r.ofs - r.page.base 0,
             kind := 3, reqLoc := (agentLoc a).toNat }

/-- KEY_SLOT_WRITE (R134, R135): key words are write-only; while VALID is 1 the key and CTX are locked, and every write of CFG
writes CTX (R634). DEDUCED, log 76. -/
def execKeySlotWrite (a : Agent) (slot : Fin 64) (w : KeyWrite) (s : State) : Host.Outcome State Fault Refusal :=
  if s.pageDead .sec 0 then .next s
  else
    let cfg := R.secRkeyCfg slot
    let valid := s.bit cfg F.secRkeyCfg_VALID
    match w with
    | .key k v =>
      if valid then .next (s.keyLocked a (R.secRkeyK (slot.val * 4 + k.val))) else .next (s.setReg (R.secRkeyK (slot.val * 4 + k.val)) v)
    | .cfg v =>
      let s' := if valid then s.keyLocked a cfg else s
      let s' := if valid then s' else s'.setFld cfg F.secRkeyCfg_CTX (F.secRkeyCfg_CTX.get v)
      .next (s'.setFld cfg F.secRkeyCfg_VALID (F.secRkeyCfg_VALID.get v))

/-! ## The test access port (R668) -/

/-- An instruction is in the instruction register. -/
def State.tapSelect (s : State) (i : TapInstr) : State := { s with sec := { s.sec with tap := { s.sec.tap with instr := i } } }

/-- BYPASS: the one-bit bypass register is selected. -/
def execBypass (s : State) : Host.Outcome State Fault Refusal := .next (s.tapSelect .bypass)

/-- IDCODE: the identification register is selected. -/
def execIdcode (s : State) : Host.Outcome State Fault Refusal := .next (s.tapSelect .idcode)

/-- SAMPLE/PRELOAD: the pins are sampled, and the boundary register takes the bits shifted in. -/
def execSamplePreload (pins preload : List Bool) (s : State) : Host.Outcome State Fault Refusal :=
  let s := s.tapSelect .samplePreload
  .next { s with sec := { s.sec with tap := { s.sec.tap with sampled := pins, boundary := preload } } }

/-- EXTEST: the pins are driven from the boundary register. -/
def execExtest (s : State) : Host.Outcome State Fault Refusal := .next (s.tapSelect .extest)

/-- HIGHZ: every output is in high impedance, with the bypass register selected. -/
def execHighz (s : State) : Host.Outcome State Fault Refusal := .next (s.tapSelect .highz)

/-- CLAMP: outputs are held from the boundary register, with the bypass register selected. -/
def execClamp (s : State) : Host.Outcome State Fault Refusal := .next (s.tapSelect .clamp)

/-- What the selected data register reads: the identification code, or the bypass bit (R668). PRESUMED, log 80. -/
def State.tapDr (s : State) : Nat :=
  match s.sec.tap.instr with
  | .idcode => 0x10101C3D
  | _ => 0

end Sys2Proof.Machine
end

