-- ==== Sys2Proof/Machine/Resets.lean ====
section
/-! DEFINITION. The five resets, bring-up and power states (14_bringup_and_configuration.md, R660 to R666): cold reset and its
steps, package reset and its steps, partial resets with their drydown, and the management commands. -/

namespace Sys2Proof.Machine

/-! ## Cold reset (R533 to R545) -/

/-- RST_CAUSE.LAST of a cold reset (R569). -/
def ColdCause.code : ColdCause → Nat
  | .powerOn => 0
  | .resetN => 1
  | .i3c => 2
  | .rstCtl => 3

/-- C1 begins once VIN_36 is in range and RESET_N high (R536). -/
def State.startC1 (s : State) : State :=
  if s.plat.coldWait && s.plat.vinOk && !s.plat.resetLow then
    { s with plat := { s.plat with coldWait := false, coldRun := [.c1] } }.setSt .booting
  else s

/-- No block is marked available before C10 (R58). -/
def State.blankMap (s : State) : State :=
  let s := (List.range 16).foldl (fun s k => s.setReg (R.pkgAvailUnit k) 0) s
  let s := (List.range 2).foldl (fun s k => s.setReg (R.pkgAvailClu k) 0) s
  (s.setReg R.pkgAvailMisc 0).setReg R.pkgAvailCore 0

/-- A cold reset begins (R535, R639, R663): every agent stops, writes not yet performed are lost, every register but those of
the store returns to its reset value. HBM is zeroed by C8; the store, the sealed seed and the management target stay.
DEDUCED, log 13. -/
def State.coldReset (s : State) (cause : Nat) : State :=
  let s := s.interruptStore
  let z := State.reset
  let p := { z.plat with st := s.plat.st, resetLow := s.plat.resetLow, vinOk := s.plat.vinOk, capW := s.plat.capW,
                         vinLost := s.plat.vinLost, coldWait := true, perstHold := true, keepersRun := false,
                         mgmtLast := cause, mgmtStop := s.plat.mgmtStop, mgmtDrainLost := s.plat.mgmtDrainLost,
                         mgmtAddr := s.plat.mgmtAddr, strap := s.plat.strap, ibi := s.plat.ibi }
  let t := { z with pending := s.pending
                    regs := s.regs.filter (fun (e : Reg × Word) => e.1.name == RegName.fixStore || e.1.name == RegName.fixWear)
                    mem := s.mem.filter (fun e => rangeOf e.1 == Range.hbm)
                    errs := s.errs.filter (fun e => decide (2 ^ 62 ≤ e.1) || rangeOf (8 * e.1) == Range.hbm)
                    sec := { z.sec with seed := s.sec.seed, answers := s.sec.answers, tap := s.sec.tap }
                    fresh := s.fresh
                    plat := p }
  let t := (t.blankMap.setFld R.pkgRstCause F.pkgRstCause_LAST cause).setFld R.pkgBmcCap F.pkgBmcCap_CAP_W s.plat.capW
  (t.setSt (if s.plat.resetLow then .held else .booting)).startC1

/-- A cold reset by one of its causes; none while THERMTRIP_N is asserted (R659). -/
def State.coldCause (s : State) (c : ColdCause) : State := if s.plat.thermTripPin then s else s.coldReset c.code

/-- VIN_IN_RANGE (R533, R665): VIN_36 enters its operating range; the address straps are sampled. DEDUCED, log 13. -/
def execVinInRange (straps : Fin 4) (s : State) : Host.Outcome State Fault Refusal :=
  if s.plat.vinOk || s.plat.thermTripPin then .next s
  else .next ({ s with plat := { s.plat with vinOk := true, vinLost := false, strap := straps } }.coldCause .powerOn)

/-- RESET_N_ASSERT (R533, R666): RESET_N has been low for `ns`. At 1 µs the cold reset begins and C1 is held; a pulse below
100 ns is ignored; whether one in between resets is open. -/
def execResetNAssert (ns : BitVec 32) (s : State) : Host.Outcome State Fault Refusal :=
  if ns.toNat < 100 ∨ s.plat.resetLow = true then .next s
  else if ns.toNat < 1000 then
    let f := s.takeFresh
    if (Config.freeWord f.1).toNat % 2 = 1 then .next (f.2.coldCause .resetN) else .next f.2
  else .next ({ s with plat := { s.plat with resetLow := true } }.coldCause .resetN)

/-- RESET_N_RELEASE (R666): the rising edge ends the hold of C1. DESIGN CHOICE, log 11. -/
def execResetNRelease (s : State) : Host.Outcome State Fault Refusal :=
  .next ({ s with plat := { s.plat with resetLow := false } }.startC1)

/-- COLD_RESET (R536). -/
def execColdReset (cause : ColdCause) (s : State) : Host.Outcome State Fault Refusal := .next (s.coldCause cause)

/-- Every step of a cold reset. -/
def coldSteps : List ColdStep :=
  [.c1, .c2, .c3, .c4] ++ (List.range 16).map ColdStep.c5 ++ [.c6, .c7] ++ (List.range 16).map ColdStep.c8 ++ [.c9, .c10, .c11]

/-- The steps that must have ended before a step begins (R536). -/
def ColdStep.preds : ColdStep → List ColdStep
  | .c1 => []
  | .c2 => [.c1]
  | .c3 => [.c1]
  | .c4 => [.c1]
  | .c5 _ => [.c1]
  | .c6 => [.c2]
  | .c7 => [.c4]
  | .c8 k => [.c5 k]
  | .c9 => [.c2]
  | .c10 => .c7 :: (List.range 16).map ColdStep.c8
  | .c11 => [.c9, .c10]

/-- A step ends, and each step whose predecessors have all ended begins (R536). -/
def State.coldEnd (s : State) (x : ColdStep) : State :=
  let done := s.plat.coldDone ++ [x]
  let run := s.plat.coldRun.erase x
  let new := coldSteps.filter (fun y => y.preds.contains x && !run.contains y && !done.contains y && y.preds.all done.contains)
  { s with plat := { s.plat with coldRun := run ++ new, coldDone := done } }

/-- The store registers read at a reset: those that R559 lists. -/
def coldStoreRegs : List Nat :=
  List.range 0x24 ++ (List.range 0x16A).map (· + 0x100)

/-- Damaged store registers read at a reset (R559, R577): STORE_UE for an uncorrectable one, a CORRECTED record for a
correctable one. DEDUCED, log 75. -/
def State.storeScan (s : State) (is : List Nat) : State :=
  is.foldl (fun s i =>
    match eccClass (s.storeErr i) with
    | .uncorrectable => (s.fixRecord 2 0x9 i (locHost 2 0)).raise .fix 0 3
    | .correctable _ => s.fixRecord 1 0x10 i (locHost 2 0)
    | .clean => s) s

/-- A store register read at a reset, zero where it is damaged (R559). -/
def State.storeOrZero (s : State) (i : Nat) : Word := if s.storeUE i then 0 else s.storeRead i

/-- The fabric identity at C2 (R536, R558). -/
def State.loadFabric (s : State) : State :=
  let w := (s.storeOrZero 0x268).toNat
  if natBit w 41 then (s.setFld (R.optFabCfg 0) ⟨40, 0⟩ (w % 2 ^ 41)).markUnlicensed else s

/-- The heater codes and enables of the boot configuration at C2 (R536, R558). -/
def State.loadPorts (s : State) : State :=
  let w := (s.storeOrZero 0x269).toNat
  ((List.range 8).filter (fun p => natBit w (2 + p))).foldl (fun s p =>
    ((List.range 8).foldl (fun s n => s.setReg (R.optHcal p n) (s.storeOrZero (0x200 + 8 * p + n))) s).setOptEn p true) s

/-- The PCIe ports' mode and limits at a cold reset (R406, R429, R559). -/
def State.loadPcie (s : State) : State :=
  (List.range 4).foldl (fun s q =>
    let w := if s.storeUE (0x248 + q) then 0x4C else (s.portCfg q).toNat
    let rate := natBits w 3 1
    let width := natBits w 6 4
    let s := s.setFld (R.pcieLinkSts q) F.pcieLinkSts_MODE_CUR (natBits w 0 0)
    s.setPport q { s.pport q with limRate := if rate = 0 ∨ rate = 7 then 6 else rate, limWidth := if width > 4 then 4 else width }) s

/-- What the boot ROM verifies and measures at C2 and again at W2 (R536, R546, R616). -/
def State.romChecks (s : State) : State :=
  let s := s.limitsVerify.extend 1 (bytes64 Config.romDigest)
  let s := s.measure' 2 (s.storeBytesOf 0 16)
  let s := s.measure' 3 (s.storeBytesOf 0x100 256)
  s.licenceCheck

/-- A keeper image arrives in keeper scratch SRAM (R543). -/
def State.placeImage (s : State) (bs : List Byte) : State := (s.putBytes keeperImage bs).clearErrs keeperImage bs.length

/-- Whether the image that keeper scratch SRAM holds passes verification (R604). -/
def State.imagePasses (s : State) : Bool := s.keeperResult.1 == .ok

/-- Both keeper cores start at the entry of a verified image, which is measured (R543, R616). DESIGN CHOICE, log 14. -/
def State.startKeepers (s : State) : State :=
  let img := s.keeperResult.2
  let entry := keeperImage + 256 + hdrQ img 3 / 2 ^ 32
  let s := (s.measure' 4 img).measure' 7 (s.storeBytesOf 0x260 10)
  let s := s.setFld R.pkgSts F.pkgSts_BOOT_FAIL 0
  let h := { s.host with starts := insertKey (insertKey s.host.starts 96 entry) 97 entry }
  { s with plat := { s.plat with keepersRun := true, bootTries := 0 }, host := h }

/-- C9 ends, in a cold reset or as the fallback of W3 (R536, R546): the keepers run. -/
def State.endC9 (s : State) : State :=
  let s := s.startKeepers
  let s := if s.plat.st = .bootFail then s.setSt .booting else s
  if s.plat.warmRun.contains .w3 then
    { s with plat := { s.plat with coldRun := s.plat.coldRun.erase .c9, warmRun := s.plat.warmRun.erase .w3 ++ [.w5] } }
  else s.coldEnd .c9

/-- An image fetched at C9 (R543, R544): it starts, or after three failures the package stands in BOOT_FAIL. -/
def State.tryImage (s : State) (img : Option (List Byte)) : State :=
  let ok := match img with
    | some bs => decide (bs.length ≤ 0x400000)
    | none => false
  let s := match img with
    | some bs => if ok then s.placeImage bs else s
    | none => s
  if ok && s.imagePasses then s.endC9
  else
    let n := s.plat.bootTries + 1
    let s := { s with plat := { s.plat with bootTries := n } }
    if 3 ≤ n then (s.setFld R.pkgSts F.pkgSts_BOOT_FAIL 1).setSt .bootFail else s

/-- A stack is written with zero and valid check bits (C8). -/
def State.zeroStack (s : State) (k : Nat) : State :=
  { s with mem := s.mem.filter (fun e => !(rangeOf e.1 == .hbm && stackOf e.1 == k))
           errs := s.errs.filter (fun e => !(rangeOf (8 * e.1) == .hbm && stackOf (8 * e.1) == k)) }

/-- Register n of the defect map of R59: the OR of the vendor and the field map, all ones where one is damaged (R557, R559).
DEDUCED, log 13. -/
def State.defectMap (s : State) (n : Nat) : Nat :=
  let rd := fun i => if s.storeUE i then 2 ^ 64 - 1 else (s.storeRead i).toNat
  Nat.lor (rd (0x10 + n)) (rd (0x24C + n))

/-- The availability map at C10 (R59, R541): a block is available when the defect map does not name it and it passed its
tests; a block that failed them takes its dependents with it (R63). The whole of AVAIL_GEN is written, so that LAST_CAUSE is
never 1 (defect map) or 2 (start-up test): the spec lists the codes and no rule says when start-up writes them.
DESIGN CHOICE, log 97. -/
def State.establishMap (s : State) : State :=
  let put := fun (s : State) (r : Reg) (n : Nat) (keep : Nat) => s.setReg r (BitVec.ofNat 64 (Nat.land keep (2 ^ 64 - 1 - s.defectMap n)))
  let s := (List.range 16).foldl (fun s k => put s (R.pkgAvailUnit k) k (2 ^ 64 - 1)) s
  let s := (List.range 2).foldl (fun s k => put s (R.pkgAvailClu k) (16 + k) (2 ^ 64 - 1)) s
  let s := (put s R.pkgAvailMisc 18 (2 ^ 60 - 1))
  let s := (put s R.pkgAvailCore 19 (2 ^ 64 - 1))
  let s := s.plat.failed.foldl (fun s l => match mapBlock (BitVec.ofNat 16 l) with
    | some b => s.clearAvail b
    | none => s) s
  let s := s.setReg R.pkgAvailGen 0
  let all := s.fld R.pkgAvailMisc F.pkgAvailMisc_STACK == 0xFFFF
  (s.setFld R.pkgSts F.pkgSts_MEM_DEGRADED (bitNat (!all))).setFld R.pkgSts F.pkgSts_MAP_VALID 1

/-- Every region takes its requested partition number (R31). DEDUCED, log 18. -/
def State.takePartitions (s : State) : State :=
  (List.range 4).foldl (fun s n => s.setReg (R.pkgPartCur n) (s.reg (R.pkgPartMap n))) s

/-- Blocks found to fail their tests are noted for C10. DEDUCED, log 13. -/
def State.noteFailed (s : State) (ls : List Loc) : State :=
  { s with plat := { s.plat with failed := s.plat.failed ++ ls.map (·.toNat) } }

/-- The step a step end names. -/
def ColdStepEnd.step : ColdStepEnd → ColdStep
  | .c1 => .c1
  | .c2 => .c2
  | .c3 => .c3
  | .c4 => .c4
  | .c5 k => .c5 k
  | .c6 => .c6
  | .c7 _ => .c7
  | .c8 k _ => .c8 k
  | .c9 _ => .c9
  | .c10 => .c10
  | .c11 => .c11

/-- What a step of a cold reset does by its end (R536). DEDUCED, log 13. -/
def State.coldAct (s : State) : ColdStepEnd → State
  | .c1 => (s.coldEnd .c1).identity
  | .c2 => (((s.storeScan coldStoreRegs).romChecks.loadFabric).loadPcie.loadPorts).coldEnd .c2
  | .c3 => ((s.setFld R.timeSts F.timeSts_REF_LOCK 1).setFld R.timeSts F.timeSts_HOLDOVER 0).elect.coldEnd .c3
  | .c4 => s.coldEnd .c4
  | .c5 k => s.coldEnd (.c5 k)
  | .c6 => s.coldEnd .c6
  | .c7 failed => ((s.noteFailed failed).setFld R.pkgSts F.pkgSts_DIR_READY 1).coldEnd .c7
  | .c8 k passed =>
    let s := s.zeroStack k
    let tested := (s.storeOrZero 0x269).toNat % 4 != 0
    (if tested && !passed then s.noteFailed [locStack k] else s).coldEnd (.c8 k)
  | .c9 img => if s.plat.st = .bootFail then s else s.tryImage img
  | .c10 => s.establishMap.coldEnd .c10
  | .c11 => if s.bit R.pkgCtl F.pkgCtl_READY then s.takePartitions.coldEnd .c11 else s

/-- COLD_RESET_STEP_END (R536): a step under way ends, with what it found or supplied. -/
def execColdResetStepEnd (e : ColdStepEnd) (s : State) : Host.Outcome State Fault Refusal :=
  if s.plat.coldRun.contains e.step then .next (s.coldAct e) else .next s

/-- IMAGE_OFFER (R544): in BOOT_FAIL the board management controller offers an image, which the boot ROM fetches and
verifies. DEDUCED, log 13. -/
def execImageOffer (image : Option (List Byte)) (s : State) : Host.Outcome State Fault Refusal :=
  if s.running && s.plat.st == .bootFail && s.plat.coldRun.contains .c9 then .next (s.tryImage image) else .next s

/-- PERST_HOLD_EXPIRY (R539): 100 ms after C1 ends each root port's pin follows PERST_OUT. DEDUCED, log 13. -/
def execPerstHoldExpiry (s : State) : Host.Outcome State Fault Refusal :=
  if s.running then .next { s with plat := { s.plat with perstHold := false } } else .next s

/-! ## Drydown of the whole package (R546, R564, R565) -/

/-- RST_CAUSE.LAST of a package reset (R569). -/
def WarmCause.code : WarmCause → Nat
  | .rstCtl => 4
  | .i3c => 5
  | .escalation => 6

/-- Whether a package reset would name a block already in reset (R567): its drydown or W2 runs, or a cold reset has not yet
come to C11. -/
def State.packageInReset (s : State) : Bool :=
  s.plat.resets.any (fun (r : ResetRun) => r.block == ResetBlock.package) || s.plat.warmRun.contains .w2 || s.plat.coldRun.any (· != .c11)

/-- The drydown of the package begins: it takes over every reset in progress, and what is absorbed ends (R564, R567). -/
def State.beginDrydown (s : State) : State :=
  let s := { s with plat := { s.plat with resets := [ResetRun.mk .package s.now false] } }
  let s := { s with sch := { s.sch with flights := [], sendBuf := [], transit := [], credits := [], heads := [], stops := [],
                                        fbFetch := [] }
                    xl := { s.xl with chans := [], parks := [], latches := [] } }
  (List.range 4).foldl (fun s q => s.setPport q { s.pport q with outW := [], outR := [], parked := [] }) s

/-- A package reset begins with W1 (R546, R567, R569). -/
def State.packageReset (s : State) (cause : Nat) : State :=
  if s.packageInReset then s.raise .pkg 0 9
  else
    let on := (List.range 8).filter (fun p => s.bit (R.optCtl p) F.optCtl_EN)
    let s := s.beginDrydown
    let s := { s with plat := { s.plat with warmRun := [.w1], warmDone := [], coldRun := [], offPrep := false, optKept := on,
                                            mgmtLast := cause, mgmtDrainLost := false } }
    let s := (s.setFld R.pkgRstCause F.pkgRstCause_LAST cause).satFld R.pkgRstCause F.pkgRstCause_WARM_CNT 1
    s.setSt .booting

/-- PACKAGE_RESET (R546). -/
def execPackageReset (cause : WarmCause) (s : State) : Host.Outcome State Fault Refusal :=
  if s.running then .next (s.packageReset cause.code) else .next s

/-- Coherence holds nothing but memory (R564, R546): every cache empty, every directory UNCACHED. -/
def State.emptyCoh (s : State) : State := { s with coh := { State.reset.coh with dirUse := [] } }

/-- Every cache writes its dirty lines back and ends invalid. -/
def State.flushPackage (s : State) : State := (s.flushLines (fun _ => true)).emptyCoh

/-- The caches lose their lines; which of the dirty ones had been written back is open (R565). DESIGN CHOICE, log 10. -/
def State.losePackage (s : State) : State :=
  let s := (s.coh.lines.filter (fun e => e.2.st.dirty)).foldl (fun s e =>
    let f := s.takeFresh
    if (Config.freeWord f.1).toNat % 2 = 1 then f.2.writeLineBack (e.1 / 64) e.2.moved else f.2) s
  s.emptyCoh

/-- A package reset or OFF_PREP whose drydown is over: W2 begins, or the store's programming ends. -/
def State.afterDrydown (s : State) : State :=
  let s := { s with rep := { s.rep with waits := [] }
                    plat := { s.plat with resets := s.plat.resets.map (fun (r : ResetRun) => if r.block == ResetBlock.package then { r with drained := true } else r) } }
  if s.plat.offPrep then s.tryOff
  else { s with plat := { s.plat with warmRun := [.w2] } }

/-- Whether nothing of the coherence protocol is still under way. DEDUCED, log 15. -/
def State.cohStill (s : State) : Bool :=
  s.coh.txns.isEmpty && s.coh.ageQ.isEmpty && s.coh.msgs.isEmpty && s.coh.arbQ.isEmpty && s.coh.outstanding.isEmpty

/-! ## After a package reset (R546 to R548, R639) -/

/-- The registers a package reset keeps (R547, R598, R639). DEDUCED, log 8. -/
def keptWarm (r : Reg) : Bool :=
  r.page == .time || [RegName.fixStore, .fixWear, .optHcal, .optAsym, .optFabCfg, .optRt, .rgnFwBase, .pkgRstCause, .pkgPartMap,
    .pkgAvailUnit, .pkgAvailClu, .pkgAvailMisc, .pkgAvailCore, .pkgAvailGen, .pkgAvailRetire, .pkgElogBase, .pkgElogCfg,
    .pkgElogHead, .pkgElogTail, .pkgElogLost].contains r.name

/-- The ports of a package reset: their links are down, the PCIe ports keep their mode and limits (R406, R546).
DEDUCED, log 8. -/
def State.portsWarm (s t : State) : State :=
  let t := (List.range 4).foldl (fun t q =>
    let x := s.pport q
    (t.setPport q { PciePort.idle with limRate := x.limRate, limWidth := x.limWidth
                                       cfg := if s.pcieEndpoint q then [] else x.cfg }).setFld
      (R.pcieLinkSts q) F.pcieLinkSts_MODE_CUR (bitNat (s.pcieEndpoint q))) t
  s.plat.optKept.foldl (fun t p => t.setOptEn p true) t

/-- The end of W2 (R546 to R548): registers at their reset values but for those kept, every context FREE, caches and
directories empty, the memories of units and clusters zero; the boot ROM checks limits and licences again.
DEDUCED, log 8 and 9. -/
def State.afterW2 (s : State) : State :=
  let z := State.reset
  let t := { s with regs := s.regs.filter (fun e => keptWarm e.1)
                    mem := s.mem.filter (fun e => rangeOf e.1 != .cluMem)
                    errs := s.errs.filter (fun e => decide (2 ^ 62 ≤ e.1) || rangeOf (8 * e.1) == .hbm || rangeOf (8 * e.1) == .keeper)
                    spad := [], acc := [], coh := z.coh, xl := z.xl, sch := z.sch, eng := z.eng, host := z.host,
                    slots := [], pcie := [], opt := []
                    sec := { s.sec with meas := [], verify := none }
                    time := { s.time with waiting := [], joined := false }
                    rep := { s.rep with scrub := [] }
                    plat := { s.plat with resets := [], warmRun := [.w3, .w4], keepersRun := false, bootTries := 0, powerWindow := [],
                                          runUs := 0, accepted := [], dvfsRun := [], dvfsHeld := [], dvfsProg := [], capClamped := [], thermLimit := false } }
  let t := (List.range 64).foldl (fun t n => t.setFld (R.timeAstrCfg n) F.timeAstrCfg_ARM 0) t
  let keep := fun (t : State) (r : Reg) (f : Fld) => t.setFld r f (s.fld r f)
  let t := keep (keep (keep (keep t R.pkgSts F.pkgSts_MAP_VALID) R.pkgSts F.pkgSts_MEM_DEGRADED) R.pkgSts F.pkgSts_D2D_DEAD)
    R.pkgSts F.pkgSts_VIN_LOW
  let t := keep (keep t R.secSts F.secSts_ID) R.fixSts F.fixSts_BANK_BUSY
  let t := (t.setFld R.pkgSts F.pkgSts_DIR_READY 1).setFld R.pkgBmcCap F.pkgBmcCap_CAP_W s.plat.capW
  let t := (t.storeScan (List.range 16 ++ (List.range 256).map (· + 0x100))).romChecks
  s.portsWarm t

/-- PACKAGE_RESET_STEP_END (R546): a step under way ends. -/
def execPackageResetStepEnd (e : WarmStepEnd) (s : State) : Host.Outcome State Fault Refusal :=
  let run := s.plat.warmRun
  let drop := fun (s : State) (x : WarmStep) => { s with plat := { s.plat with warmRun := s.plat.warmRun.erase x, warmDone := s.plat.warmDone ++ [x] } }
  match e with
  | .w2 => if run.contains .w2 then .next s.afterW2 else .next s
  | .w3 =>
    if !run.contains .w3 || s.plat.coldRun.contains .c9 then .next s
    else if s.imagePasses then
      let t := drop s.startKeepers .w3
      .next { t with plat := { t.plat with warmRun := t.plat.warmRun ++ [.w5] } }
    else .next { s with plat := { s.plat with coldRun := s.plat.coldRun ++ [.c9] } }
  | .w4 => if run.contains .w4 then .next (drop s .w4) else .next s
  | .w5 => if run.contains .w5 && s.bit R.pkgCtl F.pkgCtl_READY then .next (drop s.takePartitions .w5) else .next s

/-! ## Partial resets (R533, R534, R564 to R568) -/

/-- The block named in the LOC of a teardown that a partial reset causes (R534). -/
def ResetBlock.loc : ResetBlock → Loc
  | .unit u => locUnit u 0
  | .cluster c => locCluster c 8
  | .region r => locRegion r 0x10
  | .package => locHost 8 0

/-- Whether a block lies inside another. -/
def ResetBlock.inside (a b : ResetBlock) : Bool :=
  match a with
  | .unit u => b.hasUnit u
  | .cluster c => b.hasCluster c
  | .region r => b.hasRegion r
  | .package => b == .package

/-- The units of a block. -/
def ResetBlock.units : ResetBlock → List Nat
  | .unit u => [u.val]
  | .cluster c => (List.range 8).map (c.val * 8 + ·)
  | .region r => (List.range 32).map (r.val * 32 + ·)
  | .package => List.range 1024

/-- The clusters whose own blocks lie in a block. -/
def ResetBlock.clusters : ResetBlock → List Nat
  | .unit _ => []
  | .cluster c => [c.val]
  | .region r => (List.range 4).map (r.val * 4 + ·)
  | .package => List.range 128

/-- The contexts that own a window of a cluster's memory. -/
def State.winOwners (s : State) (c : Nat) : List Nat :=
  s.regs.filterMap (fun e => if e.1.name = .cluWin ∧ e.1.inst = c ∧ F.cluWin_VALID.get e.2 = 1 then some (F.cluWin_CTX.get e.2) else none)

/-- The contexts in the scope of a partial reset (R533). -/
def State.resetCtxs (s : State) (b : ResetBlock) : List Nat :=
  match b with
  | .region r => (s.sch.ctxs.map (·.1)).filter (fun c => s.ctxAlive c && s.ctxHasRegion c r)
  | _ => (b.units.flatMap s.unitContexts ++ b.clusters.flatMap s.winOwners).dedup

/-- The busy bit of a block in reset (R569, R570). -/
def State.setBusy (s : State) (b : ResetBlock) (v : Bool) : State :=
  match b with
  | .unit u => s.setBit (R.rgnRstSts (u / 32)) (u % 32) v
  | .cluster c => s.setBit (R.rgnRstSts (c / 4)) (32 + c % 4) v
  | .region r => s.setBit R.pkgRstSts r v
  | .package => s

/-- A partial reset begins (R533, R534, R564, R567, R568): it takes over the resets inside it, tears down the contexts in
its scope, disarms the ring slots whose hop unit it holds, and absorbs what is aimed at the block. -/
def State.beginReset (s : State) (b : ResetBlock) : State :=
  let cs := s.resetCtxs b
  let ks := (List.range 32).filter (fun k => b.hasUnit (s.hopUnit k) && (s.slotArmed k || (s.slot k).op.isSome))
  let s := { s with plat := { s.plat with resets := s.plat.resets.filter (fun (r : ResetRun) => !r.block.inside b) ++ [ResetRun.mk b s.now false] } }
  let s := s.setBusy b true
  let s := cs.foldl (fun s c => s.beginTeardown c 0x29 b.loc.toNat) s
  let s := ks.foldl State.dropSlot s
  let s := { s with sch := { s.sch with flights := s.sch.flights.filter (fun f => !b.hasUnit f.u)
                                        sendBuf := s.sch.sendBuf.filter (fun e => !b.hasUnit e.u) } }
  let s := (s.eng.units.map (·.1)).foldl (fun s u => if b.hasUnit u then s.haltEngines u else s) s
  let s := s.dropChans (fun c => b.hasCluster (c.u / 8))
  s.dropParks (fun p => decide (p.die < 4) && b.hasUnit (qidUnit p.qid)) (fun _ => false)

/-- Whether a block is in reset, or lies inside one that is (R567). -/
def State.inReset (s : State) (b : ResetBlock) : Bool := s.plat.resets.any (fun r => b.inside r.block)

/-- The latched fault records of queues inside a block are discarded (R344). -/
def State.dropLatches (s : State) (b : ResetBlock) : State :=
  let keep := s.xl.latches.filter (fun l => !(decide (l.1 < 4) && b.hasUnit (qidUnit l.2.1)))
  let s := { s with xl := { s.xl with latches := keep } }
  (List.range 5).foldl (fun s d => if keep.any (fun l => l.1 = d) then s else s.setFld (R.xltSts d) F.xltSts_FQ_HELD 0) s

/-- A request for a partial reset: begun, or ignored with RST_IGNORED in the page that received it (R567). -/
def State.requestReset (s : State) (b : ResetBlock) (p : Page) (i : Nat) : State :=
  if s.inReset b then s.raise p i 9 else (s.beginReset b).dropLatches b

/-- Region cache lines of an agent leave at the end of its drydown (R564): dirty ones are written back. DEDUCED, log 39. -/
def State.flushAgent (s : State) (agent : Nat) : State :=
  (s.coh.lines.filter (fun e => e.1 % 64 = agent)).foldl (fun s e =>
    let line := e.1 / 64
    let s := if e.2.st.dirty then (s.dirtyMoved agent line e.2).homeStore line e.2.moved else s
    (s.setCopy agent line none).dirDrop agent line) s

/-- Whether a region's cache has nothing of the protocol under way. DEDUCED, log 15. -/
def State.agentStill (s : State) (agent : Nat) : Bool :=
  s.coh.txns.all (fun t => t.req.agent.val != agent && !t.waiting.contains agent) && s.coh.outstanding.all (fun o => o.req.agent.val != agent)
    && s.coh.ageQ.all (fun x => x.2.agent.val != agent) && s.coh.arbQ.all (fun x => x.2.agent.val != agent)

/-- Whether a clock or voltage change is under way in a block that is to be reset (R568). -/
def State.dvfsUnder (s : State) (b : ResetBlock) : Bool := s.plat.dvfsRun.any (fun e => b.hasRegion e.1)

/-- DRYDOWN_END (R564): what was sent out of the block has run to completion. DEDUCED, log 15. -/
def execDrydownEnd (b : ResetBlock) (s : State) : Host.Outcome State Fault Refusal :=
  if !s.running || !s.plat.resets.any (fun (r : ResetRun) => r.block == b && !r.drained) || s.dvfsUnder b then .next s
  else
    let mark := fun (s : State) => { s with plat := { s.plat with resets := s.plat.resets.map (fun (r : ResetRun) => if r.block == b then { r with drained := true } else r) } }
    match b with
    | .package => if s.cohStill then .next s.flushPackage.afterDrydown else .next s
    | .region r => if s.agentStill r then .next (mark (s.flushAgent r)) else .next s
    | _ => .next (mark s)

/-- DRYDOWN_TIMEOUT (R565): a drydown not ended within 1 ms. -/
def execDrydownTimeout (b : ResetBlock) (s : State) : Host.Outcome State Fault Refusal :=
  if !s.running || !s.plat.resets.any (fun (r : ResetRun) => r.block == b && !r.drained && decide (1000000 ≤ s.elapsedNs r.since)) || s.dvfsUnder b then .next s
  else if b = .package then
    let s := s.losePackage
    let s := { s with plat := { s.plat with mgmtDrainLost := true } }
    let s := if s.plat.offPrep then s else s.setFld R.pkgRstCause F.pkgRstCause_DRAIN_LOST 1
    .next s.afterDrydown
  else .next (s.packageReset 6)

/-- A unit after its reset (R566). DEDUCED, log 9. -/
def State.wipeUnit (s : State) (u : Nat) : State :=
  let s := (s.clearSpad u).clearAcc u
  let own := fun (k : Nat) => k / 128 = u
  let s := s.resetPages (fun r => (r.page == .unit || r.page == .arr || r.page == .vec || r.page == .acc) && r.inst == u)
  { s with sch := { s.sch with heads := s.sch.heads.filter (fun e => !own e.1), stops := s.sch.stops.filter (fun e => !own e.1)
                               fbFetch := s.sch.fbFetch.filter (fun k => !own k), prov := s.sch.prov.filter (fun e => !own e.1)
                               outPorts := s.sch.outPorts.filter (fun e => !own e.1)
                               flights := s.sch.flights.filter (fun f => f.u != u) }
           eng := { units := Sparse.set id UnitEng.idle s.eng.units u { UnitEng.idle with cyc := (s.unitEng u).cyc }
                    prog := eraseKey s.eng.prog u } }

/-- A cluster's own blocks after its reset (R566). -/
def State.wipeCluster (s : State) (c : Nat) : State :=
  let b := cluMemAddr c 0
  let s := s.resetPages (fun r => (r.page == .clu || r.page == .dma) && r.inst == c)
  { s with mem := s.mem.filter (fun e => !(decide (b ≤ e.1) && decide (e.1 < b + 0x800000)))
           errs := s.errs.filter (fun e => !(decide (b ≤ 8 * e.1) && decide (8 * e.1 < b + 0x800000)))
           xl := { s.xl with tlb := s.xl.tlb.filter (fun e => e.tlb != c), chans := s.xl.chans.filter (fun e => e.1 / 16 != c) }
           sch := { s.sch with winTags := s.sch.winTags.filter (fun e => e.1 / 128 != c) } }

/-- A region's own blocks after its reset (R31, R566, R570, R639): clock, voltage, FW_BASE and WARDEN_RUN stay; a warden that
runs restarts at FW_BASE. -/
def State.wipeRegion (s : State) (r : Nat) : State :=
  let run := s.fld (R.rgnCtl r) F.rgnCtl_WARDEN_RUN
  let s := s.resetPages (fun x => x.page == .rgn && x.inst == r && x.name != .rgnDvfsCur && x.name != .rgnFwBase)
  let s := s.setFld (R.rgnCtl r) F.rgnCtl_WARDEN_RUN run
  let s := s.setFld (R.rgnSafe r) F.rgnSafe_CLK_MHZ (s.fld R.pkgCap F.pkgCap_CLK_CAP_MHZ)
  let f : Fld := ⟨8 * (r % 8) + 4, 8 * (r % 8)⟩
  let s := s.setFld (R.pkgPartCur (r / 8)) f (s.fld (R.pkgPartMap (r / 8)) f)
  if run = 1 then
    { s with host := { s.host with starts := insertKey s.host.starts (64 + r) (s.fld (R.rgnFwBase r) F.rgnFwBase_ADDR * 65536) } }
  else s

/-- RESET_COMPLETE (R566): a partial reset whose drydown has ended leaves its block as R566 says, and sets RST_DONE. -/
def execResetComplete (b : ResetBlock) (s : State) : Host.Outcome State Fault Refusal :=
  if !s.running || b == .package || !s.plat.resets.any (fun (r : ResetRun) => r.block == b && r.drained) then .next s
  else
    let s := { s with plat := { s.plat with resets := s.plat.resets.filter (fun (r : ResetRun) => r.block != b) } }
    let s := b.units.foldl State.wipeUnit s
    let s := b.clusters.foldl State.wipeCluster s
    match b with
    | .unit u => .next ((s.setBusy b false).raise .rgn (u / 32) 8)
    | .cluster c =>
      let s := (List.range 8).foldl (fun s i => s.setBit (R.rgnRstSts (c / 4)) (8 * (c.val % 4) + i) false) s
      .next ((s.setBusy b false).raise .rgn (c / 4) 8)
    | .region r => .next (((s.wipeRegion r).setBusy b false).raise .pkg 0 8)
    | .package => .next s

/-! ## Requests through RST_CTL (R533, R569, R570) -/

/-- A write of RST_CTL: firmware's, and stored; what it requests follows. -/
def State.rstCtlWrite (s : State) (a : Agent) (r : Reg) (v : Nat) (act : State → State) : State :=
  if !s.regReaches a r.page r.inst then s
  else if !fwAllowed a r.page then s.denied a r
  else act (s.setReg r (BitVec.ofNat 64 v))

/-- RST_CTL_COLD (R533). -/
def execRstCtlCold (a : Agent) (s : State) : Host.Outcome State Fault Refusal :=
  .next (s.rstCtlWrite a R.pkgRstCtl 3 (fun s => s.coldCause .rstCtl))

/-- RST_CTL_PACKAGE (R546). -/
def execRstCtlPackage (a : Agent) (s : State) : Host.Outcome State Fault Refusal :=
  .next (s.rstCtlWrite a R.pkgRstCtl 2 (fun s => s.packageReset 4))

/-- RST_CTL_PARTITION (R566). -/
def execRstCtlPartition (a : Agent) (r : Fin 32) (s : State) : Host.Outcome State Fault Refusal :=
  .next (s.rstCtlWrite a R.pkgRstCtl (1 + 4 * r.val) (fun s => s.requestReset (.region r) .pkg 0))

/-- The flat unit that an RGN.RST_CTL word names. -/
def rstUnit (r : Fin 32) (c : Fin 4) (u : Fin 8) : Fin 1024 := ⟨r * 32 + c * 8 + u, by omega⟩

/-- The flat cluster that an RGN.RST_CTL word names. -/
def rstCluster (r : Fin 32) (c : Fin 4) : Fin 128 := ⟨r * 4 + c, by omega⟩

/-- UNIT_RESET (R566). -/
def execUnitReset (a : Agent) (r : Fin 32) (c : Fin 4) (u : Fin 8) (s : State) : Host.Outcome State Fault Refusal :=
  .next (s.rstCtlWrite a (R.rgnRstCtl r) (2 * c.val + 8 * u.val) (fun s => s.requestReset (.unit (rstUnit r c u)) .rgn r))

/-- CLUSTER_RESET (R566). -/
def execClusterReset (a : Agent) (r : Fin 32) (c : Fin 4) (s : State) : Host.Outcome State Fault Refusal :=
  .next (s.rstCtlWrite a (R.rgnRstCtl r) (1 + 2 * c.val) (fun s => s.requestReset (.cluster (rstCluster r c)) .rgn r))

/-- WARDEN_RUN (R544, R545, R607): a write of 1 releases the warden at FW_BASE, or is ignored. DESIGN CHOICE, log 14. -/
def State.wardenRun (s : State) (r : Nat) : State :=
  let base := s.fld (R.rgnFwBase r) F.rgnFwBase_ADDR * 65536
  let ok := s.bit R.secWardenOk F.secWardenOk_VALID && s.fld R.secWardenOk F.secWardenOk_ADDR * 65536 == base
    && s.systemGranule base && !s.bit R.pkgSts F.pkgSts_BOOT_FAIL
  if !ok || s.bit (R.rgnCtl r) F.rgnCtl_WARDEN_RUN then s
  else
    let s := s.setFld (R.rgnCtl r) F.rgnCtl_WARDEN_RUN 1
    { s with host := { s.host with starts := insertKey s.host.starts (64 + r) base } }

/-- WARDEN_RUN (R607). -/
def execWardenRun (a : Agent) (r : Fin 32) (s : State) : Host.Outcome State Fault Refusal :=
  if !s.regReaches a .rgn r then .next s
  else if !fwAllowed a .rgn then .next (s.denied a (R.rgnCtl r))
  else .next (s.wardenRun r)

/-! ## Commands of the management target (R663) -/

/-- COLD (R663). -/
def execCold (s : State) : Host.Outcome State Fault Refusal :=
  if s.mgmtDead || s.plat.st == .held || s.plat.st == .thermTrip then .next s else .next (s.coldCause .i3c)

/-- The cold-reset steps that a package reset lets run on: those begun before the map is established (R536, R546).
DEDUCED, log 8. -/
def coldKept (l : List ColdStep) : List ColdStep := l.filter (fun x => x != .c9 && x != .c11)

/-- WARM (R663). -/
def execWarm (s : State) : Host.Outcome State Fault Refusal :=
  if s.works (locHost 7 0) && (s.plat.st == .ready || s.plat.st == .bootFail) then
    .next ({ s with plat := { s.plat with coldRun := coldKept s.plat.coldRun } }.packageReset 5)
  else .next s

/-- OFF_PREP (R663): the drydown of W1, then off. -/
def execOffPrep (s : State) : Host.Outcome State Fault Refusal :=
  if s.works (locHost 7 0) && (s.plat.st == .booting || s.plat.st == .ready || s.plat.st == .bootFail) then
    let s := s.beginDrydown
    .next ({ s with plat := { s.plat with offPrep := true, coldRun := [], warmRun := [], mgmtDrainLost := false } }.setSt .offPrep)
  else .next s

end Sys2Proof.Machine
end

