-- ==== Sys2Proof/Machine/Cycles.lean ====
section
/-! DEFINITION. The cycles of a unit's engines, one after another (R141 to R149, R161 to R165, R175, R192 to R196, R223), and
how a row that names a cycle brings the unit to it. -/

namespace Sys2Proof.Machine

/-- Every command of the unit that tokens keep waiting in the present cycle waits one cycle more (R165, R180). -/
def State.waitTick (s : State) (u : Nat) : State :=
  (s.unitFlights u).foldl (fun (x : State) f =>
    match f.stage with
    | .tokens m w => if s.tokensHeld f m then (x.setFlight u f.q f.seq (fun g => { g with stage := .tokens m (w + 1) })).countWait u (w + 1) else x
    | _ => x) s

/-- Tokens whose release falls in the present cycle are free from the next on (R161, R163, R194, R237). -/
def State.releaseTick (s : State) (u : Nat) : State :=
  { s with sch := { s.sch with flights := s.sch.flights.map (fun f =>
      match f.stage with
      | .running m => if f.u = u ∧ m ≠ 0 ∧ f.relAt ≤ s.unitCyc u then { f with stage := .running 0 } else f
      | _ => f) } }

/-- The elements a vector command has completed by a cycle (R223). -/
def Flight.elemsBy (f : Flight) (t : Nat) : Nat :=
  if f.doneAt ≤ t then f.plan.elems else min f.plan.elems (f.plan.unit * ((t - f.validAt - 16) / f.plan.per))

/-- The cycles up to one in which a vector command stalled. -/
def Flight.stallsBy (f : Flight) (t : Nat) : Nat := (f.plan.stalls.map (fun x => min x.2 (t + 1) - min x.1 (t + 1))).sum

/-- What a vector command did from one cycle to another joins the counters (R223). -/
def State.vecTally (s : State) (f : Flight) (from' to' : Nat) : State :=
  let s := s.addFld (R.vecElemCnt f.u) F.vecElemCnt_COUNT (f.elemsBy to' - f.elemsBy from')
  let s := s.addFld (R.vecBusyCyc f.u) F.vecBusyCyc_COUNT (min to' f.doneAt - min from' f.doneAt)
  s.addFld (R.vecStallCyc f.u) F.vecStallCyc_COUNT (f.stallsBy to' - f.stallsBy from')

/-- The vector engine's counters in the present cycle. -/
def State.vecTick (s : State) (u : Nat) : State :=
  let t := s.unitCyc u
  (s.unitFlights u).foldl (fun (x : State) f =>
    match f.eng, f.stage with
    | .vec, .running _ => x.vecTally f (t - 1) t
    | _, _ => x) s

/-- One cycle of a unit: what waits waits on; the outputs due are written; slots, drain reads, weight loads and rows take
their turn; tokens are released; the counters follow. -/
def State.cycle (s : State) (u : Nat) : State :=
  let e := s.unitEng u
  let s := s.setEng u { e with cyc := e.cyc + 1 }
  let s := (s.waitTick u).outTick u
  let s := (s.unitFlights u).foldl State.slotTick s
  ((s.drainTick u).arrTick u |>.vecTick u).releaseTick u

/-- Whether a unit's engines have nothing to do in any cycle to come until a row gives them something. -/
def State.unitIdle (s : State) (u : Nat) : Bool :=
  let e := s.unitEng u
  e.entered.isEmpty && e.tails.isEmpty && e.jobs.isEmpty && e.drain.isNone && e.outs.isEmpty && (s.unitFlights u).all (fun f =>
    match f.eng, f.stage with
    | .vec, .running _ => decide (f.doneAt ≤ e.cyc)
    | _, .running m => m == 0
    | _, st => !st.waits && st.owned == 0)

/-- So many cycles of a unit pass. -/
def State.cycles (s : State) (u : Nat) : Nat → State
  | 0 => s
  | n + 1 =>
    if s.unitIdle u then s.setEng u { s.unitEng u with cyc := s.unitCyc u + (n + 1) }
    else State.cycles (s.cycle u) u n

/-- The unit comes to a cycle that a row names; a row that names one already passed finds the unit where it is.
DESIGN CHOICE, log 99. -/
def State.atCycle (s : State) (u c : Nat) : State := (s.cycles u (c - s.unitCyc u)).syncOwn u

end Sys2Proof.Machine
end

