-- ==== Sys2Proof/Machine/SlotClaim.lean ====
section
/-! DEFINITION. The rows of the array, the accumulator engine and the drain path: their commands' checks and claims (R161 to
R164, R172, R175, R177, R192, R198, R239), the tokens' watchdog (R165), completion (R149, R163, R194, R231, R237), and the
clearing of the units' counters (R179, R181, R224). -/

namespace Sys2Proof.Machine

/-- A command that its engine's checks have judged: it fails with a status; it has nothing to do and completes (R173, R240,
R674); or it claims its slots. -/
def State.engineJudge (s : State) (f : Flight) (fails : Option Status) (empty : Bool) (late : Option Status) (mask : Nat)
    (run : Flight → Nat → State → RunEnd × State) : State :=
  match fails with
  | some st => s.failCmd f st (engineLoc f.u f.eng)
  | none =>
    if empty then s.complete f 0 0 (engineLoc f.u f.eng)
    else match late with
    | some st => s.failCmd f st (engineLoc f.u f.eng)
    | none => s.claimOrWait f mask run

/-- MMA (R172, R173, R147): the array validates the command in cycle `cyc` and claims its slots in the next. -/
def execMma (u : Fin 1024) (q : Fin 128) (cyc : Nat) (s : State) : Host.Outcome State Fault Refusal :=
  let s := s.atCycle u cyc
  match s.engineCmd u q .array 0x20 with
  | none => .next s
  | some f =>
    let d := Mma.of f.entry
    .next (s.engineJudge f (d.checkForm f.entry) (d.m = 0 ∨ d.n = 0 ∨ d.k = 0) d.checkShape (tileMask d.base d.m d.n)
      (fun f c s => d.run f c s))

/-- CONV (R239, R240, R231): validated in cycle `cyc`; it claims its slots as MMA does. -/
def execConv (u : Fin 1024) (q : Fin 128) (cyc : Nat) (s : State) : Host.Outcome State Fault Refusal :=
  let s := s.atCycle u cyc
  match s.engineCmd u q .array 0x24 with
  | none => .next s
  | some f =>
    let d := Conv.of f.entry
    .next (s.engineJudge f (d.checkForm f.entry) (d.oth = 0 ∨ d.otw = 0 ∨ d.n = 0 ∨ d.tile.c = 0) d.checkShape
      (tileMask d.base d.m d.n) (fun f c s => d.run f c s))

/-- DRAIN (R198, R192): checked in cycle `cyc`; it claims its slots when they and the drain path are free. -/
def execDrain (u : Fin 1024) (q : Fin 128) (cyc : Nat) (s : State) : Host.Outcome State Fault Refusal :=
  let s := s.atCycle u cyc
  match s.engineCmd u q .drain 0x28 with
  | none => .next s
  | some f =>
    let d := Drain.of f.entry
    .next (s.engineJudge f (d.checkForm f.entry) (d.m = 0 ∨ d.n = 0) d.checkShape (tileMask d.base d.m d.n)
      (fun f c s => d.run f c s))

/-! ## The accumulator engine's order (R175, R177, R674) -/

/-- Whether the accumulator engine of a unit has an earlier command at hand. -/
def State.accEngBusy (s : State) (f : Flight) : Bool := (s.before f).any (fun g => g.eng == .accEng && g.stage.live)

/-- The accumulator engine takes up a command: it is judged in the present cycle, and claims its slots or ends. -/
def State.accTake (s : State) (f : Flight) : State :=
  let op := Ent.opcode f.entry
  s.engineJudge f (accCheck f.entry (accImage op)) (entBits f.entry 16 7 0 == 0) none (entBits f.entry 16 7 0) accRun

/-- The accumulator engine takes up the commands that were issued to it while it was busy, one at a time in issue order,
until one of them claims or waits (R175). The spec does not say in which cycle the engine takes up a command after its
predecessor: here in the predecessor's last cycle, so that it may claim in the next one, and its wait for tokens counts from
there. DESIGN CHOICE, log 99. -/
def State.nextAcc (s : State) (u : Nat) : Nat → State
  | 0 => s
  | n + 1 =>
    match (s.unitFlights u).find? (fun g => g.eng == .accEng && g.stage == .issued && g.begun && !s.accEngBusy g) with
    | some f => State.nextAcc (s.accTake f) u n
    | none => s

/-- An accumulator command reaches its engine in cycle `cyc`: it is taken up there, or after the commands before it. -/
def accCommand (u q op : Nat) (cyc : Nat) (s : State) : Host.Outcome State Fault Refusal :=
  let s := s.atCycle u cyc
  match s.engineCmd u q .accEng op with
  | none => .next s
  | some f =>
    let s := s.setFlight u q f.seq (fun g => { g with begun := true })
    .next (s.nextAcc u (s.unitFlights u).length)

/-- ACC_CLEAR (R175, R177). -/
def execAccClear (u : Fin 1024) (q : Fin 128) (cyc : Nat) (s : State) : Host.Outcome State Fault Refusal :=
  accCommand u q 0x21 cyc s

/-- ACC_SPILL (R175, R177). -/
def execAccSpill (u : Fin 1024) (q : Fin 128) (cyc : Nat) (s : State) : Host.Outcome State Fault Refusal :=
  accCommand u q 0x22 cyc s

/-- ACC_FILL (R175 to R177). -/
def execAccFill (u : Fin 1024) (q : Fin 128) (cyc : Nat) (s : State) : Host.Outcome State Fault Refusal :=
  accCommand u q 0x23 cyc s

/-- ACC_MERGE (R221). -/
def execAccMerge (u : Fin 1024) (q : Fin 128) (cyc : Nat) (s : State) : Host.Outcome State Fault Refusal :=
  accCommand u q 0x29 cyc s

/-! ## Claims and the watchdog -/

/-- What a command does once it holds its tokens, by its opcode. -/
def engineRun (f : Flight) (c : Nat) (s : State) : RunEnd × State :=
  match Ent.opcode f.entry with
  | 0x20 => (Mma.of f.entry).run f c s
  | 0x24 => (Conv.of f.entry).run f c s
  | 0x28 => (Drain.of f.entry).run f c s
  | _ => accRun f c s

/-- SLOT_TOKEN_CLAIM (R161): a waiting command takes the tokens of all its slots in cycle `cyc` when all are free: those
released before that cycle. -/
def execSlotTokenClaim (u : Fin 1024) (q : Fin 128) (cyc : Nat) (s : State) : Host.Outcome State Fault Refusal :=
  let s := s.atCycle u (cyc - 1)
  match s.flight u q (fun f => f.stage.waits) with
  | none => .next s
  | some f => if s.mayClaim f f.stage.wanted then .next (s.claim f f.stage.wanted engineRun) else .next s

/-- UNIT.WDOG.LIMIT as bounded by UNIT.SAFE.WDOG_MAX (R165, R592). DEDUCED, log 17. -/
def State.tokenLimit (s : State) (u : Nat) : Nat := min (s.fld (R.unitWdog u) F.unitWdog_LIMIT) (s.fld (R.unitSafe u) F.unitSafe_WDOG_MAX)

/-- ACC_HAZARD_TIMEOUT (R165): a command that has waited for tokens for more than the limit faults its context. -/
def execAccHazardTimeout (u : Fin 1024) (q : Fin 128) (cyc : Nat) (s : State) : Host.Outcome State Fault Refusal :=
  let s := s.atCycle u cyc
  match s.flight u q (fun f => f.stage.waits) with
  | none => .next s
  | some f =>
    match f.stage with
    | .tokens _ waited =>
      if s.tokenLimit u < waited then .next ((s.failCmd f .accHazardTimeout (engineLoc u f.eng)).syncOwn u) else .next s
    | _ => .next s

/-! ## Completion -/

/-- ARRAY_COMMAND_COMPLETE (R149, R231, R237): an MMA or CONV whose completion cycle has come completes. -/
def execArrayCommandComplete (u : Fin 1024) (q : Fin 128) (cyc : Nat) (s : State) : Host.Outcome State Fault Refusal :=
  let s := s.atCycle u cyc
  match s.ended u q .array with
  | some f => .next (s.engineDone f)
  | none => .next s

/-- ACC_ENGINE_DONE (R163, R175): a command whose last named slot is done completes, and the engine takes up its next
command. -/
def execAccEngineDone (u : Fin 1024) (q : Fin 128) (cyc : Nat) (s : State) : Host.Outcome State Fault Refusal :=
  let s := s.atCycle u cyc
  match s.ended u q .accEng with
  | some f => .next ((s.engineDone f).nextAcc u (s.unitFlights u).length)
  | none => .next s

/-- DRAIN_COMPLETE (R194): a DRAIN whose last output was written in the cycle before completes. -/
def execDrainComplete (u : Fin 1024) (q : Fin 128) (cyc : Nat) (s : State) : Host.Outcome State Fault Refusal :=
  let s := s.atCycle u cyc
  match s.ended u q .drain with
  | some f => .next (s.engineDone f)
  | none => .next s

/-! ## Counters -/

/-- A counter register becomes zero. -/
def State.zero (s : State) (r : Reg) : State := s.setReg r 0

/-- A write to a page's CTL with CNT_CLR, a WO field, at 1: the counters named become zero, unless the page's block takes no
write (R100, R564). -/
def cntClr (p : Page) (i : Nat) (rs : List Reg) (s : State) : Host.Outcome State Fault Refusal :=
  if s.pageDead p i then .next s else .next (rs.foldl State.zero s)

/-- ARR_CNT_CLR (R179). -/
def execArrCntClr (_a : Agent) (u : Fin 1024) (s : State) : Host.Outcome State Fault Refusal :=
  cntClr .arr u [R.arrPassCnt u, R.arrRowCnt u, R.arrFeedCyc u, R.arrGapCyc u, R.arrThrCyc u, R.arrMaskedCnt u] s

/-- ACC_CNT_CLR (R181). -/
def execAccCntClr (_a : Agent) (u : Fin 1024) (s : State) : Host.Outcome State Fault Refusal :=
  cntClr .acc u [R.accHazWaitCyc u, R.accHazWaitMax u, R.accCeCnt u] s

/-- VEC_CNT_CLR (R224). -/
def execVecCntClr (_a : Agent) (u : Fin 1024) (s : State) : Host.Outcome State Fault Refusal :=
  cntClr .vec u [R.vecElemCnt u, R.vecBusyCyc u, R.vecStallCyc u, R.vecSupprCnt u, R.vecDrainEnt u, R.vecDrainCyc u] s

/-- CLU_CNT_CLR (R646). -/
def execCluCntClr (_a : Agent) (c : Fin 128) (s : State) : Host.Outcome State Fault Refusal :=
  cntClr .clu c [R.cluTlbLookup c, R.cluTlbMiss c] s

/-- DMA_CNT_CLR (R648). -/
def execDmaCntClr (_a : Agent) (c : Fin 128) (s : State) : Host.Outcome State Fault Refusal :=
  cntClr .dma c [R.dmaBytes c, R.dmaPieces c, R.dmaParkCnt c, R.dmaMoveCyc c] s

end Sys2Proof.Machine
end

