-- ==== Sys2Proof/Machine/RingMath.lean ====
section
/-! DEFINITION. What a ring slot computes: the step table's fields (R470), shards and chunks (R472), the chunk header
(R474, R475), the TQ16 hop (R473, R476 to R478) and the SIGN1 hop (R486). -/

namespace Sys2Proof.Machine

/-! ## The step table entry (R470) -/

namespace Step

/-- PHASE is all-gather. -/
def ag (e : BitVec 512) : Bool := entBit e 0 0
/-- ENC. -/
def enc (e : BitVec 512) : Nat := entBits e 0 2 1
/-- LOCAL_BF16. -/
def localBf16 (e : BitVec 512) : Bool := entBit e 0 3
/-- SCL_EN. -/
def sclEn (e : BitVec 512) : Bool := entBit e 0 4
/-- HEADROOM. -/
def headroom (e : BitVec 512) : Nat := entBits e 0 8 5
/-- AG_FMT. -/
def agFmt (e : BitVec 512) : Nat := entBits e 0 12 9
/-- ELEMS. -/
def elems (e : BitVec 512) : Nat := entBits e 8 31 0
/-- The buffer named at byte `o`. -/
def buf (e : BitVec 512) (o : Nat) : Nat := entBits e o 15 0
/-- The offset beside it. -/
def ofs (e : BitVec 512) (o : Nat) : Nat := entBits e o 63 16
/-- READY_VA. -/
def readyVa (e : BitVec 512) : Nat := entBits e 48 47 0
/-- Whether every reserved bit is zero (check 1 of R471). -/
def reservedOk (e : BitVec 512) : Bool :=
  entReserved e 0 8 0x1FFF && entReserved e 8 8 0xFFFFFFFF && entReserved e 48 16 (2 ^ 48 - 1)
/-- The bytes of an all-gather element. -/
def agBytes (e : BitVec 512) : Nat := ((Fmt.ofCode (agFmt e)).map (fun f => f.bits / 8)).getD 0
/-- The bytes of a local gradient. -/
def gradBytes (e : BitVec 512) : Nat := if localBf16 e then 2 else 4
/-- ⌈ELEMS / 24⌉. -/
def blocks (e : BitVec 512) : Nat := ceilDiv' (elems e) 24

end Step

/-! ## Shards and chunks (R472, R480) -/

/-- L: the elements of a shard. -/
def shardLen (elems p : Nat) : Nat := 24 * ceilDiv' elems (24 * p)

/-- The elements shard `j` holds. -/
def shardCount (elems p j : Nat) : Nat := Nat.min ((j + 1) * shardLen elems p) elems - j * shardLen elems p

/-- The chunks of shard `j`. -/
def shardChunks (elems p j : Nat) : Nat := ceilDiv' (shardCount elems p j) 384

/-- The shard of a round at a position (R480): round 0 sends local data, the last round only receives. -/
def roundShard (ag : Bool) (p pos r : Nat) : Nat := (pos + 2 * p - r - (if ag then 0 else 1)) % p

/-- The first round and chunk from here on that exist; round `p` when none does. -/
def nextChunk (ag : Bool) (elems p pos : Nat) : Nat → Nat → Nat → Nat × Nat
  | 0, r, c => (r, c)
  | fuel + 1, r, c =>
    if p ≤ r then (p, 0)
    else if c < shardChunks elems p (roundShard ag p pos r) then (r, c)
    else nextChunk ag elems p pos fuel (r + 1) 0

/-- The first element of a chunk. -/
def chunkFirst (elems p j c : Nat) : Nat := j * shardLen elems p + 384 * c

/-- NELEM of a chunk. -/
def chunkCount (elems p j c : Nat) : Nat := Nat.min 384 (shardCount elems p j - 384 * c)

/-! ## Chunk headers (R474, R475) -/

/-- The fields of a header entry. -/
structure ChunkHdr where
  ckind : Nat
  enc : Nat
  nelem : Nat
  xfer : Nat
  shard : Nat
  chunk : Nat
  key : Nat
  contrib : Nat
  deriving DecidableEq, Repr

/-- The header of an entry. -/
def chunkHdr (e : BitVec 512) : ChunkHdr :=
  { ckind := entBits e 16 3 0, enc := entBits e 16 5 4, nelem := entBits e 16 14 6, xfer := entBits e 16 30 15,
    shard := entBits e 16 42 31, chunk := entBits e 16 63 43, key := entBits e 24 47 0, contrib := entBits e 24 60 48 }

/-- A header entry's body; `rest` are bytes 32 to 63. -/
def ChunkHdr.body (h : ChunkHdr) (rest : Nat) : BitVec 384 :=
  BitVec.ofNat 384 ((h.ckind + h.enc * 2 ^ 4 + h.nelem * 2 ^ 6 + h.xfer * 2 ^ 15 + h.shard * 2 ^ 31 + h.chunk * 2 ^ 43)
    + (h.key + h.contrib * 2 ^ 48) * 2 ^ 64 + rest * 2 ^ 128)

/-- SCALE of a block, or its next agreed scale. -/
def hdrScale (e : BitVec 512) (b : Nat) : Nat := entBits e (32 + b) 7 0

/-- ESC of a block. -/
def hdrEsc (e : BitVec 512) (b : Nat) : Nat := entBits e 48 (4 * b + 3) (4 * b)

/-- MAG of a block. -/
def hdrMag (e : BitVec 512) (b : Nat) : Nat := entBits e (32 + 2 * b) 15 0

/-- Bytes packed into the bodies of payload entries (R475). -/
def payloadBodies (bs : List Byte) : Nat → List (BitVec 384)
  | 0 => []
  | n + 1 => BitVec.ofNat 384 (bytesToNat (bs.take 48)) :: payloadBodies (bs.drop 48) n

/-- The bytes of payload entries. -/
def payloadBytes (es : List (BitVec 512)) : List Byte := es.flatMap (fun e => natToBytes 48 (entryBody e))

/-! ## TQ16 (R473, R476 to R478) -/

/-- y / 2^k to the nearest integer, ties to even. -/
def rneShift (y : Int) (k : Nat) : Int :=
  let n := roundSteps .rne 0 y.natAbs 1 (k : Int)
  if y < 0 then -(n : Int) else n

/-- A finite value in units of 2^-149, the least FP32 and BF16 weight divides it. -/
def unit149 : Val → Option Int
  | .fin neg n d => some (sgn neg (n * 2 ^ 149 / d))
  | _ => none

/-- The exact sums of a block, in units of 2^-149 (R476); none for a NaN block (R477). -/
def tqSums (scale : Nat) (qs : List Int) (gs : List Val) : Option (List Int) :=
  if scale = 0xFF then none
  else (gs.mapM unit149).map (fun us => (us.zip qs).map (fun e => e.2 * 2 ^ (scale + 7) + e.1))

/-- Whether every element of a block fits at a scale code. -/
def tqFits (ys : List Int) (scale : Nat) : Bool := ys.all (fun y => decide ((rneShift y (scale + 7)).natAbs ≤ 32767))

/-- The first scale code from `scale` on, up to 254, at which a block fits. -/
def tqScale (ys : List Int) (scale : Nat) : Option Nat :=
  ((List.range 255).filter (fun k => decide (scale ≤ k))).find? (fun k => tqFits ys k)

/-- A block as a TQ16 hop sends it: its scale, ESC and elements. -/
structure TqBlock where
  scale : Nat
  esc : Nat
  qs : List Int
  deriving DecidableEq, Repr

/-- A NaN block (R477). -/
def TqBlock.nan (esc n : Nat) : TqBlock := ⟨0xFF, esc, List.replicate n 0⟩

/-- A TQ16 hop on one block (R476, R477). -/
def tqHop (scale esc : Nat) (qs : List Int) (gs : List Val) : TqBlock :=
  match tqSums scale qs gs with
  | none => TqBlock.nan esc gs.length
  | some ys =>
    match tqScale ys scale with
    | none => TqBlock.nan esc gs.length
    | some k => ⟨k, if k > scale then Nat.min (esc + 1) 15 else esc, ys.map (fun y => rneShift y (k + 7))⟩

/-- What the owner makes of a block (R478): its FP32 elements and its next agreed scale. -/
def tqOwner (scale headroom : Nat) (qs : List Int) (gs : List Val) : List Nat × Nat :=
  match tqSums scale qs gs with
  | none => (List.replicate gs.length Fmt.f32.nanBits, 0x7F)
  | some ys =>
    (ys.map (fun y => (Fmt.f32.convert .rne 0 (Val.ofInt y (2 ^ 149))).1),
     Nat.min ((tqScale ys 0).getD 254 + headroom) 254)

/-- The element of a payload entry (R473, R475). -/
def tqElem (e : BitVec 512) (k : Nat) : Int := signedOf 16 (entBits e (16 + 2 * k) 15 0)

/-- A payload entry's body with a block's elements. -/
def tqBody (qs : List Int) : BitVec 384 :=
  BitVec.ofNat 384 ((qs.zipIdx.map (fun e => patternOf 16 e.1 * 2 ^ (16 * e.2))).sum)

/-! ## SIGN1 (R486) -/

/-- A block as a SIGN1 hop sends it: its magnitude, its signs, its sums and its new residuals. -/
structure SgBlock where
  mag : Nat
  signs : List Bool
  ys : List Val
  res : List Nat
  deriving DecidableEq, Repr

/-- The mean of the magnitudes of a block in BF16: sum and quotient exact. -/
def sgMean (ys : List Val) : Nat :=
  match (ys.map Val.abs).foldl Val.add Val.zero with
  | .fin _ n d => (Fmt.bf16.convert .rne 0 (.fin false n (d * ys.length))).1
  | _ => Fmt.bf16.nanBits

/-- A SIGN1 hop on one block: at the origin there is no incoming magnitude (R486). -/
def sgHop (mIn : Option Nat) (signsIn : List Bool) (gs rs : List Val) : SgBlock :=
  let v := fun (neg : Bool) =>
    match mIn with
    | none => Val.zero
    | some m => if neg then (Fmt.bf16.decode m).neg else Fmt.bf16.decode m
  let ts := (gs.zip rs).map (fun e => (toF32 (Val.add e.1 e.2)).1)
  let ys := (signsIn.zip ts).map (fun e => (toF32 (Val.add (v e.1) e.2)).1)
  let signs := ys.map Val.isNeg
  if ys.all Val.isFin then
    let m := sgMean ys
    let out := fun (neg : Bool) => if neg then (Fmt.bf16.decode m).neg else Fmt.bf16.decode m
    ⟨m, signs, ys, ys.map (fun y => (Fmt.f32.convert .rne 0 (Val.add y (out y.isNeg).neg)).1)⟩
  else ⟨Fmt.bf16.nanBits, signs, ys, ys.map (fun _ => 0)⟩

/-- The owner's FP32 elements of a block: the canonical NaN in a NaN block (R486). DEDUCED, log 73. -/
def SgBlock.owned (b : SgBlock) : List Nat :=
  if b.ys.all Val.isFin then b.ys.map (fun y => (Fmt.f32.convert .rne 0 y).1) else b.ys.map (fun _ => Fmt.f32.nanBits)

/-- The sign of chunk element `i` (R475). -/
def sgSign (e : BitVec 512) (i : Nat) : Bool := entBit e (16 + i / 8) (i % 8)

end Sys2Proof.Machine
end

