-- ==== Sys2Proof/Machine/RingMem.lean ====
section
/-! DEFINITION. A ring slot's accesses to memory, under its context through its hop unit's cluster (R496), and its queue
entries (R467): a step of a slot that meets a page not present parks with nothing done, as R341 has other requesters do. -/

namespace Sys2Proof.Machine

/-- Why an access of a slot is not performed. -/
inductive SlotFail where
  | absent (level va : Nat) (a : AccessKind)
  | fatal (st : Status)
  | busy
  /-- a read of a port's outbound window whose data has not come -/
  | outRead (port pa va len : Nat)
  deriving DecidableEq, Repr

/-- A memory failure of a slot's access at an address. -/
def MemFail.slot (a : AccessKind) : MemFail → SlotFail
  | .notPresent L va => .absent L va a
  | .fatal st => .fatal st
  | .busy => .busy
  | .outbound _ _ => .fatal .granule

/-- One access after another. DEDUCED, log 70. -/
def slotBind {α β : Type} (r : Except SlotFail α × State) (f : α → State → Except SlotFail β × State) : Except SlotFail β × State :=
  match r with
  | (.error e, s) => (.error e, s)
  | (.ok a, s) => f a s

/-- A register field of slot `k`'s ring position. -/
def State.slotRing (s : State) (k : Nat) (f : Fld) : Nat := s.fld (R.dieSlotRing (k / 8) (k % 8)) f

/-- The atomizer that a slot's requests come from. -/
def State.slotReq (s : State) (k : Nat) : Loc := locCluster (unitCluster (s.hopUnit k)) 8

/-- The place of a slot's faults: the local sequencer of its hop unit. DEDUCED, log 70. -/
def State.slotLoc (s : State) (k : Nat) : Loc := locUnit (s.hopUnit k) 0

/-- The chunk queue's ID, by which a slot's fault record is resolved. -/
def State.slotQid (s : State) (k : Nat) : Nat := queueId (s.hopUnit k) (s.slotCfg k F.dieSlotCfg_CHUNK_LQ)

/-- A read within one page. -/
def State.slotReadPage (s : State) (k va n : Nat) : Except SlotFail (List Byte) × State :=
  let t := unitCluster (s.hopUnit k)
  if s.walkHeld t (s.slotCtx k) va then (.error (MemFail.busy.slot .read), s)
  else match s.translate t (s.slotCtx k) va .read with
  | (.error (.notPresent L), s) => (.error (.absent L va .read), s)
  | (.error _, s) => (.error (.fatal .translation), s)
  | (.ok x, s) =>
    match outPort x.pa with
    | some p =>
      if !s.outOpen p then (.ok (List.replicate n 0xFF), s)
      else match lookupKey (s.slot k).fetched (p * 2 ^ 64 + s.outAddr p x.pa) with
        | some bs => if bs.length = n then (.ok bs, s) else (.error (.outRead p x.pa va n), s)
        | none => (.error (.outRead p x.pa va n), s)
    | none =>
      match s.xRead t (s.slotCtx k) x n (s.slotReq k) with
      | (.ok bs, s) => (.ok bs, s)
      | (.error e, s) => (.error (e.slot .read), s)

/-- A read of a range, page by page. -/
def State.slotReadFuel (s : State) (k : Nat) : Nat → Nat → Nat → Except SlotFail (List Byte) × State
  | 0, _, _ => (.ok [], s)
  | fuel + 1, va, len =>
    if len = 0 then (.ok [], s)
    else
      let n := Nat.min len (4096 - va % 4096)
      slotBind (s.slotReadPage k va n) (fun bs s =>
        slotBind (State.slotReadFuel s k fuel (va + n) (len - n)) (fun r s => (.ok (bs ++ r), s)))

/-- A read of a slot. DEDUCED, log 70. -/
def State.slotRead (s : State) (k va len : Nat) : Except SlotFail (List Byte) × State := s.slotReadFuel k (len / 4096 + 2) va len

/-- A write within one page. A write to an outbound window is posted, or discarded while the port is not open (R412). -/
def State.slotWritePage (s : State) (k va : Nat) (bs : List Byte) : Except SlotFail Unit × State :=
  let t := unitCluster (s.hopUnit k)
  if s.walkHeld t (s.slotCtx k) va then (.error (MemFail.busy.slot .write), s)
  else match s.translate t (s.slotCtx k) va .write with
  | (.error (.notPresent L), s) => (.error (.absent L va .write), s)
  | (.error _, s) => (.error (.fatal .translation), s)
  | (.ok x, s) =>
    match outPort x.pa with
    | some p => (.ok (), if s.outOpen p then s.outWrite p x.pa bs false (.slot k) (some (s.slotCtx k, va)) else s.slotLost k)
    | none =>
      match s.xWrite t (s.slotCtx k) x bs (s.slotReq k) with
      | (.ok _, s) => (.ok (), s)
      | (.error e, s) => (.error (e.slot .write), s)

/-- A write of a range, page by page. -/
def State.slotWriteFuel (s : State) (k : Nat) : Nat → Nat → List Byte → Except SlotFail Unit × State
  | 0, _, _ => (.ok (), s)
  | fuel + 1, va, bs =>
    if bs.isEmpty then (.ok (), s)
    else
      let n := Nat.min bs.length (4096 - va % 4096)
      slotBind (s.slotWritePage k va (bs.take n)) (fun _ s => State.slotWriteFuel s k fuel (va + n) (bs.drop n))

/-- A write of a slot. DEDUCED, log 70. -/
def State.slotWrite (s : State) (k va : Nat) (bs : List Byte) : Except SlotFail Unit × State :=
  s.slotWriteFuel k (bs.length / 4096 + 2) va bs

/-- Writes one after another. -/
def State.slotWrites (s : State) (k : Nat) : List (Nat × List Byte) → Except SlotFail Unit × State
  | [] => (.ok (), s)
  | w :: ws => slotBind (s.slotWrite k w.1 w.2) (fun _ s => State.slotWrites s k ws)

/-- Whether a slot waits for a translation. DEDUCED, log 70. -/
def State.slotParked (s : State) (k : Nat) : Bool := s.xl.parks.any (fun p => p.who == .slot (Fin.ofNat 32 k))

/-- Whether an outbound write of a slot is not yet acknowledged. -/
def State.slotPosted (s : State) (k : Nat) : Bool := (List.range 4).any (fun p => (s.pport p).outW.any (fun w => w.owner = .slot k))

/-- A step of a slot that was not performed: nothing is done; it parks (R341), waits, reads an outbound window, or its
context faults. -/
def State.slotFailed (s : State) (k : Nat) (t : State) : SlotFail → State
  | .absent L va a =>
    s.park (k / 8) (s.slotQid k) (.slot (Fin.ofNat 32 k)) (s.slotCtx k) va a L 0 0 (s.slotLoc k)
  | .fatal st => (t.endSnapOp k 8).ctxFault (s.slotCtx k) st.code (s.slotLoc k)
  | .busy => s
  | .outRead p pa va n =>
    if (s.pport p).outR.any (fun r => r.owner = .slot k) then s
    else s.outRead p (s.outAddr p pa) n (.slot k) (some (s.slotCtx k, va))

/-- A step of a slot, whole: performed with what follows, or not at all. -/
def State.slotStep {α : Type} (s : State) (k : Nat) (r : Except SlotFail α × State) (f : α → State → State) : State :=
  match r with
  | (.error e, t) => s.slotFailed k t e
  | (.ok a, t) => f a (t.setSlotSt k { t.slot k with fetched := [] })

/-! ## Queue entries (R467) -/

/-- The entry at an index of a queue of the hop unit. -/
def State.slotEntry (s : State) (k q i : Nat) : Except SlotFail (BitVec 512) × State :=
  slotBind (s.slotRead k (s.qEntryVa (s.hopUnit k) q (s.qHead (s.hopUnit k) q + i)) 64) (fun bs s => (.ok (entryOf bs), s))

/-- The slot has finished with the entry at a queue's head: it is freed, and its credit returns (R269, R467). -/
def State.slotFree (s : State) (k q : Nat) : State :=
  let p := s.takeEntry (s.hopUnit k) q
  p.2.freeTaken (s.hopUnit k) [p.1]

/-- An entry is discarded (R483, R492): freed, and counted in STALE. -/
def State.slotDiscard (s : State) (k q : Nat) : State :=
  (s.slotFree k q).satFld (R.dieSlotCnt (k / 8) (k % 8)) F.dieSlotCnt_STALE 1

/-- The first `n` entries of a queue are discarded. -/
def State.slotDiscards (s : State) (k q : Nat) : Nat → State
  | 0 => s
  | n + 1 => State.slotDiscards (s.slotDiscard k q) k q n

/-- Whether a slot does its work: it is armed, its hop unit is live, and it does not wait for a translation. -/
def State.slotActs (s : State) (k : Nat) : Bool := s.slotArmed k && s.unitLive (s.hopUnit k) && !s.slotParked k

/-- The current KEY. -/
def State.ringKey (s : State) (k : Nat) : Nat := s.fld (R.dieSlotKey (k / 8) (k % 8)) F.dieSlotKey_KEY

/-- CUR: the index of the transfer in progress. -/
def State.slotCur (s : State) (k : Nat) : Nat := s.fld (R.dieSlotSts (k / 8) (k % 8)) F.dieSlotSts_CUR

/-- SLOTn_STS.PAR. -/
def State.slotPar (s : State) (k : Nat) : Nat := s.fld (R.dieSlotSts (k / 8) (k % 8)) F.dieSlotSts_PAR

/-- P. -/
def State.slotP (s : State) (k : Nat) : Nat := s.slotRing k F.dieSlotRing_P

/-- POS. -/
def State.slotPos (s : State) (k : Nat) : Nat := s.slotRing k F.dieSlotRing_POS

end Sys2Proof.Machine
end

