-- ==== Sys2Proof/Machine/Ring.lean ====
section
/-! DEFINITION. The ring slots' commands (R464 to R494): arming, the step table, chunks sent and received, windows, the seal
and repetition. -/

namespace Sys2Proof.Machine

/-! ## The step table (R470, R471) -/

/-- The step table's address. DEDUCED, log 55. -/
def State.stepTbl (s : State) (k : Nat) : Nat := s.fld (R.dieSlotTbl (k / 8) (k % 8)) F.dieSlotTbl_VA * 64

/-- COUNT of the step table. -/
def State.stepCount (s : State) (k : Nat) : Except SlotFail Nat × State :=
  slotBind (s.slotRead k (s.stepTbl k) 2) (fun bs s => (.ok (bytesToNat bs), s))

/-- Transfer `x` of the step table. -/
def State.stepEntry (s : State) (k x : Nat) : Except SlotFail (BitVec 512) × State :=
  slotBind (s.slotRead k (s.stepTbl k + 64 * (x + 1)) 64) (fun bs s => (.ok (entryOf bs), s))

/-- The buffers a transfer uses: the byte its name stands at, its extent, and whether it is read and written (R471). -/
def stepBufs (e : BitVec 512) : List (Nat × Nat × Bool × Bool) :=
  let n := Step.elems e
  let src := if Step.ag e then Step.agBytes e * n else n * Step.gradBytes e
  let dst := if Step.ag e then Step.agBytes e * n else 4 * n
  [(16, src, true, false), (24, dst, false, true)]
    ++ (if Step.sclEn e then [(32, Step.blocks e, true, true)] else [])
    ++ (if !Step.ag e && Step.enc e == 1 then [(40, 8 * n, true, true)] else [])

/-- Checks 1 to 4 of R471; `after` says that an all-gather transfer has come before. -/
def State.stepCheck (s : State) (k : Nat) (e : BitVec 512) (after : Bool) : Option Status :=
  let ag := Step.ag e
  let enc := Step.enc e
  if !Step.reservedOk e then some .reservedField
  else if enc = 3 || (!ag && enc == 2) || (ag && enc != 2) || (!ag && enc == 1 && Step.sclEn e)
      || (enc == 1 && !s.bit R.secLicSts F.secLicSts_SIGN1_EFF) then some .fieldCode
  else if ag && !([0x3, 0x4, 0x6, 0x7, 0x8, 0xA].contains (Step.agFmt e)) then some .formatCode
  else if (!ag && after) || Step.readyVa e % 8 != 0 || decide (2 ^ 21 < ceilDiv' (shardLen (Step.elems e) (s.slotP k)) 384) then
    some .fieldValue
  else none

/-- Checks 5 and 6 of R471. -/
def State.stepBufCheck (s : State) (ctx : Nat) (e : BitVec 512) : Option Status :=
  let bs := stepBufs e
  if bs.any (fun b => (b.2.2.1 && !s.bufOk ctx (Step.buf e b.1) false) || (b.2.2.2 && !s.bufOk ctx (Step.buf e b.1) true)) then
    some .buffer
  else if bs.any (fun b => decide ((s.buf ctx (Step.buf e b.1)).bound < Step.ofs e b.1 + b.2.1)) then some .bounds
  else none

/-- The transfer as the slot begins it, at its first chunk. DEDUCED, log 73. -/
def State.xferOf (s : State) (k : Nat) (e : BitVec 512) : Xfer :=
  let p := s.slotP k
  let c := nextChunk (Step.ag e) (Step.elems e) p (s.slotPos k) (p + 1) 0 0
  let at_ := fun o => (s.buf (s.slotCtx k) (Step.buf e o)).base + Step.ofs e o
  { entry := e, src := at_ 16, dst := at_ 24, scl := at_ 32, sil := at_ 40, ready := false, round := c.1, chunk := c.2,
    field := (s.slot k).capOfs }

/-- CUR changes. -/
def State.setCur (s : State) (k x : Nat) : State := s.setFld (R.dieSlotSts (k / 8) (k % 8)) F.dieSlotSts_CUR x

/-- A step's all-gather has ended: its capture with it, and the slot is in WAIT_STEP, where a pending disarm takes effect
(R469, R489, R511, R513). -/
def State.endStep (s : State) (k : Nat) : State :=
  let x := s.slot k
  let snap := x.snap.map (fun n => if n.capturing then { n with capturing := false, captured := true, par := s.slotPar k } else n)
  let s := (s.setSlotSt k { x with xfer := none, snap := snap }).setSlotState k 1
  if x.disarm then s.disarmSlot k else s

/-- The slot reaches the next transfer of its phase that has elements (R471, R480, R489); past the last one, it is in
SEALING, or its step ends. -/
def State.reach (s : State) (k count : Nat) (gather : Bool) : Nat → Nat → Except SlotFail Unit × State
  | 0, x => (.ok (), if gather then (s.setCur k x).endStep k else (s.setCur k x).setSlotState k 3)
  | fuel + 1, x =>
    if count ≤ x then (.ok (), if gather then (s.setCur k x).endStep k else (s.setCur k x).setSlotState k 3)
    else slotBind (s.stepEntry k x) (fun e s =>
      if !gather && Step.ag e then (.ok (), (s.setCur k x).setSlotState k 3)
      else match s.stepCheck k e gather with
        | some st => (.error (.fatal st), s)
        | none =>
          if Step.elems e = 0 then State.reach s k count gather fuel (x + 1)
          else match s.stepBufCheck (s.slotCtx k) e with
            | some st => (.error (.fatal st), s)
            | none =>
              let s := s.setCur k x
              (.ok (), s.setSlotSt k { s.slot k with xfer := some (s.xferOf k e) }))

/-- A slot in REDUCE or GATHER without a transfer reaches its next one. -/
def State.reachNext (s : State) (k : Nat) : State :=
  if (s.slotState k == 2 || s.slotState k == 4) && (s.slot k).xfer.isNone then
    s.slotStep k (slotBind (s.stepCount k) (fun n s => s.reach k n (s.slotState k == 4) (n + 1) (s.slotCur k))) (fun _ s => s)
  else s

/-- A slot whose transfer has no chunk left, with nothing to send, goes on to the next. -/
def State.pump (s : State) (k : Nat) : State :=
  let x := s.slot k
  match x.xfer with
  | some f =>
    if x.out.isEmpty && decide (s.slotP k ≤ f.round) then
      let len := if Step.ag f.entry then ceilDiv' (Step.agBytes f.entry * shardLen (Step.elems f.entry) (s.slotP k)) 64 * 64 else 0
      ((s.setSlotSt k { x with xfer := none, capOfs := x.capOfs + len }).setCur k (s.slotCur k + 1)).reachNext k
    else s
  | none => s

/-- The transfer moves to the chunk after the present one. -/
def State.nextXferChunk (s : State) (k : Nat) (f : Xfer) : State :=
  let p := s.slotP k
  let c := nextChunk (Step.ag f.entry) (Step.elems f.entry) p (s.slotPos k) (p + 1) f.round (f.chunk + 1)
  s.setSlotSt k { s.slot k with xfer := some { f with round := c.1, chunk := c.2 } }

/-! ## Arming (R465, R469, R516) -/

/-- Whether a queue is an enabled KIND 1 queue of the hop unit bound to the slot's context. -/
def State.slotQueueOk (s : State) (k q : Nat) : Bool :=
  let u := s.hopUnit k
  s.qEn u q && s.qKind u q == 1 && s.qCtx u q == s.slotCtx k

/-- Whether a line is a valid credit line of the hop unit bound to the slot's context. -/
def State.slotLineOk (s : State) (k l : Nat) : Bool :=
  let u := s.hopUnit k
  s.crlValid u l && s.fld (R.unitCrl u l) F.unitCrl_CTX == s.slotCtx k

/-- Conditions 1 to 4 of R465. -/
def State.armRefused14 (s : State) (k : Nat) : Nat :=
  let u := s.hopUnit k
  let c := s.slotCtx k
  let chunk := s.slotCfg k F.dieSlotCfg_CHUNK_LQ
  let ctrl := s.slotCfg k F.dieSlotCfg_CTRL_LQ
  if (s.ctxSt c).state ≠ 1 then 1
  else if unitDie u ≠ k / 8 || !s.unitAvail u || !s.ctxHasRegion c (unitRegion u) || (s.slotsOfUnit u).any (· != k) then 2
  else if chunk = ctrl || !s.slotQueueOk k chunk || !s.slotQueueOk k ctrl then 3
  else if !s.slotLineOk k (s.slotCfg k F.dieSlotCfg_SEND_LINE) then 4
  else 0

/-- Why a slot may not take snapshots (R516). -/
def State.armRefusedSnap (s : State) (k : Nat) : Bool :=
  let r := R.dieSnapCfg (k / 8) (k % 8)
  let lq := s.fld r F.dieSnapCfg_SNAP_LQ
  let d1 := s.fld r F.dieSnapCfg_D1
  let d2 := s.fld r F.dieSnapCfg_D2
  s.bit r F.dieSnapCfg_EN &&
    (lq == s.slotCfg k F.dieSlotCfg_CHUNK_LQ || lq == s.slotCfg k F.dieSlotCfg_CTRL_LQ || !s.slotQueueOk k lq
      || decide (s.slotP k ≤ d1) || decide (s.slotP k ≤ d2) || (d1 == d2 && d1 != 0)
      || (d1 != 0 && !s.slotLineOk k (s.fld r F.dieSnapCfg_LINE1)) || (d2 != 0 && !s.slotLineOk k (s.fld r F.dieSnapCfg_LINE2)))

/-- The first condition that refuses arming (R465, R516); 0 for none. -/
def State.armRefused (s : State) (k : Nat) : Nat :=
  let e := s.armRefused14 k
  if e ≠ 0 then e
  else if s.slotP k < 2 ∨ s.slotP k ≤ s.slotPos k then 5
  else
    let z := s.slotCfg k F.dieSlotCfg_SEAL_SLOT
    if s.slotCfg k F.dieSlotCfg_SEAL_SELF = 0 && (z == k || !(s.slotArmed z && s.slotCfg z F.dieSlotCfg_SEAL_SELF == 1
        && s.slotCtx z == s.slotCtx k)) then 6
    else if s.armRefusedSnap k then 7
    else 0

/-- ERR takes a code. -/
def State.setSlotErr (s : State) (k n : Nat) : State := s.setFld (R.dieSlotSts (k / 8) (k % 8)) F.dieSlotSts_ERR n

/-- Arming (R465): the slot enters WAIT_STEP, or is refused with a code. -/
def State.armSlot (s : State) (k : Nat) : State :=
  let e := s.armRefused k
  if e ≠ 0 then (s.setSlotErr k e).raise .die (k / 8) 1
  else
    let s := s.setSlotSt k { SlotSt.idle with op := (s.slot k).op }
    let s := s.setFld (R.dieSlotCfg (k / 8) (k % 8)) F.dieSlotCfg_ARM 1
    let s := (s.setSlotErr k 0).setFld (R.dieSlotSts (k / 8) (k % 8)) F.dieSlotSts_BROKEN 0
    s.setSlotState k 1

/-- A write of SLOTn_CFG (R465, R469, R498, R635): other fields change only while ARM is 0. -/
def State.slotCfgWrite (s : State) (k : Nat) (v : Word) : State :=
  let r := R.dieSlotCfg (k / 8) (k % 8)
  if s.slotArmed k then
    if F.dieSlotCfg_ARM.get v = 1 then s
    else if s.slotState k = 1 then s.disarmSlot k
    else s.setSlotSt k { s.slot k with disarm := true }
  else
    let s := s.setReg r (BitVec.ofNat 64 (v.toNat % 2 ^ 47))
    if F.dieSlotCfg_ARM.get v = 1 then s.armSlot k else s

/-- SLOT_ARM (R465): the written word with ARM at 1. -/
def execSlotArm (_a : Agent) (die : Fin 4) (slot : Fin 8) (cfg : Word) (s : State) : Host.Outcome State Fault Refusal :=
  if s.pageDead .die die then .next s else .next (s.slotCfgWrite (8 * die.val + slot.val) (F.dieSlotCfg_ARM.put cfg 1))

/-- SLOT_DISARM (R469). -/
def execSlotDisarm (_a : Agent) (die : Fin 4) (slot : Fin 8) (s : State) : Host.Outcome State Fault Refusal :=
  if s.pageDead .die die then .next s
  else .next (s.slotCfgWrite (8 * die.val + slot.val) (F.dieSlotCfg_ARM.put (s.reg (R.dieSlotCfg die slot)) 0))

/-- READY_POLL (R481): the ready word of the transfer in progress. DEDUCED, log 73. -/
def execReadyPoll (die : Fin 4) (slot : Fin 8) (s : State) : Host.Outcome State Fault Refusal :=
  let k := 8 * die.val + slot.val
  if !s.slotActs k then .next s
  else match (s.slot k).xfer with
  | none => .next (s.reachNext k)
  | some f =>
    if f.ready then .next s
    else .next (s.slotStep k (s.slotRead k (Step.readyVa f.entry) 8) (fun bs s =>
      if bytesToNat bs = s.ringKey k then s.setSlotSt k { s.slot k with xfer := some { f with ready := true } } else s))

/-! ## Chunks (R472 to R487) -/

/-- The elements of a chunk: the first and how many, of the round's shard. -/
def State.chunkSpan (s : State) (k : Nat) (f : Xfer) : Nat × Nat :=
  let p := s.slotP k
  let j := roundShard (Step.ag f.entry) p (s.slotPos k) f.round
  (chunkFirst (Step.elems f.entry) p j f.chunk, chunkCount (Step.elems f.entry) p j f.chunk)

/-- The header of the chunk of a transfer's present round (R474, R484). -/
def State.chunkHdrOf (s : State) (k : Nat) (f : Xfer) (contrib : Nat) : ChunkHdr :=
  { ckind := bitNat (Step.ag f.entry), enc := Step.enc f.entry, nelem := (s.chunkSpan k f).2, xfer := s.slotCur k,
    shard := roundShard (Step.ag f.entry) (s.slotP k) (s.slotPos k) f.round, chunk := f.chunk, key := s.ringKey k,
    contrib := contrib }

/-- The blocks of a list, 24 at a time. -/
def blocks24 {α : Type} (xs : List α) : List (List α) :=
  (List.range (ceilDiv' xs.length 24)).map (fun b => (xs.drop (24 * b)).take 24)

/-- The local gradients of a chunk. -/
def State.localGrads (s : State) (k : Nat) (f : Xfer) : Except SlotFail (List Val) × State :=
  let sp := s.chunkSpan k f
  let w := Step.gradBytes f.entry
  slotBind (s.slotRead k (f.src + w * sp.1) (w * sp.2)) (fun bs s =>
    (.ok ((List.range sp.2).map (fun i =>
      (if Step.localBf16 f.entry then Fmt.bf16 else Fmt.f32).decode (bytesToNat ((bs.drop (w * i)).take w)))), s))

/-- Free scale codes: a transfer without a table has no agreed scale in the spec (R470, R476). DESIGN CHOICE, log 71. -/
def State.freeScales (s : State) : Nat → List Nat × State
  | 0 => ([], s)
  | n + 1 =>
    let t := s.takeFresh
    let r := State.freeScales t.2 n
    ((Config.freeByte t.1).toNat :: r.1, r.2)

/-- The agreed scales of a chunk's blocks. DESIGN CHOICE, log 71. -/
def State.agreedScales (s : State) (k : Nat) (f : Xfer) : Except SlotFail (List Nat) × State :=
  let sp := s.chunkSpan k f
  let n := ceilDiv' sp.2 24
  if Step.sclEn f.entry then
    slotBind (s.slotRead k (f.scl + sp.1 / 24) n) (fun bs s => (.ok (bs.map (fun b => b.toNat)), s))
  else
    let r := s.freeScales n
    (.ok r.1, r.2)

/-- The residuals of a chunk: half PAR of the sillage (R487). -/
def State.residuals (s : State) (k : Nat) (f : Xfer) : Except SlotFail (List Val) × State :=
  let sp := s.chunkSpan k f
  slotBind (s.slotRead k (f.sil + 4 * (s.slotPar k * Step.elems f.entry + sp.1)) (4 * sp.2)) (fun bs s =>
    (.ok ((List.range sp.2).map (fun i => Fmt.f32.decode (bytesToNat ((bs.drop (4 * i)).take 4)))), s))

/-- FP32 patterns as bytes. -/
def f32Bytes (xs : List Nat) : List Byte := xs.flatMap (fun x => natToBytes 4 x)

/-- The entries of a chunk to be sent: the header, then the payload. -/
def chunkOut (line : Nat) (hdr : BitVec 384) (payload : List (BitVec 384)) : List SlotOut :=
  ⟨line, true, true, true, hdr⟩ :: payload.map (fun b => ⟨line, true, true, false, b⟩)

/-- SEND_LINE. -/
def State.sendLine (s : State) (k : Nat) : Nat := s.slotCfg k F.dieSlotCfg_SEND_LINE

/-- The slot has a chunk to send, and goes on to the next. -/
def State.putChunk (s : State) (k : Nat) (f : Xfer) (es : List SlotOut) : State :=
  let s := s.setSlotSt k { s.slot k with out := es }
  (s.nextXferChunk k f).pump k

/-- Escalations at this slot are counted (R498). -/
def State.countEsc (s : State) (k n : Nat) : State := s.satFld (R.dieSlotCnt (k / 8) (k % 8)) F.dieSlotCnt_ESC n

/-- A TQ16 chunk goes on, from what came in: per block, its scale, ESC and elements (R476). -/
def State.tqSend (s : State) (k : Nat) (f : Xfer) (contrib : Nat) (ins : List TqBlock) (gs : List Val) : State :=
  let outs := (ins.zip (blocks24 gs)).map (fun e => tqHop e.1.scale e.1.esc e.1.qs e.2)
  let esc := ((ins.zip outs).filter (fun e => e.1.scale < e.2.scale && e.2.scale != 0xFF)).length
  let rest := (outs.zipIdx.map (fun e => e.1.scale * 2 ^ (8 * e.2) + e.1.esc * 2 ^ (128 + 4 * e.2))).sum
  let hdr := (s.chunkHdrOf k f contrib).body rest
  (s.countEsc k esc).putChunk k f (chunkOut (s.sendLine k) hdr (outs.map (fun b => tqBody b.qs)))

/-- A SIGN1 chunk goes on: magnitudes and signs, and the new residuals in the other half of the sillage (R486, R487). -/
def State.sgSend (s : State) (k : Nat) (f : Xfer) (contrib : Nat) (mags : List (Option Nat)) (signs : List Bool)
    (gs rs : List Val) : Except SlotFail (List SlotOut) × State :=
  let outs := ((mags.zip (blocks24 signs)).zip ((blocks24 gs).zip (blocks24 rs))).map
    (fun e => sgHop e.1.1 e.1.2 e.2.1 e.2.2)
  let rest := (outs.zipIdx.map (fun e => e.1.mag * 2 ^ (16 * e.2))).sum
  let hdr := (s.chunkHdrOf k f contrib).body rest
  let bits := ((outs.flatMap (fun b => b.signs)).zipIdx.map (fun e => bitNat e.1 * 2 ^ e.2)).sum
  let sp := s.chunkSpan k f
  let at_ := f.sil + 4 * ((1 - s.slotPar k) * Step.elems f.entry + sp.1)
  slotBind (s.slotWrite k at_ (f32Bytes (outs.flatMap (fun b => b.res)))) (fun _ s =>
    (.ok (chunkOut (s.sendLine k) hdr [BitVec.ofNat 384 bits]), s))

/-- The address of an image of a half: image (h, i) (R505). -/
def SnapSt.image (n : SnapSt) (half i : Nat) : Nat := n.base + (3 * half + i) * n.stride

/-- The half of the open snapshot: N mod 2. -/
def State.snapHalf (s : State) (k : Nat) : Nat := s.fld (R.dieSnapSts (k / 8) (k % 8)) F.dieSnapSts_LAST_N % 2

/-- The image that captures a shard, where the open snapshot captures it (R505, R510). -/
def State.captureImage (s : State) (k shard : Nat) : Option (SnapSt × Nat) :=
  match (s.slot k).snap with
  | some n =>
    if !n.capturing then none
    else
      let p := s.slotP k
      let c := R.dieSnapCfg (k / 8) (k % 8)
      let d := fun (i : Nat) => s.fld c (if i = 1 then F.dieSnapCfg_D1 else F.dieSnapCfg_D2)
      let own := fun (i : Nat) => if i = 0 then s.slotPos k else (s.slotPos k + p - d i) % p
      ((s.imagesUsed k).find? (fun i => own i == shard)).map (fun i => (n, i))
  | none => none

/-- The bytes of an all-gather chunk are captured where the open snapshot asks for them (R507, R510). -/
def State.capture (s : State) (k : Nat) (f : Xfer) (bs : List Byte) : Except SlotFail Unit × State :=
  let p := s.slotP k
  let j := roundShard true p (s.slotPos k) f.round
  match s.captureImage k j with
  | none => (.ok (), s)
  | some (n, i) => s.slotWrite k (n.image (s.snapHalf k) i + f.field + Step.agBytes f.entry * 384 * f.chunk) bs

/-- The chunk of round 0 (R476, R480, R485, R486). -/
def State.formLocal (s : State) (k : Nat) (f : Xfer) : State :=
  let sp := s.chunkSpan k f
  if Step.ag f.entry then
    let w := Step.agBytes f.entry
    let r := slotBind (s.slotRead k (f.src + w * sp.1) (w * sp.2)) (fun bs s =>
      slotBind (if Step.sclEn f.entry then s.agreedScales k f else (.ok [], s)) (fun sc s =>
        slotBind (s.capture k f bs) (fun _ s => (.ok (bs, sc), s))))
    s.slotStep k r (fun d s =>
      let hdr := (s.chunkHdrOf k f 1).body ((d.2.zipIdx.map (fun e => e.1 * 2 ^ (8 * e.2))).sum)
      s.putChunk k f (chunkOut (s.sendLine k) hdr (payloadBodies d.1 (ceilDiv' (w * sp.2) 48))))
  else if Step.enc f.entry = 1 then
    let r := slotBind (s.localGrads k f) (fun gs s => slotBind (s.residuals k f) (fun rs s =>
      s.sgSend k f 1 (List.replicate (ceilDiv' sp.2 24) none) (List.replicate sp.2 false) gs rs))
    s.slotStep k r (fun es s => s.putChunk k f es)
  else
    let r := slotBind (s.localGrads k f) (fun gs s => slotBind (s.agreedScales k f) (fun sc s => (.ok (gs, sc), s)))
    s.slotStep k r (fun d s => s.tqSend k f 1 (d.2.map (fun c => ⟨c, 0, List.replicate 24 0⟩)) d.1)

/-- The blocks of a received TQ16 chunk. -/
def tqBlocks (hdr : BitVec 512) (es : List (BitVec 512)) : List TqBlock :=
  es.zipIdx.map (fun e => ⟨hdrScale hdr e.2, hdrEsc hdr e.2, (List.range 24).map (fun i => tqElem e.1 i)⟩)

/-- The owner's end of a TQ16 chunk: the FP32 sums and, with SCL_EN, the next agreed scales (R478). -/
def State.tqOwn (s : State) (k : Nat) (f : Xfer) (ins : List TqBlock) (gs : List Val) : Except SlotFail Unit × State :=
  let sp := s.chunkSpan k f
  let outs := (ins.zip (blocks24 gs)).map (fun e => tqOwner e.1.scale (Step.headroom f.entry) e.1.qs e.2)
  slotBind (s.slotWrite k (f.dst + 4 * sp.1) (f32Bytes (outs.flatMap (fun b => b.1)))) (fun _ s =>
    if Step.sclEn f.entry then s.slotWrite k (f.scl + sp.1 / 24) (outs.map (fun b => BitVec.ofNat 8 b.2)) else (.ok (), s))

/-- The owner's end of a SIGN1 chunk (R486): its own shard has no residual (R487). -/
def State.sgOwn (s : State) (k : Nat) (f : Xfer) (mags : List (Option Nat)) (signs : List Bool) (gs : List Val) :
    Except SlotFail Unit × State :=
  let sp := s.chunkSpan k f
  let outs := ((mags.zip (blocks24 signs)).zip (blocks24 gs)).map
    (fun e => sgHop e.1.1 e.1.2 e.2 (List.replicate e.2.length Val.zero))
  s.slotWrite k (f.dst + 4 * sp.1) (f32Bytes (outs.flatMap SgBlock.owned))

/-- A whole chunk has come in: a hop, the owner's end, or an all-gather chunk stored and passed on (R476 to R487). The
answer is what follows once its accesses are performed. DEDUCED, log 73. -/
def State.chunkIn (s : State) (k : Nat) (f : Xfer) (hdr : BitVec 512) (es : List (BitVec 512)) :
    Except SlotFail (State → State) × State :=
  let last := decide (s.slotP k ≤ f.round + 1)
  let sp := s.chunkSpan k f
  let done := fun (s : State) => (s.nextXferChunk k f).pump k
  if Step.ag f.entry then
    let w := Step.agBytes f.entry
    let bs := (payloadBytes es).take (w * sp.2)
    let sc := (List.range (ceilDiv' sp.2 24)).map (fun b => BitVec.ofNat 8 (hdrScale hdr b))
    slotBind (s.slotWrite k (f.dst + w * sp.1) bs) (fun _ s =>
      slotBind (if Step.sclEn f.entry then s.slotWrite k (f.scl + sp.1 / 24) sc else (.ok (), s)) (fun _ s =>
        slotBind (s.capture k f bs) (fun _ s => (.ok (fun s =>
          if last then done s
          else s.putChunk k f (chunkOut (s.sendLine k) ((s.chunkHdrOf k f (f.round + 1)).body (entryBody hdr / 2 ^ 128))
            (es.map (fun e => BitVec.ofNat 384 (entryBody e))))), s))))
  else if Step.enc f.entry = 1 then
    let mags := (List.range (ceilDiv' sp.2 24)).map (fun b => some (hdrMag hdr b))
    let signs := (List.range sp.2).map (fun i => sgSign (es.headD 0) i)
    slotBind (s.localGrads k f) (fun gs s =>
      if last then slotBind (s.sgOwn k f mags signs gs) (fun _ s => (.ok done, s))
      else slotBind (s.residuals k f) (fun rs s => slotBind (s.sgSend k f (f.round + 1) mags signs gs rs) (fun es s =>
        (.ok (fun s => s.putChunk k f es), s))))
  else
    let ins := tqBlocks hdr es
    slotBind (s.localGrads k f) (fun gs s =>
      if last then slotBind (s.tqOwn k f ins gs) (fun _ s => (.ok done, s))
      else (.ok (fun s => s.tqSend k f (f.round + 1) ins gs), s))

/-! ## Receiving (R483, R484) -/

/-- Whether an entry is one the slot's ring may send: a MSG entry from UP_PKG (R483). -/
def State.fromUp (s : State) (k : Nat) (e : BitVec 512) : Bool :=
  Ent.opcode e == 2 && Ent.srcPkg e == s.slotRing k F.dieSlotRing_UP_PKG

/-- The payload entries that follow a header (R475). A RAW chunk's element size is that of its transfer in the step table. -/
def State.payloadCount (s : State) (k : Nat) (h : ChunkHdr) : Except SlotFail Nat × State :=
  if 2 ≤ h.ckind then (.ok 0, s)
  else match h.enc with
  | 0 => (.ok (ceilDiv' h.nelem 24), s)
  | 1 => (.ok 1, s)
  | 2 => slotBind (s.stepEntry k h.xfer) (fun e s => (.ok (ceilDiv' (h.nelem * Step.agBytes e) 48), s))
  | _ => (.ok 0, s)

/-- CHUNK_LQ. -/
def State.chunkLq (s : State) (k : Nat) : Nat := s.slotCfg k F.dieSlotCfg_CHUNK_LQ

/-- A header entry at the head of the chunk queue (R483, R484). DEDUCED, log 73. -/
def State.headerIn (s : State) (k : Nat) (e : BitVec 512) : Except SlotFail (State → State) × State :=
  let q := s.chunkLq k
  let h := chunkHdr e
  let c := s.ringKey k
  let x := s.slot k
  let stay := fun (s : State) => s
  if h.key < c ∨ (h.key = c ∧ s.slotState k = 1) then
    slotBind (s.payloadCount k h) (fun n s => (.ok (fun s =>
      let s := s.slotDiscard k q
      if n = 0 then s else s.setSlotSt k { s.slot k with rx := some ⟨e, n, [], true⟩ }), s))
  else if c < h.key ∨ s.slotState k = 3 then (.ok stay, s)
  else if 2 ≤ h.ckind ∧ s.slotCfg k F.dieSlotCfg_SEAL_SELF = 1 then (.ok stay, s)
  else match x.xfer with
  | none => (.ok stay, s)
  | some f =>
    if !f.ready || f.round == 0 || !x.out.isEmpty then (.ok stay, s)
    else if h = s.chunkHdrOf k f f.round then
      slotBind (s.payloadCount k h) (fun n s => (.ok (fun s =>
        let s := s.slotFree k q
        s.setSlotSt k { s.slot k with rx := some ⟨e, n, [], false⟩ }), s))
    else (.error (.fatal .fieldValue), s)

/-- A payload entry at the head of the chunk queue. DEDUCED, log 73. -/
def State.payloadIn (s : State) (k : Nat) (r : RxChunk) (e : BitVec 512) : Except SlotFail (State → State) × State :=
  let q := s.chunkLq k
  let rest := fun (s : State) (got : List (BitVec 512)) =>
    s.setSlotSt k { s.slot k with rx := if r.left ≤ 1 then none else some { r with left := r.left - 1, got := got } }
  if r.stale then (.ok (fun s => rest (s.slotDiscard k q) []), s)
  else if 1 < r.left then (.ok (fun s => rest (s.slotFree k q) (r.got ++ [e])), s)
  else match (s.slot k).xfer with
    | some f => slotBind (s.chunkIn k f r.hdr (r.got ++ [e])) (fun done s => (.ok (fun s => done (rest (s.slotFree k q) [])), s))
    | none => (.ok (fun s => s), s)

/-- CHUNK_RECEIVE (R483): the entry at the head of the chunk queue is discarded, waits, or is taken. -/
def execChunkReceive (die : Fin 4) (slot : Fin 8) (s : State) : Host.Outcome State Fault Refusal :=
  let k := 8 * die.val + slot.val
  let q := s.chunkLq k
  if !s.slotActs k || s.qCount (s.hopUnit k) q == 0 || (s.slot k).verdict != 0 then .next s
  else .next (s.slotStep k (slotBind (s.slotEntry k q 0) (fun e s =>
    if !s.fromUp k e then (.ok (fun (s : State) => s.slotDiscard k q), s)
    else match (s.slot k).rx with
      | some r => s.payloadIn k r e
      | none => s.headerIn k e)) (fun (done : State → State) s => done s))

/-! ## Sending (R468, R482) -/

/-- The first of a slot's entries to be sent enters the hop unit's send buffer (R468). DESIGN CHOICE, log 72. -/
def State.sendOut (s : State) (k : Nat) : State :=
  let x := s.slot k
  match x.out with
  | [] => s
  | o :: os =>
    let open_ := if s.slotState k = 4 then x.agOpen else x.rsOpen
    if (o.gated && !open_) || !s.sendRoom (s.hopUnit k) then s
    else if o.isMsg then
      let s := s.setSlotSt k { x with out := os, sent := x.sent + 1 }
      (s.pushSend (s.hopUnit k) o.line (s.chunkLq k) (x.sent % 2 ^ 20) (s.slotCtx k) true (mkEntry 0 0 o.body.toNat)).pump k
    else
      let t := s.takeFresh
      let s := t.2.setSlotSt k { x with out := os }
      (s.pushSend (s.hopUnit k) o.line (s.slotCfg k F.dieSlotCfg_CTRL_LQ) ((Config.freeWord t.1).toNat % 2 ^ 20) (s.slotCtx k) false
        (mkEntry 0 0 o.body.toNat)).pump k

/-- CHUNK_SEND (R468, R480 to R482): the next entry leaves; a chunk of round 0 is formed first. A BROKEN slot sends
nothing. -/
def execChunkSend (die : Fin 4) (slot : Fin 8) (s : State) : Host.Outcome State Fault Refusal :=
  let k := 8 * die.val + slot.val
  let x := s.slot k
  if !s.slotActs k || s.bit (R.dieSlotSts die slot) F.dieSlotSts_BROKEN then .next s
  else if !x.out.isEmpty then .next (s.sendOut k)
  else match x.xfer with
  | some f =>
    let open_ := if Step.ag f.entry then x.agOpen else x.rsOpen
    if f.ready && f.round == 0 && open_ && x.verdict == 0 then .next ((s.formLocal k f).sendOut k) else .next s
  | none => .next s

/-! ## Anchor tokens (R488) -/

/-- An anchor entry: its action and parameters (R89). -/
structure AnchorIn where
  action : Nat
  param0 : Word
  param1 : Word
  deriving DecidableEq, Repr

/-- The anchor entry that an entry is; none for any other. -/
def anchorIn (e : BitVec 512) : Option AnchorIn :=
  if Ent.opcode e = 3 then some ⟨entBits e 32 3 0, BitVec.ofNat 64 (entBits e 40 63 0), BitVec.ofNat 64 (entBits e 48 63 0)⟩
  else none

/-- CTRL_LQ. -/
def State.ctrlLq (s : State) (k : Nat) : Nat := s.slotCfg k F.dieSlotCfg_CTRL_LQ

/-- The entry at the head of CTRL_LQ: an anchor of the action acts, and is freed unless it waits; an entry with no action
for a slot is freed without effect. -/
def State.ctrlTake (s : State) (k action : Nat) (f : AnchorIn → State → Option State) : State :=
  let q := s.ctrlLq k
  if !s.slotActs k || s.qCount (s.hopUnit k) q == 0 || (s.slot k).verdict != 0 then s
  else s.slotStep k (s.slotEntry k q 0) (fun e s =>
    match anchorIn e with
    | none => s.slotFree k q
    | some a =>
      if a.action = action then
        match f a s with
        | some s => if s.slotArmed k then s.slotFree k q else s
        | none => s
      else if a.action = 0 ∨ 5 < a.action then s.slotFree k q
      else s)

/-- The KEY in an anchor's parameters. -/
def AnchorIn.key (a : AnchorIn) : Nat := a.param1.toNat % 2 ^ 48

/-- A step attempt begins (R488): C takes the KEY, and the slot is in REDUCE at transfer 0. -/
def State.startStep (s : State) (k key : Nat) : State :=
  let s := s.setFld (R.dieSlotKey (k / 8) (k % 8)) F.dieSlotKey_KEY key
  let s := s.setFld (R.dieSlotCnt (k / 8) (k % 8)) F.dieSlotCnt_ESC 0
  let s := s.setSlotSt k { s.slot k with rsOpen := false, agOpen := false, xfer := none, sealSent := false, sealBack := false,
                                         capOfs := 0 }
  (s.setCur k 0).setSlotState k 2

/-- STEP_START (R488): it waits while the slot is not in WAIT_STEP. -/
def execStepStart (die : Fin 4) (slot : Fin 8) (s : State) : Host.Outcome State Fault Refusal :=
  let k := 8 * die.val + slot.val
  .next ((s.ctrlTake k 1 (fun a s => if s.slotState k = 1 then some (s.startStep k a.key) else none)).reachNext k)

/-- WINDOW_OPEN (R482, R488). -/
def execWindowOpen (die : Fin 4) (slot : Fin 8) (s : State) : Host.Outcome State Fault Refusal :=
  let k := 8 * die.val + slot.val
  .next (s.ctrlTake k 2 (fun a s =>
    if s.slotState k = 1 ∨ a.key ≠ s.ringKey k then some s
    else if natBit a.param0.toNat 0 then some (s.setSlotSt k { s.slot k with agOpen := true })
    else some (s.setSlotSt k { s.slot k with rsOpen := true })))

/-! ## The seal (R489 to R494) -/

/-- The armed followers of a seal slot (R489). -/
def State.followers (s : State) (k : Nat) : List Nat :=
  (List.range 32).filter (fun f => s.slotArmed f && s.slotCfg f F.dieSlotCfg_SEAL_SELF == 0 && s.slotCfg f F.dieSlotCfg_SEAL_SLOT == k)

/-- Whether a slot is a seal slot. -/
def State.isSealSlot (s : State) (k : Nat) : Bool := s.slotCfg k F.dieSlotCfg_SEAL_SELF == 1

/-- Whether a slot is the leader (R490). -/
def State.isLeader (s : State) (k : Nat) : Bool := s.isSealSlot k && s.slotPos k == 0

/-- Whether a seal slot and its followers have finished REDUCE (R489, R490). -/
def State.reduceDone (s : State) (k : Nat) : Bool :=
  s.slotState k == 3 && (s.followers k).all (fun f => s.slotState f == 3 && s.ringKey f == s.ringKey k)

/-- Whether the entry at the head of the chunk queue is a SEAL_REQ of the current KEY. DEDUCED, log 73. -/
def State.sealReqHere (s : State) (k : Nat) : Except SlotFail Bool × State :=
  let q := s.chunkLq k
  if s.qCount (s.hopUnit k) q = 0 ∨ (s.slot k).rx.isSome then (.ok false, s)
  else slotBind (s.slotEntry k q 0) (fun e s =>
    (.ok (s.fromUp k e && (chunkHdr e).ckind == 2 && (chunkHdr e).key == s.ringKey k), s))

/-- A control chunk of the current KEY is to be sent. -/
def State.sendControl (s : State) (k ckind enc contrib : Nat) : State :=
  let h : ChunkHdr := { ckind := ckind, enc := enc, nelem := 0, xfer := 0, shard := 0, chunk := 0, key := s.ringKey k, contrib := contrib }
  let x := s.slot k
  s.setSlotSt k { x with out := x.out ++ [⟨s.sendLine k, true, false, true, h.body 0⟩] }

/-- SEAL_REQ (R490): the leader sends it, the others forward it, and it returns to the leader. -/
def execSealReq (die : Fin 4) (slot : Fin 8) (s : State) : Host.Outcome State Fault Refusal :=
  let k := 8 * die.val + slot.val
  if !s.slotActs k || !s.isSealSlot k || !s.reduceDone k || (s.slot k).verdict != 0 then .next s
  else if s.isLeader k && !(s.slot k).sealSent then
    .next ((s.setSlotSt k { s.slot k with sealSent := true }).sendControl k 2 0 1)
  else if (s.slot k).sealBack then .next s
  else .next (s.slotStep k (s.sealReqHere k) (fun here s =>
    if !here then s
    else
      let contrib := s.slotPos k + 1
      let s := s.slotFree k (s.chunkLq k)
      if s.isLeader k then s.setSlotSt k { s.slot k with sealBack := true } else s.sendControl k 2 0 contrib))

/-- WINDOW_CLOSE (R488, R490): LATE counts, or the leader decides REPEAT unless the SEAL_REQ has returned.
DEDUCED, log 73. -/
def execWindowClose (die : Fin 4) (slot : Fin 8) (s : State) : Host.Outcome State Fault Refusal :=
  let k := 8 * die.val + slot.val
  let late := fun (s : State) => (s.satFld (R.dieSlotCnt die slot) F.dieSlotCnt_LATE 1).raise .die die 2
  let here : Bool := match s.sealReqHere k with
    | (.ok b, _) => b && (s.slot k).sealSent
    | (.error _, _) => false
  .next (s.ctrlTake k 3 (fun a s =>
    let st := s.slotState k
    if st = 1 ∨ a.key ≠ s.ringKey k then some s
    else if natBit a.param0.toNat 0 then some (if st = 4 then late s else s)
    else if s.isLeader k then
      some (if st = 4 ∨ (s.slot k).sealBack ∨ here then s else s.setSlotSt k { s.slot k with verdict := 2 })
    else some (if st = 2 then late s else s)))

/-- The seal record's bytes (R493). -/
def State.sealRecord (s : State) (k verdict key : Nat) : List Byte :=
  natToBytes 8 (key + verdict * 2 ^ 48) ++ natToBytes 8 (s.nowAt (k / 8)).toNat
    ++ natToBytes 8 (s.fld (R.dieSlotCnt (k / 8) (k % 8)) F.dieSlotCnt_ESC) ++ natToBytes 8 0

/-- The seal records of a slot and its followers are written (R491 to R493). -/
def State.sealRecords (s : State) (verdict key : Nat) : List Nat → Except SlotFail Unit × State
  | [] => (.ok (), s)
  | f :: fs =>
    slotBind (s.slotWrite f (s.fld (R.dieSlotSeal (f / 8) (f % 8)) F.dieSlotSeal_ADDR * 32) (s.sealRecord f verdict key))
      (fun _ s => State.sealRecords s verdict key fs)

/-- The seal tokens of a slot (R491, R494). DESIGN CHOICE, log 72. -/
def State.sealTokens (s : State) (k key : Nat) : List SlotOut :=
  let body := BitVec.ofNat 384 (key + k * 2 ^ 48 + (s.nowAt (k / 8)).toNat * 2 ^ 64)
  ((List.range 32).filter (fun l => s.regBit (R.dieSlotSealmask (k / 8) (k % 8)) l)).map (fun l => ⟨l, false, false, true, body⟩)

/-- STS.VERDICT takes a value. -/
def State.setVerdict (s : State) (k v : Nat) : State := s.setFld (R.dieSlotSts (k / 8) (k % 8)) F.dieSlotSts_VERDICT v

/-- One slot acts on VERDICT SEAL, its record written (R491, R510, R511, R514). -/
def State.sealOne (s : State) (key : Nat) (k : Nat) : State :=
  let x := s.slot k
  let s := s.setSlotSt k { x with out := x.out ++ s.sealTokens k key, verdict := 0, capOfs := 0,
                                  snap := x.snap.map (fun n => if n.step = key / 2 ^ 16 then { n with capturing := true } else n) }
  let s := match x.snap with
    | some n => if (n.step + 1) % 2 ^ 32 = key / 2 ^ 16 then s.abandonSnap k else s
    | none => s
  let s := s.setFld (R.dieSlotSts (k / 8) (k % 8)) F.dieSlotSts_PAR (1 - s.slotPar k)
  (s.setVerdict k 1).setSlotState k 4

/-- A seal slot and its followers act on VERDICT SEAL, their records written, and it goes on downstream (R491).
DEDUCED, log 74. -/
def State.actSeal (s : State) (k : Nat) : State :=
  let key := s.ringKey k
  let all := k :: s.followers k
  let s := all.foldl (fun s f => s.sealOne key f) s
  let s := if s.slotPos k + 1 = s.slotP k then s else s.sendControl k 3 1 (s.slotPos k + 1)
  all.foldl (fun s f => s.reachNext f) s

/-- The entries of a chunk that has begun to leave: they still leave together (R468). -/
def begunRest : List SlotOut → List SlotOut
  | [] => []
  | o :: os => if o.first || !o.isMsg then [] else { o with gated := false } :: begunRest os

/-- One slot acts on VERDICT REPEAT, its record written (R492). -/
def State.repeatOne (s : State) (k : Nat) : State :=
  let x := s.slot k
  let s := s.setSlotSt k { x with out := begunRest x.out, xfer := none, rx := x.rx.map (fun r => { r with stale := true, got := [] }),
                                  verdict := 0, sealSent := false, sealBack := false }
  let s := ((s.setVerdict k 2).setSlotState k 1).raise .die (k / 8) 0
  if x.disarm then s.disarmSlot k else s

/-- A seal slot and its followers act on VERDICT REPEAT, their records written, and it goes on downstream (R492).
DEDUCED, log 73. -/
def State.actRepeat (s : State) (k : Nat) : State :=
  let last := s.slotPos k + 1 == s.slotP k
  let s := (s.followers k).foldl (fun s f => s.repeatOne f) s
  let s := s.repeatOne k
  if last || !s.slotArmed k then s else s.sendControl k 3 2 (s.slotPos k + 1)

/-- The verdict's effect: 1 SEAL, 2 REPEAT. -/
def State.actVerdict (s : State) (k v : Nat) : State := if v = 1 then s.actSeal k else s.actRepeat k

/-- The seal records of a seal slot and its followers (R491 to R493). -/
def State.verdictRecords (s : State) (k v : Nat) : Except SlotFail Unit × State :=
  s.sealRecords v (s.ringKey k) (k :: s.followers k)

/-- The index in the chunk queue of a VERDICT of the current KEY: headers are told from payload by their counts.
DEDUCED, log 73. -/
def State.findVerdict (s : State) (k want : Nat) : Nat → Nat → Nat → Except SlotFail (Option Nat) × State
  | 0, _, _ => (.ok none, s)
  | fuel + 1, i, skip =>
    slotBind (s.slotEntry k (s.chunkLq k) i) (fun e s =>
      if !s.fromUp k e then State.findVerdict s k want fuel (i + 1) skip
      else if 0 < skip then State.findVerdict s k want fuel (i + 1) (skip - 1)
      else
        let h := chunkHdr e
        if h.ckind = 3 ∧ h.enc = want ∧ h.key = s.ringKey k then (.ok (some i), s)
        else
          slotBind (s.payloadCount k h) (fun n s => State.findVerdict s k want fuel (i + 1) n))

/-- A VERDICT delivered to a seal slot's chunk queue acts: every entry ahead of it is discarded as stale (R492). -/
def State.verdictIn (s : State) (k want : Nat) : State :=
  let q := s.chunkLq k
  let skip := match (s.slot k).rx with
    | some r => r.left
    | none => 0
  let r := slotBind (s.findVerdict k want (s.qCount (s.hopUnit k) q) 0 skip) (fun r s =>
    match r with
    | none => (.ok none, s)
    | some i => slotBind (s.verdictRecords k want) (fun _ s => (.ok (some i), s)))
  s.slotStep k r (fun r s =>
    match r with
    | none => s
    | some i =>
      let s := (s.slotDiscards k q i).slotFree k q
      (s.setSlotSt k { s.slot k with rx := none }).actVerdict k want)

/-- The leader's own verdict acts (R490). -/
def State.verdictOut (s : State) (k v : Nat) : State := s.slotStep k (s.verdictRecords k v) (fun _ s => s.actVerdict k v)

/-- VERDICT_SEAL (R490, R491): at the leader once the SEAL_REQ has returned, elsewhere when it is delivered. -/
def execVerdictSeal (die : Fin 4) (slot : Fin 8) (s : State) : Host.Outcome State Fault Refusal :=
  let k := 8 * die.val + slot.val
  if !s.slotActs k || !s.isSealSlot k || s.slotState k != 3 then .next s
  else if s.isLeader k then (if (s.slot k).sealBack && (s.slot k).verdict == 0 then .next (s.verdictOut k 1) else .next s)
  else .next (s.verdictIn k 1)

/-- VERDICT_REPEAT (R490, R492): at the leader once its window has closed, elsewhere when it is delivered. -/
def execVerdictRepeat (die : Fin 4) (slot : Fin 8) (s : State) : Host.Outcome State Fault Refusal :=
  let k := 8 * die.val + slot.val
  if !s.slotActs k || !s.isSealSlot k || !(s.slotState k == 2 || s.slotState k == 3) then .next s
  else if s.isLeader k then (if (s.slot k).verdict == 2 then .next (s.verdictOut k 2) else .next s)
  else .next (s.verdictIn k 2)

end Sys2Proof.Machine
end

