-- ==== Sys2Proof/Machine/Snap.lean ====
section
/-! DEFINITION. Snapshots and their operations (R505 to R524): opening, capture's end, trickle, markers, digests, fills,
restore and storage. -/

namespace Sys2Proof.Machine

/-! ## The snapshot table and the images (R505 to R508) -/

/-- The snapshot table as read: its image buffer and offset, the bytes of each image's state stream, the stride, the storage
buffer and offset, and the regions with their buffer, offset and length (R506). -/
structure SnapTbl where
  imgBuf : Nat
  imgOfs : Nat
  bytes : List Nat
  img : Nat
  storeBuf : Nat
  storeOfs : Nat
  regions : List (Nat × Nat × Nat)
  reservedOk : Bool
  deriving DecidableEq, Repr

/-- The 8-byte word `i` of a byte string. -/
def quadOf (bs : List Byte) (i : Nat) : Nat := bytesToNat ((bs.drop (8 * i)).take 8)

/-- A region entry. -/
def regionOf (bs : List Byte) : Nat × Nat × Nat := (natBits (quadOf bs 0) 15 0, natBits (quadOf bs 0) 63 16, natBits (quadOf bs 1) 47 0)

/-- The snapshot table of a slot (R506). -/
def State.snapTbl (s : State) (k : Nat) : Except SlotFail SnapTbl × State :=
  let va := s.fld (R.dieSnapTbl (k / 8) (k % 8)) F.dieSnapTbl_VA * 64
  slotBind (s.slotRead k va 64) (fun h s =>
    let n := natBits (quadOf h 0) 15 0
    if 4096 < n then (.error (.fatal .fieldValue), s)
    else slotBind (s.slotRead k (va + 64) (16 * n)) (fun r s =>
      let es := (List.range n).map (fun i => (r.drop (16 * i)).take 16)
      let high := (List.range 5).all (fun i => natBits (quadOf h (i + 1)) 63 48 == 0)
      (.ok { imgBuf := natBits (quadOf h 0) 31 16, imgOfs := natBits (quadOf h 1) 47 0,
             bytes := [natBits (quadOf h 2) 47 0, natBits (quadOf h 3) 47 0, natBits (quadOf h 4) 47 0],
             img := natBits (quadOf h 5) 47 0, storeBuf := natBits (quadOf h 6) 15 0, storeOfs := natBits (quadOf h 6) 63 16,
             regions := es.map regionOf,
             reservedOk := natBits (quadOf h 0) 63 32 == 0 && high && quadOf h 7 == 0
               && es.all (fun e => natBits (quadOf e 1) 63 48 == 0) }, s)))

/-- The all-gather transfers of the step table with their capture fields' offsets, and where the fields end (R507). -/
def State.agFields (s : State) (k count : Nat) : Nat → Nat → Nat → List (BitVec 512 × Nat) → Except SlotFail (List (BitVec 512 × Nat) × Nat) × State
  | 0, _, ofs, acc => (.ok (acc, ofs), s)
  | fuel + 1, x, ofs, acc =>
    if count ≤ x then (.ok (acc, ofs), s)
    else slotBind (s.stepEntry k x) (fun e s =>
      if Step.ag e then
        let len := ceilDiv' (Step.agBytes e * shardLen (Step.elems e) (s.slotP k)) 64 * 64
        State.agFields s k count fuel (x + 1) (ofs + len) (acc ++ [(e, ofs)])
      else State.agFields s k count fuel (x + 1) ofs acc)

/-- The capture fields of a slot's images. -/
def State.captureFields (s : State) (k : Nat) : Except SlotFail (List (BitVec 512 × Nat) × Nat) × State :=
  slotBind (s.stepCount k) (fun n s => s.agFields k n (n + 1) 0 0 [])

/-- The bases of the regions. -/
def State.regionBases (s : State) (k : Nat) (t : SnapTbl) : List (Nat × Nat) :=
  t.regions.map (fun r => ((s.buf (s.slotCtx k) r.1).base + r.2.1, r.2.2))

/-- The checks of R509: the statuses of R471, orders 1, 4, 5 and 6. -/
def State.snapCheck (s : State) (k : Nat) (t : SnapTbl) (fieldsEnd : Nat) : Option Status :=
  let c := s.slotCtx k
  let used := s.imagesUsed k
  if !t.reservedOk then some .reservedField
  else if t.imgOfs % 64 ≠ 0 || t.img % 64 ≠ 0 || (t.regions.map (fun r => r.2.2)).sum ≠ t.bytes.getD 0 0
      || used.any (fun i => decide (t.img < fieldsEnd + t.bytes.getD i 0 + 64)) then some .fieldValue
  else if !s.bufOk c t.imgBuf false || !s.bufOk c t.imgBuf true || t.regions.any (fun r => !s.bufOk c r.1 false) then some .buffer
  else if (s.buf c t.imgBuf).bound < t.imgOfs + 6 * t.img || t.regions.any (fun r => decide ((s.buf c r.1).bound < r.2.1 + r.2.2)) then
    some .bounds
  else none

/-- Image (0, 0). -/
def State.imageBase (s : State) (k : Nat) (t : SnapTbl) : Nat := (s.buf (s.slotCtx k) t.imgBuf).base + t.imgOfs

/-- The image of a half. -/
def State.imageVa (s : State) (k : Nat) (t : SnapTbl) (half i : Nat) : Nat := s.imageBase k t + (3 * half + i) * t.img

/-- The ring position of the owner of an image's shard (R505). -/
def State.imagePos (s : State) (k i : Nat) : Nat :=
  let c := R.dieSnapCfg (k / 8) (k % 8)
  let d := if i = 1 then s.fld c F.dieSnapCfg_D1 else if i = 2 then s.fld c F.dieSnapCfg_D2 else 0
  (s.slotPos k + s.slotP k - d) % s.slotP k

/-- The package that owns an image's shard. -/
def State.imageOwner (s : State) (k i : Nat) : Nat :=
  let r := R.dieSnapPeers (k / 8) (k % 8)
  if i = 1 then s.fld r F.dieSnapPeers_OWN1_PKG else if i = 2 then s.fld r F.dieSnapPeers_OWN2_PKG else s.pkgId

/-- The ranges that hold an image's content, in order: its shard's captured bytes, then its state bytes (R507). -/
def State.contentRanges (s : State) (k : Nat) (t : SnapTbl) (fields : List (BitVec 512 × Nat)) (fieldsEnd half i : Nat) : List (Nat × Nat) :=
  let at_ := s.imageVa k t half i
  fields.map (fun f => (at_ + f.2, Step.agBytes f.1 * shardCount (Step.elems f.1) (s.slotP k) (s.imagePos k i)))
    ++ [(at_ + fieldsEnd, t.bytes.getD i 0)]

/-- The parts of ranges that bytes [ofs, ofs + len) of their concatenation lie in. -/
def sliceRanges : List (Nat × Nat) → Nat → Nat → List (Nat × Nat)
  | [], _, _ => []
  | (a, n) :: rs, ofs, len =>
    if len = 0 then []
    else if n ≤ ofs then sliceRanges rs (ofs - n) len
    else
      let m := Nat.min (n - ofs) len
      (a + ofs, m) :: sliceRanges rs 0 (len - m)

/-- The length of ranges together. -/
def rangesLen (rs : List (Nat × Nat)) : Nat := (rs.map (·.2)).sum

/-- Ranges read one after another. -/
def State.readRanges (s : State) (k : Nat) : List (Nat × Nat) → Except SlotFail (List Byte) × State
  | [] => (.ok [], s)
  | r :: rs => slotBind (s.slotRead k r.1 r.2) (fun a s => slotBind (State.readRanges s k rs) (fun b s => (.ok (a ++ b), s)))

/-- Bytes cut to ranges. -/
def cutRanges : List (Nat × Nat) → List Byte → List (Nat × List Byte)
  | [], _ => []
  | r :: rs, bs => (r.1, bs.take r.2) :: cutRanges rs (bs.drop r.2)

/-- A marker (R508). -/
def markerBytes (snap step owner pos image par : Nat) (time : Word) : List Byte :=
  natToBytes 8 (snap + step * 2 ^ 32)
    ++ natToBytes 8 (owner + pos * 2 ^ 12 + image * 2 ^ 25 + par * 2 ^ 27 + 2 ^ 28) ++ natToBytes 8 time.toNat
    ++ List.replicate 40 0

/-- Whether a marker is VALID for a snapshot. -/
def markerValid (m : List Byte) (snap : Nat) : Bool := natBit (quadOf m 1) 28 && natBits (quadOf m 0) 31 0 == snap

/-! ## Opening and closing (R509, R514) -/

/-- A SNAPn_STS field. -/
def State.snapSts (s : State) (k : Nat) (f : Fld) : Nat := s.fld (R.dieSnapSts (k / 8) (k % 8)) f

/-- A SNAPSHOT_OPEN that is skipped (R509). -/
def State.snapSkip (s : State) (k : Nat) : State :=
  (s.satFld (R.dieSnapSts (k / 8) (k % 8)) F.dieSnapSts_SKIPPED 1).raise .die (k / 8) 3

/-- Whether an open is skipped: a snapshot is open, or its half is the committed one. -/
def State.snapSkips (s : State) (k n : Nat) : Bool :=
  let c := R.dieSnapCfg (k / 8) (k % 8)
  (s.slot k).snap.isSome || (s.bit c F.dieSnapCfg_KEEP_VALID && n % 2 == s.fld c F.dieSnapCfg_KEEP_HALF)

/-- A snapshot opens (R509): its table is checked, and the half's three markers are zeroed. DEDUCED, log 74. -/
def State.openSnap (s : State) (k n step : Nat) : Except SlotFail (State → State) × State :=
  slotBind (s.snapTbl k) (fun t s => slotBind (s.captureFields k) (fun fs s =>
    match s.snapCheck k t fs.2 with
    | some st => (.error (.fatal st), s)
    | none =>
      let ms := (List.range 3).map (fun i => (s.imageVa k t (n % 2) i + t.img - 64, List.replicate 64 (0 : Byte)))
      let x : SnapSt := { step := step, base := s.imageBase k t, stride := t.img, bytes := t.bytes, stateOfs := fs.2,
                          regions := s.regionBases k t, capturing := false, captured := false, par := 0, next := [0, 0, 0] }
      slotBind (s.slotWrites k ms) (fun _ s => (.ok (fun s =>
        let r := R.dieSnapSts (k / 8) (k % 8)
        let s := s.setSlotSt k { s.slot k with snap := some x }
        ((s.setFld r F.dieSnapSts_LAST_N n).setFld r F.dieSnapSts_OPEN 1).setFld r F.dieSnapSts_DONE 0), s))))

/-- SNAPSHOT_OPEN (R509). -/
def execSnapshotOpen (die : Fin 4) (slot : Fin 8) (s : State) : Host.Outcome State Fault Refusal :=
  let k := 8 * die.val + slot.val
  let q := s.ctrlLq k
  if !s.slotActs k || s.qCount (s.hopUnit k) q == 0 || (s.slot k).verdict != 0 then .next s
  else .next (s.slotStep k (slotBind (s.slotEntry k q 0) (fun e s =>
    match anchorIn e with
    | none => (.ok (fun (s : State) => s.slotFree k q), s)
    | some a =>
      if a.action = 0 ∨ 5 < a.action then (.ok (fun s => s.slotFree k q), s)
      else if a.action ≠ 4 then (.ok (fun s => s), s)
      else
        let n := a.param0.toNat % 2 ^ 32
        if !s.bit (R.dieSnapCfg die slot) F.dieSnapCfg_EN then (.ok (fun s => s.slotFree k q), s)
        else if s.snapSkips k n then (.ok (fun s => (s.slotFree k q).snapSkip k), s)
        else slotBind (s.openSnap k n (a.param1.toNat % 2 ^ 32)) (fun f s => (.ok (fun s => (f s).slotFree k q), s))))
    (fun (f : State → State) s => f s))

/-- SNAPSHOT_CLOSE (R514). -/
def execSnapshotClose (die : Fin 4) (slot : Fin 8) (s : State) : Host.Outcome State Fault Refusal :=
  let k := 8 * die.val + slot.val
  .next (s.ctrlTake k 5 (fun a s =>
    if (s.slot k).snap.isSome ∧ a.param0.toNat % 2 ^ 32 = s.snapSts k F.dieSnapSts_LAST_N then some (s.abandonSnap k) else some s))

/-! ## Trickle and fill entries (R511, R512, R520, R521) -/

/-- The body of a trickle or fill entry (R511). -/
def snapBody (snap idx : Nat) (bs : List Byte) : BitVec 384 := BitVec.ofNat 384 (snap + idx * 2 ^ 32 + bytesToNat bs * 2 ^ 64)

/-- SNAP_LQ. -/
def State.snapLq (s : State) (k : Nat) : Nat := s.fld (R.dieSnapCfg (k / 8) (k % 8)) F.dieSnapCfg_SNAP_LQ

/-- An entry of a slot's own enters the send buffer for a line. DESIGN CHOICE, log 72. -/
def State.snapPush (s : State) (k line : Nat) (body : BitVec 384) : State :=
  let n := (s.slot k).sent
  let s := s.setSlotSt k { s.slot k with sent := n + 1 }
  s.pushSend (s.hopUnit k) line (s.snapLq k) (n % 2 ^ 20) (s.slotCtx k) true (mkEntry 0 0 body.toNat)

/-- The lines a trickle entry goes out on. -/
def State.trickleLines (s : State) (k : Nat) : List Nat :=
  let c := R.dieSnapCfg (k / 8) (k % 8)
  (if s.fld c F.dieSnapCfg_D1 = 0 then [] else [s.fld c F.dieSnapCfg_LINE1])
    ++ (if s.fld c F.dieSnapCfg_D2 = 0 then [] else [s.fld c F.dieSnapCfg_LINE2])

/-- The room left in a unit's send buffer. -/
def State.sendFree (s : State) (u : Nat) : Nat := sendBufSize - (s.sch.sendBuf.filter (fun e => e.u = u)).length

/-- The state entries of an image. -/
def SnapSt.count (n : SnapSt) (i : Nat) : Nat := ceilDiv' (n.bytes.getD i 0) 40

/-- The next trickle entry (R511): written into image 0 and sent to the buddies. -/
def State.trickle (s : State) (k : Nat) (n : SnapSt) : State :=
  let i := n.next.getD 0 0
  let len := Nat.min 40 (n.bytes.getD 0 0 - 40 * i)
  let lines := s.trickleLines k
  if !n.captured || n.count 0 ≤ i || s.sendFree (s.hopUnit k) < lines.length then s
  else
    let r := slotBind (s.readRanges k (sliceRanges n.regions (40 * i) len)) (fun bs s =>
      slotBind (s.slotWrite k (n.image (s.snapHalf k) 0 + n.stateOfs + 40 * i) bs) (fun _ s => (.ok bs, s)))
    s.slotStep k r (fun bs s =>
      let s := s.setSlotSt k { s.slot k with snap := some { n with next := n.next.set 0 (i + 1) } }
      let body := snapBody (s.snapSts k F.dieSnapSts_LAST_N) i bs
      lines.foldl (fun s l => s.snapPush k l body) s)

/-! ## Operations (R518 to R524) -/

/-- HALF of an operation. -/
def SnapOp.half (o : SnapOp) : Nat := F.dieSnapOp_HALF.get o.word
/-- IMAGE of an operation; RESTORE acts on image 0. -/
def SnapOp.image (o : SnapOp) : Nat := if F.dieSnapOp_OP.get o.word = 4 then 0 else F.dieSnapOp_IMAGE.get o.word
/-- OP of an operation. -/
def SnapOp.code (o : SnapOp) : Nat := F.dieSnapOp_OP.get o.word
/-- N of an operation. -/
def SnapOp.snap (o : SnapOp) : Nat := F.dieSnapOp_N.get o.word

/-- Whether a slot's operation can go on. -/
def State.opActs (s : State) (k : Nat) : Bool := (s.slot k).op.isSome && s.unitLive (s.hopUnit k) && !s.slotParked k

/-- PROGRESS of an operation. -/
def State.setProgress (s : State) (k n : Nat) : State := s.setFld (R.dieSnapOpsts (k / 8) (k % 8)) F.dieSnapOpsts_PROGRESS n

/-- A slot's operation changes. -/
def State.setOp (s : State) (k : Nat) (o : SnapOp) : State := s.setSlotSt k { s.slot k with op := some o }

/-- The marker of an operation's image. -/
def State.opMarker (s : State) (k : Nat) (o : SnapOp) : Except SlotFail (List Byte × Nat) × State :=
  slotBind (s.snapTbl k) (fun t s =>
    let a := s.imageVa k t o.half o.image + t.img - 64
    slotBind (s.slotRead k a 64) (fun m s => (.ok (m, a), s)))

/-- An operation's beginning: a fill's receiver zeroes the marker (R521); a digest, a fill's sender and a restore need a
VALID marker (R519, R520, R522). -/
def State.prepareOp (s : State) (k : Nat) (o : SnapOp) : State :=
  if o.ready then s
  else if o.code = 3 then
    s.slotStep k (slotBind (s.opMarker k o) (fun m s => s.slotWrite k m.2 (List.replicate 64 0)))
      (fun _ s => s.setOp k { o with ready := true, since := s.now })
  else if o.code = 5 then s.setOp k { o with ready := true }
  else s.slotStep k (s.opMarker k o) (fun m s =>
    let posOk := o.code != 4 || natBits (quadOf m.1 1) 24 12 == s.slotPos k
    if markerValid m.1 o.snap && posOk then s.setOp k { o with ready := true } else s.endSnapOp k 2)

/-- Whether a write of SNAPn_OP is refused (R518). An ABORT is not. DEDUCED, log 74. -/
def State.opRefused (s : State) (k : Nat) (w : Word) : Bool :=
  (s.slot k).op.isSome || s.slotArmed k || !s.bit (R.dieSnapCfg (k / 8) (k % 8)) F.dieSnapCfg_EN
    || F.dieSnapOp_OP.get w == 0 || F.dieSnapOp_OP.get w == 6 || F.dieSnapOp_IMAGE.get w == 3 || s.armRefused14 k != 0

/-- A write of SNAPn_OP (R518, R523, R524). -/
def State.snapOpWrite (s : State) (k : Nat) (w : Word) : State :=
  let r := R.dieSnapOpsts (k / 8) (k % 8)
  if F.dieSnapOp_OP.get w = 7 then s.endSnapOp k 7
  else if s.opRefused k w then s.setFld r F.dieSnapOpsts_RESULT 1
  else
    let o : SnapOp := { word := w, next := 0, since := s.now, marker := none, ready := false, lost := false }
    let s := (s.setOp k o).setReg r (BitVec.ofNat 64 (1 + o.code * 32))
    if o.code = 5 ∧ !s.bit R.secLicSts F.secLicSts_STORE_EFF then s.endSnapOp k 6 else s.prepareOp k o

/-- The write of SNAPn_OP with an OP code. -/
def opWrite (die : Fin 4) (slot : Fin 8) (code : Nat) (op : Word) (s : State) : Host.Outcome State Fault Refusal :=
  if s.pageDead .die die then .next s else .next (s.snapOpWrite (8 * die.val + slot.val) (F.dieSnapOp_OP.put op code))

/-- DIGEST (R519). -/
def execDigest (_a : Agent) (die : Fin 4) (slot : Fin 8) (op : Word) (s : State) : Host.Outcome State Fault Refusal :=
  opWrite die slot 1 op s

/-- FILL_SEND (R520). -/
def execFillSend (_a : Agent) (die : Fin 4) (slot : Fin 8) (op : Word) (s : State) : Host.Outcome State Fault Refusal :=
  opWrite die slot 2 op s

/-- FILL_RECV (R521). -/
def execFillRecv (_a : Agent) (die : Fin 4) (slot : Fin 8) (op : Word) (s : State) : Host.Outcome State Fault Refusal :=
  opWrite die slot 3 op s

/-- RESTORE (R522). -/
def execRestore (_a : Agent) (die : Fin 4) (slot : Fin 8) (op : Word) (s : State) : Host.Outcome State Fault Refusal :=
  opWrite die slot 4 op s

/-- STORE (R524). -/
def execStore (_a : Agent) (die : Fin 4) (slot : Fin 8) (op : Word) (s : State) : Host.Outcome State Fault Refusal :=
  opWrite die slot 5 op s

/-- ABORT (R523). DEDUCED, log 74. -/
def execAbort (_a : Agent) (die : Fin 4) (slot : Fin 8) (op : Word) (s : State) : Host.Outcome State Fault Refusal :=
  opWrite die slot 7 op s

/-- The ranges of an operation's image content. -/
def State.opRanges (s : State) (k : Nat) (o : SnapOp) : Except SlotFail (List (Nat × Nat)) × State :=
  slotBind (s.snapTbl k) (fun t s => slotBind (s.captureFields k) (fun fs s =>
    (.ok (s.contentRanges k t fs.1 fs.2 o.half o.image), s)))

/-- The next fill entry (R511, R520): the content from index 0 upward, then the marker. -/
def State.fillNext (s : State) (k : Nat) (o : SnapOp) : State :=
  if !o.ready then s.prepareOp k o
  else if o.marker.isSome || !s.sendRoom (s.hopUnit k) then s
  else
    let line := F.dieSnapOp_LINE.get o.word
    let r := slotBind (s.opRanges k o) (fun rs s =>
      if rangesLen rs ≤ 40 * o.next then slotBind (s.opMarker k o) (fun m s => (.ok (true, m.1), s))
      else slotBind (s.readRanges k (sliceRanges rs (40 * o.next) 40)) (fun bs s => (.ok (false, bs), s)))
    s.slotStep k r (fun d s =>
      if d.1 then
        (s.setOp k { o with marker := some d.2, since := s.now }).snapPush k line (snapBody o.snap 0xFFFFFFFF (d.2.take 40))
      else
        let s := (s.setOp k { o with next := o.next + 1, since := s.now }).setProgress k (o.next + 1)
        s.snapPush k line (snapBody o.snap o.next d.2))

/-- TRICKLE_SEND (R511): the next trickle entry; of a slot with a fill to send, the next fill entry. A BROKEN slot sends
nothing. DEDUCED, log 74. -/
def execTrickleSend (die : Fin 4) (slot : Fin 8) (s : State) : Host.Outcome State Fault Refusal :=
  let k := 8 * die.val + slot.val
  match (s.slot k).op, (s.slot k).snap with
  | some o, _ => if o.code = 2 ∧ s.opActs k then .next (s.fillNext k o) else .next s
  | none, some n => if s.slotActs k && !s.bit (R.dieSlotSts die slot) F.dieSlotSts_BROKEN then .next (s.trickle k n) else .next s
  | none, none => .next s

/-- An entry of SNAP_LQ is discarded as stale (R512, R521). -/
def State.snapStale (s : State) (k : Nat) : State :=
  (s.slotFree k (s.snapLq k)).satFld (R.dieSnapSts (k / 8) (k % 8)) F.dieSnapSts_STALE 1

/-- The fields of a trickle or fill entry: SNAP, IDX and DATA. -/
def snapFields (e : BitVec 512) : Nat × Nat × List Byte := (entBits e 16 31 0, entBits e 20 31 0, natToBytes 40 (e.toNat / 2 ^ 192))

/-- A trickle entry (R512). -/
def State.trickleIn (s : State) (k : Nat) (e : BitVec 512) : Except SlotFail (State → State) × State :=
  let f := snapFields e
  let used := s.imagesUsed k
  let i := if used.contains 1 && Ent.srcPkg e == s.imageOwner k 1 then 1
    else if used.contains 2 && Ent.srcPkg e == s.imageOwner k 2 then 2 else 0
  match (s.slot k).snap with
  | some n =>
    if i = 0 ∨ f.1 ≠ s.snapSts k F.dieSnapSts_LAST_N ∨ Ent.opcode e ≠ 2 then (.ok (fun s => s.snapStale k), s)
    else if f.2.1 ≠ n.next.getD i 0 ∨ n.count i ≤ f.2.1 then (.error (.fatal .fieldValue), s)
    else
      let bs := f.2.2.take (n.bytes.getD i 0 - 40 * f.2.1)
      slotBind (s.slotWrite k (n.image (s.snapHalf k) i + n.stateOfs + 40 * f.2.1) bs) (fun _ s => (.ok (fun s =>
        (s.setSlotSt k { s.slot k with snap := some { n with next := n.next.set i (f.2.1 + 1) } }).slotFree k (s.snapLq k)), s))
  | none => (.ok (fun s => s.snapStale k), s)

/-- A fill entry (R521). -/
def State.fillIn (s : State) (k : Nat) (o : SnapOp) (e : BitVec 512) : Except SlotFail (State → State) × State :=
  let f := snapFields e
  if Ent.opcode e ≠ 2 ∨ Ent.srcPkg e ≠ F.dieSnapOp_SRC_PKG.get o.word ∨ f.1 ≠ o.snap ∨ o.marker.isSome then
    (.ok (fun s => s.snapStale k), s)
  else if f.2.1 = 0xFFFFFFFF then
    (.ok (fun s => (s.setOp k { o with marker := some (f.2.2 ++ List.replicate 24 0), since := s.now }).slotFree k (s.snapLq k)), s)
  else if f.2.1 ≠ o.next then (.ok (fun s => (s.slotFree k (s.snapLq k)).endSnapOp k 8), s)
  else slotBind (s.opRanges k o) (fun rs s =>
    let cut := sliceRanges rs (40 * o.next) (Nat.min 40 (rangesLen rs - 40 * o.next))
    slotBind (s.slotWrites k (cutRanges cut f.2.2)) (fun _ s => (.ok (fun s =>
      ((s.setOp k { o with next := o.next + 1, since := s.now }).setProgress k (o.next + 1)).slotFree k (s.snapLq k)), s)))

/-- SNAP_ENTRY_RECEIVE (R512, R521): the entry at the head of SNAP_LQ. -/
def execSnapEntryReceive (die : Fin 4) (slot : Fin 8) (s : State) : Host.Outcome State Fault Refusal :=
  let k := 8 * die.val + slot.val
  let q := s.snapLq k
  if s.qCount (s.hopUnit k) q = 0 then .next s
  else match (s.slot k).op with
  | some o =>
    if o.code ≠ 3 || !s.opActs k then .next s
    else if !o.ready then .next (s.prepareOp k o)
    else .next (s.slotStep k (slotBind (s.slotEntry k q 0) (fun e s => s.fillIn k o e)) (fun (f : State → State) s => f s))
  | none =>
    if s.slotActs k && s.bit (R.dieSnapCfg die slot) F.dieSnapCfg_EN then
      .next (s.slotStep k (slotBind (s.slotEntry k q 0) (fun e s => s.trickleIn k e)) (fun (f : State → State) s => f s))
    else .next s

/-- IMAGE_COMPLETE (R513): the image's marker is written, and the snapshot closes when every image in use is complete. -/
def execImageComplete (die : Fin 4) (slot : Fin 8) (image : Fin 3) (s : State) : Host.Outcome State Fault Refusal :=
  let k := 8 * die.val + slot.val
  let i := image.val
  match (s.slot k).snap with
  | none => .next s
  | some n =>
    if !s.slotActs k || !n.captured || !(s.imagesUsed k).contains i || natBit (s.snapSts k F.dieSnapSts_DONE) i
        || n.next.getD i 0 < n.count i || s.slotPosted k then .next s
    else
      let m := markerBytes (s.snapSts k F.dieSnapSts_LAST_N) n.step (s.imageOwner k i) (s.imagePos k i) i n.par (s.nowAt (k / 8))
      .next (s.slotStep k (s.slotWrite k (n.image (s.snapHalf k) i + n.stride - 64) m) (fun _ s =>
        let r := R.dieSnapSts (k / 8) (k % 8)
        let s := s.setFld r F.dieSnapSts_DONE (s.snapSts k F.dieSnapSts_DONE + 2 ^ i)
        if (s.imagesUsed k).all (fun j => natBit (s.snapSts k F.dieSnapSts_DONE) j) then
          (s.setSlotSt k { s.slot k with snap := none }).setFld r F.dieSnapSts_OPEN 0
        else s))

/-! ## The end of an operation (R518 to R524) -/

/-- A digest in the registers SNAPn_DIG0 to SNAPn_DIG7, byte 8k + j in bits [8j + 7:8j] of the k-th. -/
def State.putDigest (s : State) (k : Nat) (d : List Byte) : State :=
  (List.range 8).foldl (fun s i =>
    s.setReg (R.dieSnapDig (k / 8) (k % 8 * 8 + i)) (BitVec.ofNat 64 (bytesToNat ((d.drop (8 * i)).take 8)))) s

/-- The digest in the registers. -/
def State.getDigest (s : State) (k : Nat) : List Byte :=
  (List.range 8).flatMap (fun i => natToBytes 8 (s.reg (R.dieSnapDig (k / 8) (k % 8 * 8 + i))).toNat)

/-- The end of a DIGEST (R519). -/
def State.digestDone (s : State) (k : Nat) (o : SnapOp) : State :=
  s.slotStep k (slotBind (s.opRanges k o) (fun rs s => s.readRanges k rs)) (fun bs s =>
    ((s.putDigest k (sha512 bs)).setProgress k (ceilDiv' bs.length 64)).endSnapOp k 0)

/-- Where a restore puts its content (R522): the shard in each transfer's SRC buffer, then the state regions. -/
def State.restoreTargets (s : State) (k : Nat) (t : SnapTbl) (fields : List (BitVec 512 × Nat)) : List (Nat × Nat) :=
  let p := s.slotP k
  let j := s.slotPos k
  fields.map (fun f =>
    let w := Step.agBytes f.1
    let n := Step.elems f.1
    ((s.buf (s.slotCtx k) (Step.buf f.1 16)).base + Step.ofs f.1 16 + w * (j * shardLen n p), w * shardCount n p j))
    ++ s.regionBases k t

/-- The end of a RESTORE (R522). -/
def State.restoreDone (s : State) (k : Nat) (o : SnapOp) : State :=
  if o.marker.isSome then (if s.slotPosted k then s else s.endSnapOp k (if o.lost then 8 else 0))
  else
    let r := slotBind (s.snapTbl k) (fun t s => slotBind (s.captureFields k) (fun fs s =>
      slotBind (s.readRanges k (s.contentRanges k t fs.1 fs.2 o.half 0)) (fun bs s =>
        if sha512 bs = s.getDigest k then
          slotBind (s.opMarker k o) (fun m s =>
            slotBind (s.slotWrites k (cutRanges (s.restoreTargets k t fs.1) bs)) (fun _ s => (.ok (some m.1), s)))
        else (.ok none, s))))
    s.slotStep k r (fun m s =>
      match m with
      | none => s.endSnapOp k 3
      | some m =>
        let s := s.setFld (R.dieSlotSts (k / 8) (k % 8)) F.dieSlotSts_PAR (bitNat (natBit (quadOf m 1) 27))
        let lost := match (s.slot k).op with
          | some x => x.lost
          | none => false
        if s.slotPosted k then s.setOp k { o with marker := some m, lost := lost } else s.endSnapOp k (if lost then 8 else 0))

/-- The end of a STORE (R524): the image, then, when that is performed, its marker. -/
def State.storeDone (s : State) (k : Nat) (o : SnapOp) : State :=
  if s.slotPosted k then s
  else if o.next = 2 then s.endSnapOp k (if o.lost then 8 else 0)
  else
    let r := slotBind (s.snapTbl k) (fun t s =>
      let b := s.buf (s.slotCtx k) t.storeBuf
      if !s.bufOk (s.slotCtx k) t.storeBuf true || decide (b.bound < t.storeOfs + t.img) then (.ok false, s)
      else
        let from_ := s.imageVa k t o.half o.image
        let rng := if o.next = 0 then (0, t.img - 64) else (t.img - 64, 64)
        slotBind (s.slotRead k (from_ + rng.1) rng.2) (fun bs s =>
          slotBind (s.slotWrite k (b.base + t.storeOfs + rng.1) bs) (fun _ s => (.ok true, s))))
    s.slotStep k r (fun ok s =>
      match ok, (s.slot k).op with
      | true, some x => s.setOp k { x with next := o.next + 1 }
      | _, _ => s.endSnapOp k 8)

/-- Whether a fill's final entry has been delivered, or has left for another package. -/
def State.fillGone (s : State) (k : Nat) (o : SnapOp) : Bool :=
  let u := s.hopUnit k
  let l := F.dieSnapOp_LINE.get o.word
  !s.sch.sendBuf.any (fun e => e.u == u && e.line == l && e.q == s.snapLq k)
    && !s.sch.transit.any (fun m => m.srcPkg == s.pkgId && m.srcUnit == u && m.srcLine == l && m.srcQ == s.snapLq k)

/-- The end of a FILL_RECV (R521): the marker that came, with IMAGE the receiving image and VALID 1. DEDUCED, log 74. -/
def State.fillDone (s : State) (k : Nat) (o : SnapOp) (m : List Byte) : State :=
  let q1 := quadOf m 1
  let v := (q1 - natBits q1 26 25 * 2 ^ 25 + o.image * 2 ^ 25) - bitNat (natBit q1 28) * 2 ^ 28 + 2 ^ 28
  let bs := m.take 8 ++ natToBytes 8 v ++ m.drop 16
  s.slotStep k (slotBind (s.opMarker k o) (fun x s => s.slotWrite k x.2 bs)) (fun _ s => s.endSnapOp k 0)

/-- SNAP_OP_DONE (R518): the operation in progress does its work and ends with its RESULT, or, where it still waits for
entries or acknowledgements, goes on. DEDUCED, log 74. -/
def execSnapOpDone (die : Fin 4) (slot : Fin 8) (s : State) : Host.Outcome State Fault Refusal :=
  let k := 8 * die.val + slot.val
  match (s.slot k).op with
  | none => .next s
  | some o =>
    if !s.opActs k then .next s
    else if !o.ready then .next (s.prepareOp k o)
    else match o.code, o.marker with
    | 1, _ => .next (s.digestDone k o)
    | 2, some _ => if s.fillGone k o then .next (s.endSnapOp k 0) else .next s
    | 3, some m => if s.slotPosted k then .next s else .next (s.fillDone k o m)
    | 4, _ => .next (s.restoreDone k o)
    | 5, _ => .next (s.storeDone k o)
    | _, _ => .next s

/-- SNAP_OP_TIMEOUT (R520, R521): a fill that sees no credit, or no entry, for SNAPn_LIMIT. -/
def execSnapOpTimeout (die : Fin 4) (slot : Fin 8) (s : State) : Host.Outcome State Fault Refusal :=
  let k := 8 * die.val + slot.val
  match (s.slot k).op with
  | none => .next s
  | some o =>
    let late := decide (s.elapsedNs o.since > s.fld (R.dieSnapLimit die slot) F.dieSnapLimit_US * 1000)
    let noCredit := s.fld (R.unitCrl (s.hopUnit k) (F.dieSnapOp_LINE.get o.word)) F.unitCrl_CREDITS == 0
    if late && (o.code == 3 || (o.code == 2 && noCredit && !s.fillGone k o)) then .next (s.endSnapOp k 5) else .next s

end Sys2Proof.Machine
end

