-- ==== Sys2Proof/Machine/Lanes.lean ====
section
/-! DEFINITION. Lane programs (R199 to R213): the encoding and its legality (R206, R207, R209, R212), the lane operations,
and the run of a program over a shape in batches, with its streams and reductions. -/

namespace Sys2Proof.Machine

/-! ## Encoding (R206, R207) -/

/-- A lane instruction's fields. -/
structure LInstr where
  op : Nat
  rd : Nat
  rs1 : Nat
  rs2 : Nat
  rs3 : Nat
  ty : Nat
  pred : Nat
  deriving DecidableEq, Repr

/-- The instruction of a word. -/
def LInstr.of (w : Nat) : LInstr :=
  { op := natBits w 31 26, rd := natBits w 25 21, rs1 := natBits w 20 16, rs2 := natBits w 15 11, rs3 := natBits w 10 6,
    ty := natBits w 5 3, pred := natBits w 2 0 }

/-- What an opcode uses: its types, the bits of RD, RS1, RS2 and of RS3 or IMM5 that it uses as counts of low bits, its
cost in half cycles and its latency for the types it lists. -/
structure OpRow where
  types : List Nat
  rd : Nat
  rs1 : Bool
  rs2 : Bool
  imm : Nat
  rs3 : Bool := false
  deriving DecidableEq, Repr

/-- The rows of R207; none for an opcode the table does not have. -/
def opRow (op : Nat) : Option OpRow :=
  let any := [0, 1, 2, 3, 4]
  let num := [0, 1, 2, 3]
  match op with
  | 0x00 => some ⟨any, 0, false, false, 0, false⟩
  | 0x01 => some ⟨any, 5, true, false, 0, false⟩
  | 0x02 => some ⟨any, 5, false, false, 5, false⟩
  | 0x03 | 0x04 => some ⟨[4], 5, false, false, 0, false⟩
  | 0x08 | 0x0B => some ⟨num, 5, false, false, 3, false⟩
  | 0x09 => some ⟨num, 0, true, false, 3, false⟩
  | 0x0A => some ⟨num, 5, true, false, 3, false⟩
  | 0x10 | 0x11 | 0x12 => some ⟨num, 5, true, true, 0, false⟩
  | 0x13 => some ⟨[0, 1, 2], 5, true, true, 5, true⟩
  | 0x14 | 0x15 => some ⟨any, 5, true, true, 0, false⟩
  | 0x16 | 0x17 => some ⟨num, 5, true, false, 0, false⟩
  | 0x20 | 0x21 | 0x22 | 0x23 | 0x24 | 0x25 | 0x26 | 0x27 | 0x28 => some ⟨[0], 5, true, false, 0, false⟩
  | 0x30 | 0x31 | 0x32 | 0x33 => some ⟨[4], 5, true, true, 0, false⟩
  | 0x34 => some ⟨[3, 4], 5, true, true, 0, false⟩
  | 0x38 => some ⟨any, 2, true, true, 5, false⟩
  | 0x39 => some ⟨any, 5, true, true, 2, false⟩
  | 0x3A => some ⟨num, 5, true, false, 3, false⟩
  | 0x3C | 0x3D | 0x3E => some ⟨[0, 1, 3], 2, true, false, 0, false⟩
  | _ => none

/-- Whether an instruction is legal by its own bits (R206, R207). -/
def LInstr.legal (i : LInstr) : Bool :=
  match opRow i.op with
  | none => false
  | some r =>
    r.types.contains i.ty && i.pred != 4 && decide (i.rd < 2 ^ r.rd) && (r.rs1 || i.rs1 == 0) && (r.rs2 || i.rs2 == 0)
      && decide (i.rs3 < 2 ^ r.imm) && !(i.op == 0x38 && (decide (6 < i.rs3) || i.rd == 0))
      && !(i.op == 0x3A && decide (4 < i.rs3))

/-- The stream an instruction names. -/
def LInstr.stream (i : LInstr) : Option Nat := if 0x08 ≤ i.op ∧ i.op ≤ 0x0B then some (i.rs3 % 8) else none

/-- Whether an instruction converts under RND (R212). -/
def LInstr.converts (i : LInstr) : Bool := i.op == 0x09 || i.op == 0x3A

/-- Whether an instruction updates a reduction. -/
def LInstr.reduces (i : LInstr) : Bool := i.op == 0x3C || i.op == 0x3D || i.op == 0x3E

/-- Cost in half cycles per lane group (R207). -/
def LInstr.cost2 (i : LInstr) : Nat :=
  if 0x10 ≤ i.op ∧ i.op ≤ 0x17 then (match i.ty with | 1 => 1 | 2 => 8 | _ => 2)
  else if i.op = 0x0A ∨ (0x20 ≤ i.op ∧ i.op ≤ 0x28) then 4
  else 2

/-- Latency in cycles (R207); 0 where the table gives none. -/
def LInstr.latency (i : LInstr) : Nat :=
  match i.op with
  | 0x00 | 0x09 | 0x3C | 0x3D | 0x3E => 0
  | 0x08 | 0x0B => 8
  | 0x0A => 12
  | 0x10 | 0x11 | 0x14 | 0x15 => if i.ty = 2 then 8 else 4
  | 0x12 | 0x13 => if i.ty = 2 then 10 else if i.ty = 1 then 4 else 6
  | 0x3A => 4
  | op => if 0x20 ≤ op ∧ op ≤ 0x28 then 16 else 2

/-! ## Streams (R211, R212) -/

/-- An entry of the stream table. -/
structure Strm where
  ofs : Nat
  row : Nat
  fmt : Nat
  scaled : Bool
  valid : Bool
  sc : Nat
  bad : Bool
  deriving DecidableEq, Repr

/-- A stream of its two words. -/
def Strm.of (w0 w1 : Nat) : Strm :=
  { ofs := natBits w0 20 0, row := natBits w0 41 21, fmt := natBits w0 45 42, scaled := natBit w0 46, valid := natBit w0 47,
    sc := natBits w1 20 0, bad := natBits w0 63 48 != 0 || natBits w1 63 21 != 0 }

/-- Whether a load type holds every value of a stream format exactly, block-scaled streams loaded as F32 apart (R212). -/
def loadLegal (ty fmt : Nat) (scaled : Bool) : Bool :=
  if scaled then ty == 0 || ty == 2
  else match ty with
    | 0 => fmt != 0xB && fmt != 0xC
    | 1 => fmt != 0x8 && decide (fmt < 0xA)
    | 2 => true
    | 3 => fmt == 5 || fmt == 6 || fmt == 0xC
    | _ => false

/-- The format of a lane type; U32 is read as an unsigned integer. -/
def typeFmt (ty : Nat) : Fmt := match ty with
  | 0 => .f32
  | 1 => .bf16
  | 2 => .f64
  | _ => .i32

/-- Bits of a result of a type. -/
def typeBits (ty : Nat) : Nat := if ty = 1 then 16 else if ty = 2 then 64 else 32

/-- The value a register holds as a type. -/
def typeVal (ty r : Nat) : Val := if ty = 4 then .fin false (r % 2 ^ 32) 1 else (typeFmt ty).decode (r % 2 ^ typeBits ty)

/-- A program with its pool and streams, as latched when its command begins (R216). -/
structure LProg where
  pool : List Nat
  code : List LInstr
  streams : List Strm
  deriving DecidableEq, Repr

/-- The streams a program uses. -/
def LProg.used (p : LProg) : List Nat := (p.code.filterMap LInstr.stream).dedup

/-- A stream by number. -/
def LProg.stream (p : LProg) (n : Nat) : Strm := p.streams.getD n ⟨0, 0, 0, false, false, 0, true⟩

/-- Whether a program is legal with its streams (R207, R209, R211, R212). -/
def LProg.legal (p : LProg) : Bool :=
  p.code.all (fun i => i.legal && (match i.stream with
    | some n => (p.stream n).valid && (i.op == 0x09 || loadLegal i.ty (p.stream n).fmt (p.stream n).scaled)
    | none => true))
  && p.code.all (fun i => p.code.all (fun j => !(i.reduces && j.reduces && i.rd == j.rd && i.op != j.op)))

/-! ## Lane operations (R204, R205, R207) -/

/-- A floating-point or integer result in its register. -/
def putType (ty : Nat) (x : Val) : Nat := ((typeFmt ty).convert .rne 0 x).1

/-- I32 and U32 results wrap modulo 2^32. -/
def wrap32 (i : Int) : Nat := patternOf 32 i

/-- A two- or three-operand arithmetic instruction. DESIGN CHOICE, log 30. -/
def arith (op ty a b c : Nat) : Nat :=
  let x := typeVal ty a
  let y := typeVal ty b
  if ty = 3 ∨ ty = 4 then
    let i : Int := if ty = 3 then signedOf 32 a else (a % 2 ^ 32 : Nat)
    let j : Int := if ty = 3 then signedOf 32 b else (b % 2 ^ 32 : Nat)
    match op with
    | 0x10 => wrap32 (i + j)
    | 0x11 => wrap32 (i - j)
    | 0x12 => wrap32 (i * j)
    | 0x14 => wrap32 (min i j)
    | 0x15 => wrap32 (max i j)
    | 0x16 => wrap32 i.natAbs
    | _ => wrap32 (-i)
  else
    match op with
    | 0x10 => putType ty (x.add y)
    | 0x11 => putType ty (x.add y.neg)
    | 0x12 => putType ty (x.mul y)
    | 0x13 => putType ty ((x.mul y).add (typeVal ty c))
    | 0x14 => putType ty (x.min y)
    | 0x15 => putType ty (x.max y)
    | 0x16 => putType ty x.abs
    | _ => putType ty x.neg

/-- The special function of an opcode. -/
def funOf (op : Nat) : Fun := match op with
  | 0x20 => .exp
  | 0x21 => .exp2
  | 0x22 => .log
  | 0x23 => .log2
  | 0x24 => .rcp
  | 0x25 => .rsqrt
  | 0x26 => .sqrt
  | 0x27 => .tanh
  | _ => .sigm

/-- A logic instruction. -/
def logic (op ty a b : Nat) : Nat :=
  let x := a % 2 ^ 32
  let y := b % 2 ^ 32
  match op with
  | 0x30 => Nat.land x y
  | 0x31 => Nat.lor x y
  | 0x32 => Nat.xor x y
  | 0x33 => x * 2 ^ (y % 32) % 2 ^ 32
  | _ => if ty = 3 then wrap32 (signedOf 32 x / 2 ^ (y % 32)) else x / 2 ^ (y % 32)

/-- A comparison. -/
def compare' (cond ty a b : Nat) : Bool :=
  let x := typeVal ty a
  let y := typeVal ty b
  match cond with
  | 0 => x.eqv y
  | 1 => !(x.eqv y)
  | 2 => x.lt y
  | 3 => !x.isNan && !y.isNan && !(y.lt x)
  | 4 => y.lt x
  | 5 => !x.isNan && !y.isNan && !(x.lt y)
  | _ => x.isNan || y.isNan

/-! ## The machine of a run -/

/-- One element's lane: its element number, its registers and its predicates. -/
structure LaneSt where
  i : Nat
  v : List Nat
  p : List Bool
  deriving DecidableEq, Repr

/-- A block of a block-scaled stream whose columns lie in more than one batch: the lanes stored so far. -/
structure Pend where
  t : Nat
  m : Nat
  b : Nat
  lanes : List (Nat × Val × Nat)
  deriving DecidableEq, Repr

/-- What a run carries: the machine, the flags, faults suppressed, the reduction registers by row and number, the blocks
pending, the status that ended it, the last element of the present batch, the last cycle in which the present instruction
issues, the bytes that loads took a pending block's final bytes to be, and whether one of them proved wrong. -/
structure Run where
  s : State
  flags : Nat
  suppr : Nat
  red : List (Nat × (Accord ⊕ Val))
  pend : List Pend
  fail : Option Status
  last : Nat
  cyc : Nat
  guess : List (Nat × Byte)
  wrong : Bool
  deriving DecidableEq, Repr

/-- What a run is fixed by: the unit, the context, the shape, the program, the mode, the draw, the cycle it began in, and
whether every load of a pending block's bytes is to take them as they stood (R213). -/
structure RunCfg where
  u : Nat
  ctx : Nat
  rows : Nat
  cols : Nat
  prog : LProg
  rnd : Rnd
  draw : Draw
  start : Nat
  old : Bool
  deriving DecidableEq, Repr

/-- A vector engine's write, made in a cycle: a drain path's write of that cycle or of a later one stands over it (R196). -/
def State.vecWrite (s : State) (u ofs : Nat) (bs : List Byte) (cyc ctx : Nat) : Bool × State :=
  match s.spadWrite u ofs (s.keepLater u ofs (2 * cyc) bs) ctx (locUnit u 2) with
  | (true, s) => (true, s)
  | (false, s) => (false, if s.unitCyc u < cyc then s.stampBytes u ofs bs.length (2 * cyc) else s)

/-- Writes in order, each with its cycle; the first that fails ends them. -/
def State.vecWrites (s : State) (u ctx : Nat) : List (Nat × List Byte × Nat) → Bool × State
  | [] => (false, s)
  | w :: ws =>
    match s.vecWrite u w.1 w.2.1 w.2.2 ctx with
    | (true, s) => (true, s)
    | (false, s) => State.vecWrites s u ctx ws

/-- The bytes of element (m, c) of a stream, as a range. DEDUCED, log 33. -/
def Strm.elemSpan (x : Strm) (m c : Nat) : Span :=
  let w := match Fmt.ofCode x.fmt with
    | some f => f.bits
    | none => 8
  let base := x.ofs + m * x.row
  if w = 4 then (base + c / 2, 1)
  else if w = 6 then (base + 24 * (c / 32) + 6 * (c % 32) / 8, 1 + (6 * (c % 32) % 8 + 5) / 8)
  else (base + c * (w / 8), w / 8)

/-- The scale byte of element (m, c). -/
def Strm.scaleAt (x : Strm) (cols m c : Nat) : Nat := x.sc + m * ((cols + 31) / 32) + c / 32

/-- The value of a stream element, before it is put into a type (R212). -/
def Strm.value (x : Strm) (s : State) (u cols m c : Nat) : Val :=
  match Fmt.ofCode x.fmt with
  | none => .nan
  | some f =>
    let v := f.decode (s.elem u f.bits (x.ofs + m * x.row) c)
    if x.scaled then
      match scaleExp (s.spadByte u (x.scaleAt cols m c)).toNat with
      | some e => v.shift e
      | none => .nan
    else v

/-- The bytes of one element replaced in the bytes around it. -/
def State.elemBytes (s : State) (u w base c code : Nat) : Nat × List Byte :=
  if w = 4 then
    let o := base + c / 2
    let b := (s.spadByte u o).toNat
    (o, natToBytes 1 (if c % 2 = 0 then b / 16 * 16 + code % 16 else b % 16 + code % 16 * 16))
  else if w = 6 then
    let bit := 6 * (c % 32)
    let o := base + 24 * (c / 32) + bit / 8
    let k := 1 + (bit % 8 + 5) / 8
    let b := s.spadNat u o k
    let old := b / 2 ^ (bit % 8) % 64
    (o, natToBytes k (b - old * 2 ^ (bit % 8) + code % 64 * 2 ^ (bit % 8)))
  else (base + c * (w / 8), natToBytes (w / 8) code)

/-- One element is written. -/
def Run.put (r : Run) (k : RunCfg) (w base c code : Nat) : Run :=
  let p := r.s.elemBytes k.u w base c code
  match r.s.vecWrite k.u p.1 p.2 r.cyc k.ctx with
  | (true, s) => { r with s := s, fail := some .uncorrectable }
  | (false, s) => { r with s := s }

/-- A register takes a value. -/
def LaneSt.set (l : LaneSt) (rd x : Nat) : LaneSt := { l with v := l.v.set rd x }

/-- A register's value. -/
def LaneSt.get (l : LaneSt) (r : Nat) : Nat := l.v.getD r 0

/-- Whether a lane is active for an instruction (R202). -/
def LaneSt.active (l : LaneSt) (i : LInstr) : Bool :=
  l.p.getD 0 false && (i.pred == 0 || (l.p.getD (i.pred % 4) false != decide (4 ≤ i.pred)))

/-- The bits of element (m, c) of a stream: the first, and how many. -/
def Strm.elemBits (x : Strm) (m c : Nat) : Nat × Nat :=
  let w := match Fmt.ofCode x.fmt with
    | some f => f.bits
    | none => 8
  (8 * (x.ofs + m * x.row) + (if w = 6 then 192 * (c / 32) + 6 * (c % 32) else w * c), w)

/-- Whether another element than `e` may store some of `n` bits from `b` on, in a stream that an ST names: an element's bits
or another block's scale. Loads and stores of the same bytes by different elements are unordered (R213).
DESIGN CHOICE, log 31. -/
def RunCfg.otherStores (k : RunCfg) (e b n : Nat) : Bool :=
  let meets := fun (a w : Nat) => decide (a < b + n) && decide (b < a + w)
  (((k.prog.code.filter (fun i => i.op == 0x09)).map (fun i => i.rs3 % 8)).dedup).any (fun t =>
    let y := k.prog.stream t
    (List.range k.rows).any (fun m =>
      (meets (8 * (y.ofs + m * y.row)) (64 * k.cols) && (List.range k.cols).any (fun c =>
        m * k.cols + c != e && meets (y.elemBits m c).1 (y.elemBits m c).2))
      || (y.scaled && (List.range ((k.cols + 31) / 32)).any (fun j =>
        !(m == e / k.cols && j == e % k.cols / 32) && meets (8 * y.scaleAt k.cols m (32 * j)) 8))))

/-- The last element of a block of a row. -/
def RunCfg.blockEnd (k : RunCfg) (m b : Nat) : Nat := m * k.cols + min (32 * b + 31) (k.cols - 1)

/-- The bytes that a block of a row of a block-scaled stream and its scale take. -/
def RunCfg.blockSpans (k : RunCfg) (x : Strm) (m b : Nat) : List Span :=
  (((List.range 32).map (32 * b + ·)).filter (· < k.cols)).map (x.elemSpan m) ++ [(x.scaleAt k.cols m (32 * b), 1)]

/-- Whether a range holds a byte. -/
def Span.has (r : Span) (o : Nat) : Bool := decide (r.1 ≤ o) && decide (o < r.1 + r.2)

/-- The bytes of ranges that a block still pending takes whose last batch is still to come (R213). -/
def Run.pendingBytes (r : Run) (k : RunCfg) (rs : List Span) : List Nat :=
  let ps := (r.pend.filter (fun p => decide (r.last < k.blockEnd p.m p.b))).flatMap (fun p =>
    k.blockSpans (k.prog.stream ((k.prog.code.getD p.t ⟨0, 0, 0, 0, 0, 0, 0⟩).rs3 % 8)) p.m p.b)
  ((rs.flatMap (fun a => (List.range a.2).map (a.1 + ·))).dedup).filter (fun o => ps.any (fun p => p.has o))

/-- A scratchpad as it would be with another byte. -/
def State.withByte (s : State) (u o : Nat) (b : Byte) : State :=
  let bs := s.spadBytes u (8 * (o / 8)) 8
  (s.setErr (spadErrKey u (8 * (o / 8))) 0).spadPutBytes u (8 * (o / 8)) (bs.set (o % 8) b)

/-- What a load takes a pending byte's final value to be: a free value, the same at each load. -/
def Run.guessByte (r : Run) (o : Nat) : Byte × Run :=
  match lookupKey r.guess o with
  | some b => (b, r)
  | none =>
    let n := r.s.takeFresh
    let b := BitVec.ofNat 8 (Config.freeWord n.1).toNat
    (b, { r with s := n.2, guess := insertKey r.guess o b })

/-- The machine a load sees that takes pending bytes as they are finally stored. -/
def Run.foresee (r : Run) (k : RunCfg) : List Nat → State × Run
  | [] => (r.s, r)
  | o :: os =>
    let g := r.guessByte o
    let x := Run.foresee g.2 k os
    (x.1.withByte k.u o g.1, x.2)

/-- A load by element `e` of element (m, c) as the instruction's type (R213). A byte of a block that is stored in a later
batch reads as it stood or as it is finally stored, by a free choice; what a load took for the final bytes is held against
them when they are stored. A byte that another element stores is unordered: a free value. DESIGN CHOICE, log 31. -/
def Run.load (r : Run) (k : RunCfg) (i : LInstr) (e m c : Nat) : Nat × Run :=
  let x := k.prog.stream (i.rs3 % 8)
  let rs : List Span := x.elemSpan m c :: (if x.scaled then [(x.scaleAt k.cols m c, 1)] else [])
  match r.s.spadConsume k.u rs k.ctx (locUnit k.u 2) with
  | (true, s) => (0, { r with s := s, fail := some .uncorrectable })
  | (false, s) =>
    let r := { r with s := s }
    if k.otherStores e (x.elemBits m c).1 (x.elemBits m c).2 || (x.scaled && k.otherStores e (8 * x.scaleAt k.cols m c) 8) then
      let n := s.takeFresh
      ((Config.freeWord n.1).toNat % 2 ^ typeBits i.ty, { r with s := n.2 })
    else
      let later := r.pendingBytes k rs
      if k.old || later.isEmpty then (putType i.ty (x.value s k.u k.cols m c), r)
      else
        let n := s.takeFresh
        let r := { r with s := n.2 }
        if (Config.freeWord n.1).toNat % 2 = 0 then (putType i.ty (x.value s k.u k.cols m c), r)
        else
          let y := r.foresee k later
          (putType i.ty (x.value y.1 k.u k.cols m c), y.2)

/-- A reduction register takes an operand (R209). -/
def Run.reduce (r : Run) (i : LInstr) (m : Nat) (x : Val) : Run :=
  let key := 4 * m + i.rd % 4
  let old := lookupKey r.red key
  let new : Accord ⊕ Val :=
    match i.op, old with
    | 0x3C, some (.inl a) => .inl (a.add x.accord)
    | 0x3C, _ => .inl ((Accord.fin 0).add x.accord)
    | 0x3D, some (.inr y) => .inr (y.max x)
    | 0x3E, some (.inr y) => .inr (y.min x)
    | _, _ => .inr x
  { r with red := insertKey r.red key new }

/-- One instruction on one active lane, stores apart. -/
def stepLane (k : RunCfg) (i : LInstr) (ord : Nat) (r : Run) (l : LaneSt) : LaneSt × Run :=
  let m := l.i / k.cols
  let c := l.i % k.cols
  let a := l.get i.rs1
  let b := l.get i.rs2
  let raw := fun (x : Nat) => l.set i.rd (x % 2 ^ typeBits i.ty)
  match i.op with
  | 0x00 => (l, r)
  | 0x01 => (raw a, r)
  | 0x02 => (raw (k.prog.pool.getD i.rs3 0), r)
  | 0x03 => (raw c, r)
  | 0x04 => (raw m, r)
  | 0x08 => let x := r.load k i l.i m c; (l.set i.rd x.1, x.2)
  | 0x0B => let x := r.load k i l.i m 0; (l.set i.rd x.1, x.2)
  | 0x0A =>
    if k.cols ≤ a % 2 ^ 32 then (l, { r with fail := some .indexRange })
    else let x := r.load k i l.i m (a % 2 ^ 32); (l.set i.rd x.1, x.2)
  | 0x38 => ({ l with p := l.p.set (i.rd % 4) (compare' i.rs3 i.ty a b) }, r)
  | 0x39 => (raw (if l.p.getD (i.rs3 % 4) false then a else b), r)
  | 0x3A =>
    let x := (typeFmt i.ty).convert k.rnd (k.draw.at' k.rnd (l.i * (k.prog.code.filter LInstr.converts).length + ord)) (typeVal i.rs3 a)
    (l.set i.rd x.1, { r with flags := r.flags ||| x.2 })
  | 0x3C | 0x3D | 0x3E => (l, r.reduce i m (typeVal i.ty a))
  | op =>
    if (op = 0x16 ∨ op = 0x17) ∧ i.ty = 3 ∧ a % 2 ^ 32 = 2 ^ 31 then
      -- the spec states no result for the absolute value or the negation of -2^31: a free value
      let n := r.s.takeFresh
      (l.set i.rd ((Config.freeWord n.1).toNat % 2 ^ 32), { r with s := n.2 })
    else if 0x20 ≤ op ∧ op ≤ 0x28 then (l.set i.rd (roundF32 ((funOf op).apply (typeVal 0 a))), r)
    else if 0x30 ≤ op then (l.set i.rd (logic op i.ty a b), r)
    else (l.set i.rd (arith op i.ty a b (l.get i.rs3)), r)

/-- One instruction on the lanes of a batch, in ascending element number; a fault stops it (R202, R203). -/
def stepLanes (k : RunCfg) (i : LInstr) (ord : Nat) : Run → List LaneSt → List LaneSt × Run
  | r, [] => ([], r)
  | r, l :: ls =>
    if r.fail.isSome then (l :: ls, r)
    else
      let x := if l.active i then stepLane k i ord r l
        else if i.op = 0x0A ∧ k.cols ≤ l.get i.rs1 % 2 ^ 32 then
          (l, { r with suppr := r.suppr + 1, flags := r.flags ||| flagSuppressed })
        else (l, r)
      let y := stepLanes k i ord x.2 ls
      (x.1 :: y.1, y.2)

/-- A store for element `e` of bits that another element stores too is unordered (R213): whether it is the one that lasts
is open. DESIGN CHOICE, log 31. -/
def Run.putShared (r : Run) (k : RunCfg) (e b w base c code : Nat) : Run :=
  if k.otherStores e b w then
    let f := r.s.takeFresh
    if (Config.freeWord f.1).toNat % 2 = 1 then { r with s := f.2 }.put k w base c code else { r with s := f.2 }
  else r.put k w base c code

/-- A block of a block-scaled stream is converted and written, its scale with it (R128, R212). -/
def Run.putBlock (r : Run) (k : RunCfg) (x : Strm) (f : Fmt) (m b : Nat) (lanes : List (Nat × Val × Nat)) : Run :=
  let y := blockConvert f k.rnd (lanes.map (·.2.1)) (lanes.map (·.2.2))
  let r := { r with flags := r.flags ||| y.2.2 }
  let r := (lanes.zip y.2.1).foldl (fun (r : Run) p =>
    if r.fail.isSome then r
    else r.putShared k (m * k.cols + p.1.1) (x.elemBits m p.1.1).1 f.bits (x.ofs + m * x.row) p.1.1 p.2) r
  if r.fail.isSome then r
  else r.putShared k (m * k.cols + 32 * b) (8 * x.scaleAt k.cols m (32 * b)) 8 (x.scaleAt k.cols m (32 * b)) 0 y.1

/-- A pending block is stored: what loads took its bytes to be is held against what they are (R213). -/
def Run.verify (r : Run) (k : RunCfg) (x : Strm) (m b : Nat) : Run :=
  let cs := k.blockSpans x m b
  let mine := r.guess.filter (fun g => cs.any (fun c => c.has g.1))
  { r with guess := r.guess.filter (fun g => !cs.any (fun c => c.has g.1))
           wrong := r.wrong || mine.any (fun g => r.s.spadByte k.u g.1 != g.2) }

/-- A store to a plain stream (R212). -/
def Run.putPlain (r : Run) (k : RunCfg) (x : Strm) (f : Fmt) (lanes : List (Nat × Val × Nat)) : Run :=
  lanes.foldl (fun (r : Run) p =>
    if r.fail.isSome then r
    else
      let y := f.convert k.rnd p.2.2 p.2.1
      ({ r with flags := r.flags ||| y.2 }).putShared k p.1 (x.elemBits (p.1 / k.cols) (p.1 % k.cols)).1 f.bits
        (x.ofs + p.1 / k.cols * x.row) (p.1 % k.cols) y.1) r

/-- A store to a block-scaled stream: each block of the batch, with what earlier batches stored in it; a block whose last
column is still to come stays pending (R212, R213). -/
def Run.putScaled (r : Run) (k : RunCfg) (x : Strm) (f : Fmt) (t : Nat) (lanes : List (Nat × Val × Nat)) (blocks : List (Nat × Nat)) : Run :=
  blocks.foldl (fun (r : Run) mb =>
    if r.fail.isSome then r
    else
      let here := (lanes.filter (fun p => p.1 / k.cols = mb.1 ∧ p.1 % k.cols / 32 = mb.2)).map (fun p => (p.1 % k.cols, p.2))
      let old := (r.pend.filter (fun p => p.t = t ∧ p.m = mb.1 ∧ p.b = mb.2)).flatMap (·.lanes)
      let r := { r with pend := r.pend.filter (fun p => !(p.t = t && p.m = mb.1 && p.b = mb.2)) }
      let all := old ++ here
      if r.last < k.blockEnd mb.1 mb.2 then
        (if all.isEmpty then r else { r with pend := r.pend ++ [⟨t, mb.1, mb.2, all⟩] })
      else if all.isEmpty then r
      else (r.putBlock k x f mb.1 mb.2 all).verify k x mb.1 mb.2) r

/-- An ST on the lanes of a batch. -/
def Run.store (r : Run) (k : RunCfg) (t ord : Nat) (i : LInstr) (ls : List LaneSt) : Run :=
  let x := k.prog.stream (i.rs3 % 8)
  let S := (k.prog.code.filter LInstr.converts).length
  let lanes := (ls.filter (fun l => l.active i)).map (fun l => (l.i, typeVal i.ty (l.get i.rs1), k.draw.at' k.rnd (l.i * S + ord)))
  match Fmt.ofCode x.fmt with
  | none => r
  | some f =>
    if x.scaled then
      let blocks := (ls.map (fun l => (l.i / k.cols, l.i % k.cols / 32))).dedup
      r.putScaled k x f t lanes blocks
    else r.putPlain k x f lanes

/-- A batch: every instruction in program order for all its lanes, with the last cycle in which it issues (R208). `t` is the
instruction's index, `ord` its ordinal among those that convert. -/
def runBatch (k : RunCfg) : Nat → Nat → List (LInstr × Nat) → Run → List LaneSt → Run
  | _, _, [], r, _ => r
  | t, ord, (i, cyc) :: is, r, ls =>
    if r.fail.isSome then r
    else
      let r := { r with cyc := cyc }
      let ord' := if i.converts then ord + 1 else ord
      if i.op = 0x09 then runBatch k (t + 1) ord' is (r.store k t ord i ls) ls
      else
        let x := stepLanes k i ord r ls
        runBatch k (t + 1) ord' is x.2 x.1

/-- A lane at the start of its element (R201). -/
def RunCfg.lane (k : RunCfg) (s : State) (mask : Option Nat) (i : Nat) : LaneSt :=
  let on := match mask with
    | some o => natBit (s.spadByte k.u (o + i / k.cols * ((k.cols + 7) / 8) + i % k.cols / 8)).toNat (i % k.cols % 8)
    | none => true
  { i := i, v := List.replicate 24 0 ++ (List.range 8).map (fun j => k.prog.pool.getD j 0), p := [on, false, false, false] }

/-- The stores of a faulting batch may be partly made (R203): of every scratchpad byte that the batch changed, and of every
word's inverted bits, whether the old or the new stands is open. DESIGN CHOICE, log 32. -/
def State.partStores (old s : State) : State :=
  let ks := (((old.spad ++ s.spad).map (·.1)).dedup).filter (fun k => Sparse.get 0 old.spad k != Sparse.get 0 s.spad k)
  let ws := (((old.errs ++ s.errs).map (·.1)).dedup).filter (fun w => Sparse.get 0 old.errs w != Sparse.get 0 s.errs w)
  let s := ks.foldl (fun s k =>
    let f := s.takeFresh
    if (Config.freeWord f.1).toNat % 2 = 1 then f.2 else { f.2 with spad := Sparse.set id 0 f.2.spad k (Sparse.get 0 old.spad k) }) s
  ws.foldl (fun s w =>
    let f := s.takeFresh
    if (Config.freeWord f.1).toNat % 2 = 1 then f.2 else f.2.setErr w (Sparse.get 0 old.errs w)) s

/-! ## Cycles (R208) -/

/-- The registers and predicates an instruction reads: registers 0 to 31, predicates as 32 to 35. -/
def LInstr.sources (i : LInstr) : List Nat :=
  match opRow i.op with
  | none => []
  | some o =>
    (if o.rs1 then [i.rs1] else []) ++ (if o.rs2 then [i.rs2] else []) ++ (if o.rs3 then [i.rs3] else [])
      ++ (if i.pred = 0 then [] else [32 + i.pred % 4]) ++ (if i.op = 0x39 then [32 + i.rs3 % 4] else [])

/-- What an instruction's result makes ready. -/
def LInstr.dest (i : LInstr) : Option Nat :=
  if i.op = 0x38 then some (32 + i.rd % 4)
  else match opRow i.op with
    | some o => if o.rd = 5 then some i.rd else none
    | none => none

/-- The issue of a batch of `g` groups, instruction by instruction, from the batch's first cycle: the cycle from which it
could issue but for its sources, the cycle it begins, and the cycle after its last. A full batch never stalls. -/
def batchTimes (g : Nat) (code : List LInstr) : List (Nat × Nat × Nat) :=
  (code.foldl (fun (x : Nat × List (Nat × Nat) × List (Nat × Nat × Nat)) i =>
    let ready := if g = 8 then 0 else (i.sources.map (fun r => (lookupKey x.2.1 r).getD 0)).foldl max 0
    let st := max x.1 ready
    let rd := match i.dest with
      | some d => insertKey x.2.1 d (st + i.latency)
      | none => x.2.1
    let en := st + (g * i.cost2 + 1) / 2
    (en, rd, x.2.2 ++ [(x.1, st, en)])) (0, [], [])).2.2

/-- The cycles a batch of `g` groups takes: it ends with the issue of its last instruction, without that one's latency; the
spec gives a bound only for a partial batch. DESIGN CHOICE, log 32. -/
def batchCycles (g : Nat) (code : List LInstr) : Nat := ((batchTimes g code).getLast?.map (·.2.2)).getD 0

/-- The groups of batch `b` of a run over `n` elements. -/
def batchGroups (n b : Nat) : Nat := (min 512 (n - 512 * b) + 63) / 64

/-- The first cycle of batch `b` after the cycle its command began in (R208). -/
def batchStart (code : List LInstr) (b : Nat) : Nat := 16 + b * batchCycles 8 code

/-- The cycles of a VEC_RUN over `n` elements (R208). -/
def runCycles (n : Nat) (code : List LInstr) : Nat :=
  batchStart code (n / 512) + (if n % 512 = 0 then 0 else batchCycles (batchGroups n (n / 512)) code)

/-- How a VEC_RUN that began in a cycle completes its elements and where it stalls (R208, R223). -/
def runPlan (start n : Nat) (code : List LInstr) : VecPlan :=
  let o := start + batchStart code (n / 512)
  { elems := n, unit := 512, per := batchCycles 8 code
    stalls := if n % 512 = 0 then []
      else ((batchTimes (batchGroups n (n / 512)) code).filter (fun x => decide (x.1 < x.2.1))).map (fun x => (o + x.1, o + x.2.1)) }

/-- The whole run, batch by batch (R200, R203). Where a batch faults, the lanes that earlier batches stored into a block still
pending are lost with it: the spec does not say what becomes of them. DESIGN CHOICE, log 32. -/
def RunCfg.run (k : RunCfg) (mask : Option Nat) (r : Run) : Run :=
  let n := k.rows * k.cols
  (List.range ((n + 511) / 512)).foldl (fun (r : Run) b =>
    if r.fail.isSome then r
    else
      let o := k.start + batchStart k.prog.code b
      let code := k.prog.code.zip ((batchTimes (batchGroups n b) k.prog.code).map (fun x => o + x.2.2 - 1))
      let is := ((List.range 512).map (512 * b + ·)).filter (· < n)
      let t := runBatch k 0 0 code { r with last := min n (512 * (b + 1)) - 1 } (is.map (k.lane r.s mask))
      if t.fail.isSome then { t with s := State.partStores r.s t.s } else t) r

/-- The run with what its loads took for final bytes; where that proved wrong, or the bytes were never stored, the run whose
loads take pending bytes as they stood (R213). So every run is one the rule allows, and each that it allows is one for some
free values. DESIGN CHOICE, log 31. -/
def RunCfg.settled (k : RunCfg) (mask : Option Nat) (r : Run) : Run :=
  let x := k.run mask r
  if x.wrong || !x.guess.isEmpty then { k with old := true }.run mask r else x

/-- The reduction registers a program names, with their opcodes. -/
def LProg.reds (p : LProg) : List (Nat × Nat) := ((p.code.filter LInstr.reduces).map (fun i => (i.rd % 4, i.op))).dedup

/-- The bytes a reduction register is written as, with the flags of its conversion (R209, R210). The rounding of an I32
maximum or minimum that FP32 does not hold exactly is not stated: RNE. DESIGN CHOICE, log 30. -/
def redBytes (raw : Bool) (op : Nat) (x : Option (Accord ⊕ Val)) : List Byte × Nat :=
  match op, x with
  | 0x3C, some (.inl a) =>
    if raw then (natToBytes 80 a.word.toNat, 0) else (let y := Fmt.f32.convert .rne 0 a.val; (natToBytes 4 y.1, y.2))
  | 0x3C, _ => (natToBytes (if raw then 80 else 4) 0, 0)
  | _, some (.inr v) => (let y := Fmt.f32.convert .rne 0 v; (natToBytes 4 y.1, y.2))
  | op, _ => (natToBytes 4 (Fmt.f32.convert .rne 0 (.inf (op == 0x3D))).1, 0)

/-- The reduction registers are written at the end of the command. -/
def RunCfg.writeReds (k : RunCfg) (ofs : Nat) (raw : Bool) (r : Run) : Run :=
  (List.range k.rows).foldl (fun (r : Run) m => (k.prog.reds).foldl (fun (r : Run) q =>
    if r.fail.isSome then r
    else
      let x := redBytes raw q.2 (lookupKey r.red (4 * m + q.1))
      match r.s.vecWrite k.u (ofs + (4 * m + q.1) * (if raw then 80 else 4)) x.1 r.cyc k.ctx with
      | (true, s) => { r with s := s, fail := some .uncorrectable }
      | (false, s) => { r with s := s, flags := r.flags ||| x.2 }) r) r

end Sys2Proof.Machine
end

