-- ==== Sys2Proof/Machine/Vector.lean ====
section
/-! DEFINITION. The vector engine's commands: their beginning and checks (R215, R216), VEC_RUN (R214), SOFTMAX (R217 to
R220), POOL (R241 to R246), REGROUP (R247 to R251), and their completion. -/

namespace Sys2Proof.Machine

/-! ## VEC_RUN's body and checks (R214, R215) -/

/-- The fields of a VEC_RUN body. -/
structure VecRun where
  prog : Nat
  icnt : Nat
  rows : Nat
  cols : Nat
  table : Nat
  maskOfs : Nat
  mask : Bool
  redOfs : Nat
  raw : Bool
  rnd : Nat
  slot : Nat
  stream : Nat
  ctr : Nat
  deriving DecidableEq, Repr

/-- The VEC_RUN layout's fields (R214). -/
def vecRunFields : List (Nat × Nat × Nat) :=
  [(16, 28, 0), (20, 31, 0), (24, 31, 0), (28, 20, 0), (32, 21, 0), (36, 21, 0), (40, 7, 0), (48, 63, 0), (56, 63, 0)]

/-- The VEC_RUN of an entry. -/
def VecRun.of (e : BitVec 512) : VecRun :=
  { prog := entBits e 16 20 0, icnt := entBits e 16 28 21 + 1, rows := entBits e 20 31 0, cols := entBits e 24 31 0,
    table := entBits e 28 20 0, maskOfs := entBits e 32 20 0, mask := entBit e 32 21, redOfs := entBits e 36 20 0,
    raw := entBit e 36 21, rnd := entBits e 40 1 0, slot := entBits e 40 7 2, stream := bvBytes e 48 8, ctr := bvBytes e 56 8 }

/-- Bytes of a program image. -/
def VecRun.image (d : VecRun) : Nat := 256 + 4 * d.icnt

/-- A program from the bytes of its image and of its stream table (R206, R211). -/
def LProg.of (image table : List Byte) : LProg :=
  let n := fun (bs : List Byte) (o k : Nat) => bytesToNat ((bs.drop o).take k)
  { pool := (List.range 32).map (fun i => n image (8 * i) 8),
    code := (List.range ((image.length - 256) / 4)).map (fun i => LInstr.of (n image (256 + 4 * i) 4)),
    streams := (List.range 8).map (fun i => Strm.of (n table (16 * i) 8) (n table (16 * i + 8) 8)) }

/-- Whether a stream is only read by LDS. -/
def LProg.ldsOnly (p : LProg) (n : Nat) : Bool := p.code.all (fun i => i.stream != some n || i.op == 0x0B)

/-- Whether a stream is stored to. -/
def LProg.stored (p : LProg) (n : Nat) : Bool := p.code.any (fun i => i.stream == some n && i.op == 0x09)

/-- The ranges of a used stream. -/
def VecRun.streamSpans (d : VecRun) (p : LProg) (n : Nat) : List Span :=
  let x := p.stream n
  let k := if p.ldsOnly n then 1 else d.cols
  (List.range d.rows).flatMap (fun m => (x.ofs + m * x.row, outBytes x.fmt k)
    :: (if x.scaled then [(x.scaleAt d.cols m 0, (k + 31) / 32)] else []))

/-- The ranges of a VEC_RUN's mask. -/
def VecRun.maskSpans (d : VecRun) : List Span := if d.mask then [(d.maskOfs, d.rows * ((d.cols + 7) / 8))] else []

/-- The ranges of a VEC_RUN (check 8 of R215). -/
def VecRun.spans (d : VecRun) (p : LProg) : List Span :=
  [(d.prog, d.image), (d.table, 128)] ++ d.maskSpans ++ p.used.flatMap (d.streamSpans p)
    ++ (List.range d.rows).flatMap (fun m => p.reds.map (fun q =>
      (d.redOfs + (4 * m + q.1) * (if d.raw then 80 else 4), if d.raw && q.2 == 0x3C then 80 else 4)))

/-- What checks give: a status, a shape with nothing to do, or a command to run. -/
inductive Checked where
  | fails (st : Status)
  | empty
  | runs
  deriving DecidableEq, Repr

/-- The checks of R215. -/
def VecRun.check (d : VecRun) (e : BitVec 512) (p : LProg) : Checked :=
  let used := p.used.map p.stream
  if bodyBad e vecRunFields || used.any (·.bad) then .fails .reservedField
  else if d.rnd == 3 || used.any (fun x => (Fmt.ofCode x.fmt).isNone) then .fails .fieldCode
  else if d.prog % 8 ≠ 0 ∨ d.table % 16 ≠ 0 then .fails .fieldValue
  else if !p.legal then .fails .progInvalid
  else if d.rows = 0 ∨ d.cols = 0 then .empty
  else if 65536 < d.rows ∨ 65536 < d.cols ∨ 2 ^ 24 < d.rows * d.cols then .fails .shape
  else if used.any (fun x => scaledBad x.fmt x.scaled) then .fails .formatScale
  else if p.used.any (fun n =>
      let x := p.stream n
      (x.row != 0 && decide (x.row < outBytes x.fmt (if p.ldsOnly n then 1 else d.cols))) || (x.row == 0 && p.stored n)) then
    .fails .stride
  else if !spansFit (d.spans p) then .fails .spadRange
  else .runs

/-! ## SOFTMAX's body and checks (R219) -/

/-- The fields of a SOFTMAX body. -/
structure Softmax where
  inOfs : Nat
  inStride : Nat
  out : Nat
  outStride : Nat
  maskOfs : Nat
  lse : Nat
  stat : Nat
  rows : Nat
  cols : Nat
  temp : Nat
  inFmt : Nat
  outFmt : Nat
  rnd : Nat
  slot : Nat
  mask : Bool
  lseEn : Bool
  stream : Nat
  ctr : Nat
  deriving DecidableEq, Repr

/-- The SOFTMAX layout's fields (R219). -/
def softmaxFields : List (Nat × Nat × Nat) :=
  [(16, 20, 0), (20, 20, 0), (24, 20, 0), (28, 20, 0), (32, 20, 0), (36, 20, 0), (40, 20, 0), (44, 31, 0), (48, 31, 0),
   (52, 17, 0), (56, 31, 0), (60, 31, 0)]

/-- The SOFTMAX of an entry. -/
def Softmax.of (e : BitVec 512) : Softmax :=
  { inOfs := entBits e 16 20 0, inStride := entBits e 20 20 0, out := entBits e 24 20 0, outStride := entBits e 28 20 0,
    maskOfs := entBits e 32 20 0, lse := entBits e 36 20 0, stat := entBits e 40 20 0, rows := entBits e 44 15 0 + 1,
    cols := entBits e 44 31 16 + 1, temp := entBits e 48 31 0, inFmt := entBits e 52 3 0, outFmt := entBits e 52 7 4,
    rnd := entBits e 52 9 8, slot := entBits e 52 15 10, mask := entBit e 52 16, lseEn := entBit e 52 17,
    stream := entBits e 56 31 0, ctr := entBits e 60 31 0 }

/-- The ranges a SOFTMAX reads. -/
def Softmax.reads (d : Softmax) : List Span :=
  (List.range d.rows).map (fun m => (d.inOfs + m * d.inStride, rowSpan d.inFmt d.cols))
    ++ (if d.mask then [(d.maskOfs, d.rows * ((d.cols + 7) / 8))] else [])

/-- The ranges a SOFTMAX writes. -/
def Softmax.writes (d : Softmax) : List Span :=
  (List.range d.rows).map (fun m => (d.out + m * d.outStride, rowSpan d.outFmt d.cols))
    ++ (if d.lseEn then [(d.lse, 4 * d.rows)] else []) ++ [(d.stat, d.rows)]

/-- The checks of R219. -/
def Softmax.check (d : Softmax) (e : BitVec 512) : Checked :=
  let t := Fmt.f32.decode d.temp
  if bodyBad e softmaxFields then .fails .reservedField
  else if d.rnd = 3 then .fails .fieldCode
  else if !([7, 8, 10].contains d.inFmt) || !([3, 4, 7, 8, 10].contains d.outFmt) then .fails .formatCode
  else if 2 ^ 24 < d.rows * d.cols then .fails .shape
  else if !t.isFin || t.isNeg || t.mag.1 == 0 then .fails .fieldValue
  else if d.inStride < rowSpan d.inFmt d.cols ∨ d.outStride < rowSpan d.outFmt d.cols then .fails .stride
  else if !spansFit (d.reads ++ d.writes) then .fails .spadRange
  else .runs

/-! ## POOL's body and checks (R244, R245) -/

/-- The formats of POOL and REGROUP. -/
def poolFormats : List Nat := [3, 4, 6, 7, 8, 10]

/-- The fields of a POOL body. -/
structure Pool where
  src : Tile
  dst : Tile
  op : Bool
  pad : Bool
  rnd : Nat
  edge : Nat
  r : Nat
  s : Nat
  sh : Nat
  sw : Nat
  slot : Nat
  th : Nat
  tw : Nat
  by' : Int
  bx : Int
  oth : Nat
  otw : Nat
  stream : Nat
  ctr : Nat
  deriving DecidableEq, Repr

/-- The POOL layout's fields (R244). -/
def poolFields : List (Nat × Nat × Nat) :=
  [(16, 26, 0), (20, 24, 0), (24, 30, 0), (28, 26, 0), (32, 20, 0), (36, 26, 0), (40, 23, 0), (44, 23, 0), (48, 31, 0),
   (52, 23, 0), (56, 31, 0), (60, 31, 0)]

/-- The POOL of an entry. -/
def Pool.of (e : BitVec 512) : Pool :=
  { src := { layout := entBits e 16 22 21, ofs := entBits e 16 20 0, row := entBits e 20 20 0, plane := entBits e 24 20 0,
             code := entBits e 40 19 16, c := entBits e 40 15 0 },
    dst := { layout := entBits e 16 22 21, ofs := entBits e 28 20 0, row := entBits e 32 20 0, plane := entBits e 36 20 0,
             code := entBits e 40 23 20, c := entBits e 40 15 0 },
    op := entBit e 16 23, pad := entBit e 16 24, rnd := entBits e 16 26 25, edge := entBits e 20 24 21,
    r := entBits e 24 25 21, s := entBits e 24 30 26, sh := entBits e 28 23 21 + 1, sw := entBits e 28 26 24 + 1,
    slot := entBits e 36 26 21, th := entBits e 44 11 0, tw := entBits e 44 23 12, by' := signedOf 16 (entBits e 48 15 0),
    bx := signedOf 16 (entBits e 48 31 16), oth := entBits e 52 11 0, otw := entBits e 52 23 12,
    stream := entBits e 56 31 0, ctr := entBits e 60 31 0 }

/-- The positions of an output pixel's window (R241). -/
def Pool.window (d : Pool) (oy ox : Nat) : List (Int × Int) :=
  (List.range (d.r * d.s)).map (fun t => (d.by' + (oy * d.sh + t / d.s : Nat), d.bx + (ox * d.sw + t % d.s : Nat)))

/-- The output pixels. -/
def Pool.pixels (d : Pool) : List (Nat × Nat) := (List.range (d.oth * d.otw)).map (fun i => (i / d.otw, i % d.otw))

/-- The inside pixels of a window. -/
def Pool.inside (d : Pool) (oy ox : Nat) : List (Nat × Nat) :=
  ((d.window oy ox).filter (fun p => placeOf d.edge d.th d.tw p.1 p.2 == .inside)).map (fun p => (p.1.toNat, p.2.toNat))

/-- The channels written to a tile: whole blocks in the native layout (R243, R248). -/
def Tile.written (t : Tile) : Nat := if t.layout = 0 then (t.c + 31) / 32 * 32 else t.c

/-- The ranges written to one pixel of a tile. -/
def Tile.pixelOut (t : Tile) (y x : Nat) : List Span :=
  match t.layout with
  | 0 => (List.range ((t.c + 31) / 32)).map (fun b => ((t.at y x (32 * b)).1, b32 t.code))
  | _ => t.pixel y x

/-- The ranges a POOL reads. -/
def Pool.reads (d : Pool) : List Span :=
  ((d.pixels.flatMap (fun p => d.inside p.1 p.2)).dedup).flatMap (fun p => d.src.pixel p.1 p.2)

/-- The ranges a POOL writes. -/
def Pool.writes (d : Pool) : List Span := d.pixels.flatMap (fun p => d.dst.pixelOut p.1 p.2)

/-- The checks of R245. DEDUCED, log 33. -/
def Pool.check (d : Pool) (e : BitVec 512) : Checked :=
  if bodyBad e poolFields then .fails .reservedField
  else if d.src.layout = 3 ∨ d.rnd = 3 then .fails .fieldCode
  else if !poolFormats.contains d.src.code || !poolFormats.contains d.dst.code then .fails .formatCode
  else if d.src.layout = 2 then .fails .layoutFormat
  else if d.r = 0 ∨ 15 < d.r ∨ d.s = 0 ∨ 15 < d.s then .fails .filterSize
  else if d.oth = 0 ∨ d.otw = 0 ∨ d.src.c = 0 then .empty
  else if d.th = 0 ∨ d.tw = 0 ∨ 2 ^ 24 < d.oth * d.otw * d.src.c then .fails .shape
  else if d.pixels.any (fun p => (d.window p.1 p.2).any (fun w => placeOf d.edge d.th d.tw w.1 w.2 == .out)) then
    .fails .window
  else if d.src.shortStride d.th d.tw || d.dst.shortStride d.oth d.otw then .fails .stride
  else if !spansFit (d.reads ++ d.writes) then .fails .spadRange
  else .runs

/-! ## REGROUP's body and checks (R247 to R250) -/

/-- The fields of a REGROUP body. -/
structure Regroup where
  src : Tile
  dst : Tile
  dir : Bool
  f : Nat
  h : Nat
  w : Nat
  deriving DecidableEq, Repr

/-- The REGROUP layout's fields (R249). -/
def regroupFields : List (Nat × Nat × Nat) :=
  [(16, 27, 0), (20, 20, 0), (24, 20, 0), (28, 20, 0), (32, 20, 0), (36, 20, 0), (40, 19, 0), (44, 31, 0)]

/-- The REGROUP of an entry. -/
def Regroup.of (e : BitVec 512) : Regroup :=
  let f := 2 ^ entBits e 16 27 26
  let c := entBits e 40 15 0
  let code := entBits e 40 19 16
  let dir := entBit e 16 25
  { src := { layout := entBits e 16 22 21, ofs := entBits e 16 20 0, row := entBits e 20 20 0, plane := entBits e 24 20 0,
             code := code, c := c },
    dst := { layout := entBits e 16 24 23, ofs := entBits e 28 20 0, row := entBits e 32 20 0, plane := entBits e 36 20 0,
             code := code, c := if dir then c / (f * f) else c * (f * f) },
    dir := dir, f := f, h := entBits e 44 15 0, w := entBits e 44 31 16 }

/-- Output rows. -/
def Regroup.oh (d : Regroup) : Nat := if d.dir then d.h * d.f else (d.h + d.f - 1) / d.f
/-- Output columns. -/
def Regroup.ow (d : Regroup) : Nat := if d.dir then d.w * d.f else (d.w + d.f - 1) / d.f

/-- The input element an output element takes; none where R247 supplies +0. -/
def Regroup.from' (d : Regroup) (y x c : Nat) : Option (Nat × Nat × Nat) :=
  if d.dst.c ≤ c then none
  else if d.dir then some (y / d.f, x / d.f, (y % d.f * d.f + x % d.f) * d.dst.c + c)
  else
    let k := c / d.src.c
    let iy := y * d.f + k / d.f
    let ix := x * d.f + k % d.f
    if iy < d.h ∧ ix < d.w then some (iy, ix, c % d.src.c) else none

/-- The ranges a REGROUP reads. -/
def Regroup.reads (d : Regroup) : List Span := (List.range (d.h * d.w)).flatMap (fun i => d.src.pixel (i / d.w) (i % d.w))

/-- The ranges a REGROUP writes. -/
def Regroup.writes (d : Regroup) : List Span :=
  (List.range (d.oh * d.ow)).flatMap (fun i => d.dst.pixelOut (i / d.ow) (i % d.ow))

/-- Whether two lists of ranges, each in rising order, share a byte. -/
def spansMeet : Nat → List Span → List Span → Bool
  | 0, _, _ => false
  | _, [], _ => false
  | _, _, [] => false
  | k + 1, a :: as, b :: bs =>
    if a.1 + a.2 ≤ b.1 then spansMeet k as (b :: bs)
    else if b.1 + b.2 ≤ a.1 then spansMeet k (a :: as) bs
    else if a.2 = 0 then spansMeet k as (b :: bs)
    else if b.2 = 0 then spansMeet k (a :: as) bs
    else true

/-- Ranges in rising order. -/
def sortSpans (rs : List Span) : List Span := sortBy (fun a b => decide (a.1 ≤ b.1)) rs

/-- The checks of R250. DEDUCED, log 33. -/
def Regroup.check (d : Regroup) (e : BitVec 512) : Checked :=
  if bodyBad e regroupFields then .fails .reservedField
  else if d.src.layout = 3 ∨ d.dst.layout = 3 then .fails .fieldCode
  else if !poolFormats.contains d.src.code then .fails .formatCode
  else if d.dir && d.src.c % (d.f * d.f) != 0 then .fails .fieldValue
  else if d.src.c = 0 ∨ d.h = 0 ∨ d.w = 0 then .empty
  else if 2 ^ 24 < d.oh * d.ow * d.dst.c then .fails .shape
  else if d.src.shortStride d.h d.w || d.dst.shortStride d.oh d.ow then .fails .stride
  else if !spansFit (d.reads ++ d.writes) then .fails .spadRange
  else if spansMeet (d.reads.length + d.writes.length) (sortSpans d.reads) (sortSpans d.writes) then .fails .overlap
  else .runs

/-! ## Beginning (R216) -/

/-- The checks of a vector command in the cycle it begins, with the bytes a VEC_RUN latches then. Where its image or its table
reaches past the scratchpad, which check 8 finds last, checks 1, 2 and 4 meet zeros in the bytes there: the spec does not
say what they read. DESIGN CHOICE, log 101. -/
def State.vecCheck (s : State) (f : Flight) : Checked × List Byte × List Byte × State :=
  let e := f.entry
  match Ent.opcode e with
  | 0x30 =>
    let d := VecRun.of e
    let im := s.spadBytes f.u d.prog d.image
    let tb := s.spadBytes f.u d.table 128
    match d.check e (LProg.of im tb) with
    | .runs =>
      match s.spadConsume f.u [(d.prog, d.image), (d.table, 128)] f.ctx (locUnit f.u 2) with
      | (true, s) => (.fails .uncorrectable, [], [], s)
      | (false, s) => (.runs, im, tb, s)
    | c => (c, [], [], s)
  | 0x31 => ((Softmax.of e).check e, [], [], s)
  | 0x32 => ((Pool.of e).check e, [], [], s)
  | _ => ((Regroup.of e).check e, [], [], s)

/-- Whether the vector engine of a unit may begin a command in a cycle: every earlier one has written its last byte. -/
def State.vecFree (s : State) (f : Flight) (c : Nat) : Bool :=
  (s.before f).all (fun g => !(g.eng == .vec && (match g.stage with
    | .issued => true
    | .running _ => decide (c < g.doneAt)
    | _ => false)))

/-- VEC_COMMAND_BEGIN (R215, R216, R219, R245, R250): the oldest waiting vector command of the unit begins in cycle `cyc` and
is checked. -/
def execVecCommandBegin (u : Fin 1024) (q : Fin 128) (cyc : Nat) (s : State) : Host.Outcome State Fault Refusal :=
  let s := s.atCycle u cyc
  let cyc := s.unitCyc u
  match s.flight u q (fun f => f.eng == .vec && f.stage == .issued && !f.begun) with
  | none => .next s
  | some f =>
    if !s.vecFree f cyc then .next s
    else match s.vecCheck f with
    | (.fails st, _, _, s) => .next (s.failCmd f st (locUnit u 2))
    | (.empty, _, _, s) => .next (s.complete f 0 0 (locUnit u 2))
    | (.runs, im, tb, s) =>
      let s := { s with eng := { s.eng with prog := if Ent.opcode f.entry = 0x30 then insertKey s.eng.prog u (im, tb) else s.eng.prog } }
      .next ((s.setFlight u q f.seq (fun g => { g with begun := true, validAt := cyc })).setFld (R.vecSts u) F.vecSts_VEC_BUSY 1)

/-- The begun vector command of a queue with an opcode. -/
def State.vecCmd (s : State) (u q op : Nat) : Option Flight :=
  s.flight u q (fun f => f.eng == .vec && f.stage == .issued && f.begun && Ent.opcode f.entry == op)

/-- A vector command takes so many cycles from the one it began in and completes its elements as its plan says: it runs on
to its completion, and the counters take the cycles that have passed (R216, R223). DEDUCED, log 24. -/
def State.vecRuns (s : State) (f : Flight) (cycles flags : Nat) (plan : VecPlan) : State :=
  let become := fun (g : Flight) => { g with stage := .running 0, doneAt := f.validAt + cycles, detail := flags, plan := plan }
  (s.vecTally (become f) f.validAt (s.unitCyc f.u)).setFlight f.u f.q f.seq become

/-- A vector command fails while it runs. -/
def State.vecFails (s : State) (f : Flight) (st : Status) : State :=
  (s.setFld (R.vecSts f.u) F.vecSts_VEC_BUSY 0).failCmd f st (locUnit f.u 2)

/-- A VEC_RUN fails in a batch, in a cycle: the counters take its earlier batches and the cycles until then (R203, R223). -/
def State.batchFails (s : State) (f : Flight) (st : Status) (plan : VecPlan) (elems cyc : Nat) : State :=
  (s.vecTally { f with doneAt := cyc, plan := { plan with elems := elems } } f.validAt cyc).vecFails f st

/-! ## VEC_RUN -/

/-- An armed injection of the lane registers strikes a run that reads one (R594): the result says whether the word it reads
was uncorrectable. -/
def State.laneInject (s : State) (u ctx : Nat) (p : LProg) : Bool × State :=
  if p.code.any (fun i => match opRow i.op with | some o => o.rs1 | none => false) then
    s.bufferStrike .vec u 0 (locUnit u 2) ctx (locUnit u 2)
  else (false, s)

/-- VEC_RUN (R200 to R215): a begun command runs its latched program over its shape. -/
def execVecRun (u : Fin 1024) (q : Fin 128) (s : State) : Host.Outcome State Fault Refusal :=
  match s.vecCmd u q 0x30 with
  | none => .next s
  | some f =>
    let d := VecRun.of f.entry
    let b := (lookupKey s.eng.prog u).getD ([], [])
    let p := LProg.of b.1 b.2
    let n := d.rows * d.cols
    match Rnd.ofCode d.rnd with
    | none => .next (s.vecFails f .fieldCode)
    | some md =>
      match s.beginDraw md d.slot d.stream d.ctr (n * (p.code.filter LInstr.converts).length) f.ctx with
      | .error st => .next (s.vecFails f st)
      | .ok w =>
        match s.laneInject u f.ctx p with
        | (true, s) => .next (s.vecFails f .uncorrectable)
        | (false, s) =>
          match s.spadConsume u d.maskSpans f.ctx (locUnit u 2) with
          | (true, s) => .next (s.vecFails f .uncorrectable)
          | (false, s) =>
            let k : RunCfg := { u := u, ctx := f.ctx, rows := d.rows, cols := d.cols, prog := p, rnd := md, draw := w,
                                start := f.validAt, old := false }
            let x := k.settled (if d.mask then some d.maskOfs else none)
              { s := s, flags := 0, suppr := 0, red := [], pend := [], fail := none, last := 0, cyc := 0, guess := [], wrong := false }
            let r := if x.fail.isSome then x else k.writeReds d.redOfs d.raw { x with cyc := f.validAt + runCycles n p.code - 1 }
            let s := r.s.addFld (R.vecSupprCnt u) F.vecSupprCnt_COUNT r.suppr
            match r.fail with
            | some st =>
              .next (s.batchFails f st (runPlan f.validAt n p.code) (if x.fail.isSome then x.last / 512 * 512 else n) r.cyc)
            | none => .next (s.vecRuns f (runCycles n p.code) r.flags (runPlan f.validAt n p.code))

/-! ## SOFTMAX (R217, R218) -/

/-- A row's outputs as values, its log-sum-exp and its STAT byte. -/
structure SoftRow where
  out : List Val
  lse : Val
  stat : Nat
  deriving DecidableEq, Repr

/-- A row of SOFTMAX: x′ with whether the position is masked (R217, R218). -/
def softRow (xs : List (Val × Bool)) : SoftRow :=
  let un := (xs.filter (fun p => !p.2)).map (·.1)
  let live := un.filter (fun x => x != .inf true)
  if un.isEmpty then ⟨xs.map (fun _ => .zero), .inf true, 1⟩
  else if un.any Val.isNan then ⟨xs.map (fun _ => .nan), .nan, 2⟩
  else
    let k := (un.filter (fun x => x == .inf false)).length
    if k ≠ 0 then ⟨xs.map (fun p => if !p.2 && p.1 == .inf false then .fin false 1 k else .zero), .inf false, 4⟩
    else match live with
    | [] => ⟨xs.map (fun _ => .zero), .inf true, 0⟩
    | y :: ys =>
      let mu := ys.foldl Val.max y
      let e := fun (x : Val) => Fmt.f32.decode (roundF32 (Fun.exp.apply (toF32 (x.add mu.neg)).1))
      let es := live.map e
      let s32 := (toF32 ((es.map Val.accord).foldl Accord.add (.fin 0)).val).1.mag
      let quot := fun (x : Val) => match e x with
        | .fin _ n d => Val.fin false (n * s32.2) (d * s32.1)
        | z => z
      ⟨xs.map (fun p => if p.2 || p.1 == .inf true then .zero else quot p.1),
       mu.add (Val.ofInt (fxLn s32.1 s32.2) (2 ^ fxW)), 0⟩

/-- The cycles of a row (R220). -/
def Softmax.rowCycles (d : Softmax) : Nat := 24 + 6 * ((d.cols + 63) / 64)

/-- One row is computed and written, in the row's last cycle; the flags join. -/
def Softmax.row (d : Softmax) (u ctx start : Nat) (w : Draw) (md : Rnd) (fi fo : Fmt) (m : Nat) (x : Bool × Nat × State) :
    Bool × Nat × State :=
  if x.1 then x
  else
    let s := x.2.2
    let t := Fmt.f32.decode d.temp
    let xs := (List.range d.cols).map (fun c =>
      ((toF32 ((fi.decode (s.elem u fi.bits (d.inOfs + m * d.inStride) c)).mul t)).1,
        d.mask && !natBit (s.spadByte u (d.maskOfs + m * ((d.cols + 7) / 8) + c / 8)).toNat (c % 8)))
    let r := softRow xs
    let cs := r.out.zipIdx.map (fun p => fo.convert md (w.at' md (m * d.cols + p.2)) p.1)
    let fl := cs.foldl (fun a c => a ||| c.2) (if r.stat = 1 then flagAllMasked else 0)
    let t := start + 16 + (m + 1) * d.rowCycles - 1
    let ws := [(d.out + m * d.outStride, packRow fo.bits (cs.map (·.1)), t)]
      ++ (if d.lseEn then [(d.lse + 4 * m, natToBytes 4 (roundF32 r.lse), t)] else []) ++ [(d.stat + m, natToBytes 1 r.stat, t)]
    let y := s.vecWrites u ctx ws
    (y.1, x.2.1 ||| fl, y.2)

/-- SOFTMAX (R217 to R220). -/
def execSoftmax (u : Fin 1024) (q : Fin 128) (s : State) : Host.Outcome State Fault Refusal :=
  match s.vecCmd u q 0x31 with
  | none => .next s
  | some f =>
    let d := Softmax.of f.entry
    match Rnd.ofCode d.rnd, Fmt.ofCode d.inFmt, Fmt.ofCode d.outFmt with
    | some md, some fi, some fo =>
      match s.beginDraw md d.slot d.stream d.ctr (d.rows * d.cols) f.ctx with
      | .error st => .next (s.vecFails f st)
      | .ok w =>
        match s.spadConsume u d.reads f.ctx (locUnit u 2) with
        | (true, s) => .next (s.vecFails f .uncorrectable)
        | (false, s) =>
          let x := (List.range d.rows).foldl (fun x m => d.row u f.ctx f.validAt w md fi fo m x) (false, 0, s)
          if x.1 then .next (x.2.2.vecFails f .uncorrectable)
          else .next (x.2.2.vecRuns f (16 + d.rows * d.rowCycles) x.2.1 ⟨d.rows * d.cols, d.cols, d.rowCycles, []⟩)
    | _, _, _ => .next (s.vecFails f .formatCode)

/-! ## POOL (R241 to R243) -/

/-- What a maximum over no inside position gives, by the input's format (R241). DEDUCED, log 33. -/
def emptyMax (code : Nat) : Val := match code with
  | 3 => .fin true 448 1
  | 6 => .fin true 128 1
  | _ => .inf true

/-- The value of an output element. DEDUCED, log 33. -/
def Pool.value (d : Pool) (s : State) (u oy ox c : Nat) : Val :=
  match Fmt.ofCode d.src.code with
  | none => .nan
  | some f =>
    let vs := (d.inside oy ox).map (fun p => f.decode (s.elem u f.bits (d.src.at p.1 p.2 c).1 (d.src.at p.1 p.2 c).2))
    if d.op then
      let k := if d.pad then d.r * d.s else vs.length
      if k = 0 then .zero
      else match (vs.map Val.accord).foldl Accord.add (.fin 0) with
        | .fin v => Val.ofInt v (2 ^ 300 * k)
        | a => a.val
    else match vs with
    | [] => emptyMax d.src.code
    | v :: vs => vs.foldl Val.max v

/-- POOL (R241 to R246). -/
def execPool (u : Fin 1024) (q : Fin 128) (s : State) : Host.Outcome State Fault Refusal :=
  match s.vecCmd u q 0x32 with
  | none => .next s
  | some f =>
    let d := Pool.of f.entry
    match Rnd.ofCode d.rnd, Fmt.ofCode d.dst.code with
    | some md, some fo =>
      match s.beginDraw md d.slot d.stream d.ctr (d.oth * d.otw * d.src.c) f.ctx with
      | .error st => .next (s.vecFails f st)
      | .ok w =>
        match s.spadConsume u d.reads f.ctx (locUnit u 2) with
        | (true, s) => .next (s.vecFails f .uncorrectable)
        | (false, s) =>
          let es := d.pixels.flatMap (fun p => (List.range d.dst.written).map (fun c =>
            let at' := d.dst.at p.1 p.2 c
            let o := at'.1 + at'.2 * (fo.bits / 8)
            let i := (p.1 * d.otw + p.2) * d.dst.c + min c (d.dst.c - 1)
            let t := f.validAt + 16 + d.r * d.s * (i / 64 + 1) - 1
            if c < d.dst.c then
              let x := fo.convert md (w.at' md i) (d.value s u p.1 p.2 c)
              ((o, natToBytes (fo.bits / 8) x.1, t), x.2)
            else ((o, natToBytes (fo.bits / 8) 0, t), 0)))
          let fl := es.foldl (fun a e => a ||| e.2) 0
          match s.vecWrites u f.ctx (es.map (·.1)) with
          | (true, s) => .next (s.vecFails f .uncorrectable)
          | (false, s) => .next (s.vecRuns f (16 + d.r * d.s * ((d.oth * d.otw * d.src.c + 63) / 64)) fl ⟨0, 0, 0, []⟩)
    | _, _ => .next (s.vecFails f .formatCode)

/-! ## REGROUP (R247, R248) -/

/-- REGROUP (R247 to R251). -/
def execRegroup (u : Fin 1024) (q : Fin 128) (s : State) : Host.Outcome State Fault Refusal :=
  match s.vecCmd u q 0x33 with
  | none => .next s
  | some f =>
    let d := Regroup.of f.entry
    match Fmt.ofCode d.src.code with
    | none => .next (s.vecFails f .formatCode)
    | some fm =>
      match s.spadConsume u d.reads f.ctx (locUnit u 2) with
      | (true, s) => .next (s.vecFails f .uncorrectable)
      | (false, s) =>
        let per := if d.src.layout = 2 ∨ d.dst.layout = 2 then 16 else 64
        let ws := (List.range (d.oh * d.ow)).flatMap (fun i => (List.range d.dst.written).map (fun c =>
          let at' := d.dst.at (i / d.ow) (i % d.ow) c
          (at'.1 + at'.2 * (fm.bits / 8),
            natToBytes (fm.bits / 8) (match d.from' (i / d.ow) (i % d.ow) c with
              | some (y, x, k) => s.elem u fm.bits (d.src.at y x k).1 (d.src.at y x k).2
              | none => 0), f.validAt + 16 + (i * d.dst.written + c) / per)))
        match s.vecWrites u f.ctx ws with
        | (true, s) => .next (s.vecFails f .uncorrectable)
        | (false, s) =>
          let e := d.oh * d.ow * d.dst.written
          .next (s.vecRuns f (16 + (e + per - 1) / per) 0 ⟨0, 0, 0, []⟩)

/-! ## Completion (R216, R223) -/

/-- Stamps of writes whose cycles have passed matter no more once no vector command is begun. -/
def State.forgetStamps (s : State) (u : Nat) : State :=
  if s.vecOpen u then s
  else s.setEng u { s.unitEng u with wrote := (s.unitEng u).wrote.filter (fun w => decide (2 * s.unitCyc u < w.2)) }

/-- VEC_COMMAND_COMPLETE (R216): a vector command whose last byte is written completes. -/
def execVecCommandComplete (u : Fin 1024) (q : Fin 128) (cyc : Nat) (s : State) : Host.Outcome State Fault Refusal :=
  let s := s.atCycle u cyc
  match s.ended u q .vec with
  | some f =>
    let s := s.forgetStamps u
    let more := (s.unitFlights u).any (fun g => g.eng == .vec && !(g.q == q.val && g.seq == f.seq)
      && (g.begun && (g.stage == .issued || g.stage == .running 0)))
    .next ((s.setFld (R.vecSts u) F.vecSts_VEC_BUSY (bitNat more)).engineDone f)
  | none => .next s

end Sys2Proof.Machine
end

