-- ==== Sys2Proof/Machine/Xlt.lean ====
section
/-! DEFINITION. Translation's own commands: the end of a walk (R326, R341), the fault queues and their resolution (R342 to
R344, R418), the owner table sync (R334) and the invalidation of translations (R338), with the ends of both (R676). -/

namespace Sys2Proof.Machine

/-! ## Walks -/

/-- The addresses a requester needs translated now, with their access and context. -/
def State.walkNeeds (s : State) : Requester → List (Nat × Nat × AccessKind)
  | .channel c ch =>
    match lookupKey s.xl.chans (c.val * 16 + ch.val) with
    | some k =>
      let rb := dmaRowBytes k.cmd
      let src := dmaSrc k.cmd
      let dst := dmaDst k.cmd
      if Ent.opcode k.cmd ≠ 0x40 ∨ (s.flight k.u k.q (fun f => f.seq == k.seq && f.begun && f.stage == .issued)).isNone then []
      else (if src.kind = 0 then [(k.ctx, src.at k.srcBase rb k.pos, .read)] else [])
        ++ (if dst.kind = 0 then [(k.ctx, dst.at k.dstBase rb k.pos, .write)] else [])
    | none => []
  | .fetch u q =>
    if (lookupKey s.sch.heads (queueId u q)).isNone && s.qEn u q && s.qKind u q == 0 && s.qCount u q != 0
        && s.resident u == some (s.qCtx u q) then
      [(s.qCtx u q, s.qEntryVa u q (s.qHead u q), .fetch)] else []
  | .control u q =>
    (match s.control u q 0x0A with
    | some f => [(f.ctx, entBits f.entry 16 47 0, .atomic)]
    | none => []) ++
    (match s.control u q 0x0C with
    | some f => [(f.ctx, entBits f.entry 16 47 0, .write)]
    | none => [])
  | .pcie _ _ => []
  | .slot _ => []

/-- The block that a requester's fault records name (R339, R341). -/
def Requester.loc : Requester → Loc
  | .channel c _ => locCluster c 8
  | .fetch u _ => locUnit u 0
  | .control u _ => locUnit u 0
  | .pcie q _ => locHost 9 q
  | .slot _ => 0

/-- The TLB a requester's translations use. -/
def requesterTlb : Requester → Nat
  | .channel c _ => c.val
  | .fetch u _ => u.val / 8
  | .control u _ => u.val / 8
  | .pcie q _ => portTlb q
  | .slot _ => 0

/-- What a walk's end with a cause does to its requester: it parks, or its context faults (R326, R341). -/
def State.walkFailed (s : State) (who : Requester) (ctx va : Nat) (a : AccessKind) (e : Cause) : State :=
  match who with
  | .channel c ch =>
    (match lookupKey s.xl.chans (c.val * 16 + ch.val) with
    | some k => s.chanCause c ch k va a e
    | none => s)
  | .fetch u q =>
    (match e with
    | .notPresent L => s.parkSeq u q who ctx va a L (s.fld (R.unitQCfg u q) F.unitQCfg_NEXT_SEQ) (s.qHead u q)
    | _ => s.ctxFault ctx Status.translation.code (locUnit u 0))
  | .control u q =>
    (match s.flight u q (fun f => f.stage == .issued && (Ent.opcode f.entry == 0x0A || Ent.opcode f.entry == 0x0C)) with
    | some f => (match e with
      | .notPresent L => s.controlFail f a (.notPresent L va)
      | _ => s.controlFail f a (.fatal .translation))
    | none => s)
  | .pcie _ _ => s
  | .slot _ => s

/-- A requester's address is walked: a leaf fills the TLB; a cause parks the requester or faults its context. -/
def State.walkFor (s : State) (who : Requester) (ctx va : Nat) (a : AccessKind) : State :=
  match who with
  | .slot _ => s
  | _ =>
  if s.walkHeld (requesterTlb who) ctx va then s
  else match s.translate (requesterTlb who) ctx va a with
  | (.ok _, s) => s
  | (.error e, s) => s.walkFailed who ctx va a e

/-- The end of the walk that a requester waits for. -/
def State.walkEnds (s : State) (w : WalkReq) : State :=
  if s.running && (s.walkNeeds w.who).contains (w.ctx.toNat, w.va.toNat, w.access) && !s.xl.parks.any (fun p => p.who == w.who) then
    s.walkFor w.who w.ctx.toNat w.va.toNat w.access
  else s

/-- The order in which records of walks that end in one cycle are appended: LOC, then QID (R340). -/
def WalkReq.rank (w : WalkReq) (s : State) : Nat :=
  w.who.loc.toNat * 2 ^ 17 + (match w.who with
    | .channel c ch => ((lookupKey s.xl.chans (c.val * 16 + ch.val)).map (fun k => queueId k.u k.q)).getD 0
    | .fetch u q => queueId u q
    | .control u q => queueId u q
    | .pcie _ bdf => bdf
    | .slot _ => 0)

/-- WALK_COMPLETE (R326, R340): the walks that end in one cycle, in the order of their records. The walk of a PCIe request
ends within its request. -/
def execWalkComplete (ws : List WalkReq) (s : State) : Host.Outcome State Fault Refusal :=
  .next ((sortBy (fun a b => decide (a.rank s ≤ b.rank s)) ws).foldl State.walkEnds s)

/-! ## Fault queues -/

/-- FQ_LATCH_DRAIN (R342): the oldest record a latch of the die holds enters the ring when there is room. -/
def execFqLatchDrain (die : Fin 5) (s : State) : Host.Outcome State Fault Refusal :=
  match s.xl.latches.find? (fun l => l.1 = die.val) with
  | none => .next s
  | some l =>
    if s.fqFull die then .next s
    else
      let s := { s with xl := { s.xl with latches := s.xl.latches.erase l } }
      let s := s.fqAppend die l.2.2
      .next (if s.xl.latches.any (fun l => l.1 = die.val) then s else s.setFld (R.xltSts die) F.xltSts_FQ_HELD 0)

/-- The parked requests a resolution names. -/
def State.parkedOf (s : State) (die qid : Nat) : List Park := s.xl.parks.filter (fun p => p.die = die ∧ p.qid = qid)

/-- A queue whose requests are all resolved leaves STATE 3 (R343). -/
def State.unparkQueue (s : State) (k : Nat) : State :=
  if s.qState (qidUnit k) (qidQueue k) = 3 then s.settleQ (qidUnit k) (qidQueue k) else s

/-- Parked requests leave their places, to walk again or to end. -/
def State.unpark (s : State) (ps : List Park) : State :=
  let s := { s with xl := { s.xl with parks := s.xl.parks.filter (fun p => !ps.contains p) } }
  ps.foldl (fun s p =>
    match p.who with
    | .channel c ch => (s.setFld (R.dmaCh c ch) F.dmaCh_PARKED 0).setBit (R.dmaSts c) (16 + ch) false
    | .pcie port _ =>
      let x := s.pport port
      s.setPport port { x with parked := x.parked.map (fun k => if k.parked && decide (k.req.bdf.toNat = p.qid) then { k with parked := false } else k) }
    | _ => s) s

/-- FQ_RESOLVE with FAIL 0 (R343, R418): every parked request of the queue or requester walks again. -/
def execFqResolveRetry (_a : Agent) (die : Fin 5) (qid : BitVec 17) (s : State) : Host.Outcome State Fault Refusal :=
  let ps := sortBy (fun a b => decide (a.who.loc.toNat ≤ b.who.loc.toNat)) (s.parkedOf die qid.toNat)
  if s.pageDead .xlt die || ps.isEmpty then .next s
  else
    let s := s.unpark ps
    if die.val = 4 then .next ((List.range 4).foldl State.drainPort s)
    else
      let s := s.unparkQueue qid.toNat
      .next (ps.foldl (fun s p => s.walkFor p.who p.ctx p.va p.access) s)

/-- FQ_RESOLVE with FAIL 1 (R343, R418): the context faults with TRANSLATION. -/
def execFqResolveFail (_a : Agent) (die : Fin 5) (qid : BitVec 17) (s : State) : Host.Outcome State Fault Refusal :=
  if s.pageDead .xlt die then .next s
  else match s.parkedOf die qid.toNat with
  | [] => .next s
  | p :: _ =>
    if die.val = 4 then
      .next ((List.range 4).foldl (fun s q =>
        ((s.pport q).parked.filter (fun k => k.parked && decide (k.req.bdf.toNat = qid.toNat))).foldl (fun s k => s.endParked q k) s) s)
    else
      let loc := match p.who with
        | .channel c _ => locCluster c 8
        | _ => locUnit (qidUnit qid.toNat) 0
      .next (s.ctxFault p.ctx Status.translation.code loc)

/-! ## The owner table sync (R334, R676) -/

/-- Lines are written back and invalidated; a dirty one with an uncorrectable word faults its context (R579).
DEDUCED, log 39. -/
def State.syncLines (s : State) (p : Nat → Bool) : State :=
  let bad := s.coh.lines.filter (fun e => p (e.1 / 64) && e.2.st.dirty && e.2.err.any (fun x => eccClass x.2 == .uncorrectable))
  (bad.foldl (fun s e => s.dirtyMoved (e.1 % 64) (e.1 / 64) e.2) s).flushLines p

/-- Whether a sync names the granule of a line. -/
def GotSyncJob.names (j : GotSyncJob) (line : Nat) : Bool :=
  j.all || (decide (j.first ≤ granuleOf (line * 128)) && decide (granuleOf (line * 128) < j.first + j.count))

/-- GOT_SYNC (R334, R360): ignored while one is in progress; COUNT 0 only sets SYNC_DONE. -/
def execGotSync (_a : Agent) (value : Word) (s : State) : Host.Outcome State Fault Refusal :=
  let all := F.xltGotSync_ALL.get value = 1
  let count := F.xltGotSync_COUNT.get value
  if s.pageDead .xlt 4 || s.bit (R.xltSyncSts 4) F.xltSyncSts_GOT_BUSY then .next s
  else if !all && count == 0 then .next (s.raise .xlt 4 3)
  else
    let s := s.setFld (R.xltSyncSts 4) F.xltSyncSts_GOT_BUSY 1
    .next { s with xl := { s.xl with gotSync := some ⟨F.xltGotSync_FIRST.get value, count, all⟩ } }

/-- GOT_SYNC_DONE (R334, R676): the lines of the granules have been written back and invalidated; the sync ends. -/
def execGotSyncDone (s : State) : Host.Outcome State Fault Refusal :=
  match s.xl.gotSync with
  | none => .next s
  | some j =>
    if s.coh.txns.any (fun t => j.names t.line) then .next s
    else
      let s := s.syncLines j.names
      let s := { s with xl := { s.xl with gotSync := none } }
      .next ((s.setFld (R.xltSyncSts 4) F.xltSyncSts_GOT_BUSY 0).raise .xlt 4 3)

/-! ## Invalidation (R338, R676) -/

/-- Whether an invalidation matches a context. -/
def TlbInvJob.forCtx (j : TlbInvJob) (ctx : Nat) : Bool := j.allCtx || j.ctx == ctx

/-- Whether an invalidation matches a range of addresses of a context. -/
def TlbInvJob.hits (j : TlbInvJob) (ctx va size : Nat) : Bool :=
  j.forCtx ctx && (j.allVa || (j.pages != 0 && decide (va < j.va + j.pages * 4096) && decide (j.va < va + size)))

/-- TLB_INV (R338, R360): ignored while one is in progress. -/
def execTlbInv (_a : Agent) (value : Word) (s : State) : Host.Outcome State Fault Refusal :=
  if s.pageDead .xlt 4 || s.bit (R.xltSyncSts 4) F.xltSyncSts_TLB_BUSY then .next s
  else
    let j : TlbInvJob := { ctx := F.xltTlbInv_CTX.get value, allCtx := F.xltTlbInv_ALL_CTX.get value == 1,
                           va := s.fld (R.xltTlbInvVa 4) F.xltTlbInvVa_VA * 4096, pages := F.xltTlbInv_PAGES.get value,
                           allVa := F.xltTlbInv_ALL_VA.get value == 1 }
    let s := s.setFld (R.xltSyncSts 4) F.xltSyncSts_TLB_BUSY 1
    .next { s with xl := { s.xl with tlbInv := some j } }

/-- Whether an outbound request translated through a matching entry is under way. -/
def State.invWaits (s : State) (j : TlbInvJob) : Bool :=
  let hit := fun (v : Option (Nat × Nat × Nat)) => v.any (fun x => j.hits x.1 x.2.1 x.2.2)
  (List.range 4).any (fun q => (s.pport q).outW.any (fun w => hit w.via) || (s.pport q).outR.any (fun r => hit r.via))

/-- TLB_INV_DONE (R338, R676): no cache holds a matching entry, and every request translated through one is performed. -/
def execTlbInvDone (s : State) : Host.Outcome State Fault Refusal :=
  match s.xl.tlbInv with
  | none => .next s
  | some j =>
    if s.invWaits j then .next s
    else
      let s := { s with xl := { s.xl with
        tlb := s.xl.tlb.filter (fun e => !j.hits e.ctx e.va e.size)
        walkCache := s.xl.walkCache.filter (fun e => !j.hits e.ctx (e.tag * 2 ^ (21 + 9 * e.level)) (2 ^ (21 + 9 * e.level)))
        tlbInv := none } }
      .next (s.setFld (R.xltSyncSts 4) F.xltSyncSts_TLB_BUSY 0)

end Sys2Proof.Machine
end

