-- ==== Sys2Proof/Machine/RegisterWrite.lean ====
section
/-! DEFINITION. A write to any register (R622 to R637): the page and register that an offset names, and what a write of each
register does, field by field or by a behaviour of its own. REGISTER_WRITE applies the writes of one cycle in the order of
R636; reading a register has no side effect (R633). -/

namespace Sys2Proof.Machine

/-- The state a command leaves, where it leaves one. DEDUCED, log 13. -/
def State.after (s : State) (o : Host.Outcome State Fault Refusal) : State :=
  match o with
  | .next t => t
  | _ => s

/-- The words of a register's fields that hold nothing but a request or a value in use read as zero (WO, R16); every
register that only one kind of die has is absent on the other (R359, R390). DEDUCED, log 66. -/
def Reg.present (r : Reg) : Bool :=
  match r.name with
  | .cohPortPrio | .cohDirInit => r.inst != 4
  | .cohArbCnt | .cohArbQocc => r.inst == 4
  | .xltGotBase | .xltGrpBase | .xltGotSync | .xltTlbInvVa | .xltTlbInv | .xltSyncSts => r.inst == 4
  | _ => true

/-- A number below a bound, as an index. -/
def inBound (n : Nat) (i : Nat) : Option (Fin n) := if h : i < n then some ⟨i, h⟩ else none

/-- A register write that a command's meaning performs, for an instance number in range. -/
def State.forInst (s : State) (n i : Nat) (f : Fin n → State) : State :=
  match inBound n i with
  | some x => f x
  | none => s

/-! ## PKG -/

/-- A write of CTX_CMD (R286, R313): commands 1 to 5; others are ignored. -/
def State.ctxCmdWrite (s : State) (a : Agent) (v : Word) : State :=
  let ctx : CtxId := BitVec.ofNat 12 (F.pkgCtxCmd_CTX.get v)
  match F.pkgCtxCmd_CMD.get v with
  | 1 => s.after (execStart a ctx s)
  | 2 => s.after (execPreempt a ctx s)
  | 3 => s.after (execResume a ctx s)
  | 4 => s.after (execKill a ctx s)
  | 5 => s.after (execRelease a ctx s)
  | _ => s

/-- A write of PKG.RST_CTL (R533, R566, R569): the write is the request; KIND 0 requests nothing. -/
def State.pkgRstWrite (s : State) (a : Agent) (v : Word) : State :=
  match F.pkgRstCtl_KIND.get v with
  | 0 => s.rstCtlWrite a R.pkgRstCtl (v.toNat % 128) id
  | 1 => s.forInst 32 (F.pkgRstCtl_REGION.get v) (fun r => s.after (execRstCtlPartition a r s))
  | 2 => s.rstCtlWrite a R.pkgRstCtl (v.toNat % 128) (fun s => s.packageReset 4)
  | _ => s.rstCtlWrite a R.pkgRstCtl (v.toNat % 128) (fun s => s.coldCause .rstCtl)

/-- A write of a PKG register. -/
def State.pkgWrite (s : State) (a : Agent) (r : Reg) (v : Word) : State :=
  match r.name with
  | .ctl =>
    let t := s.plainWrite a r v (fun _ => true)
    if t.bit R.pkgCtl F.pkgCtl_READY && t.plat.st == .booting then t.setSt .ready else t
  | .pkgAvailRetire => s.after (execAvailRetire a (BitVec.ofNat 16 (F.pkgAvailRetire_LOC.get v)) s)
  | .pkgCtxCmd => s.ctxCmdWrite a v
  | .pkgRstCtl => s.pkgRstWrite a v
  | .pkgElogBase => s.plainWrite a r v (fun _ => !s.bit R.pkgElogCfg F.pkgElogCfg_EN)
  | .pkgElogCfg => s.plainWrite a r v (fun f => f != F.pkgElogCfg_SIZE || !s.bit R.pkgElogCfg F.pkgElogCfg_EN)
  | .pkgElogHead =>
    let tail := s.fld R.pkgElogTail F.pkgElogTail_TAIL
    if (tail + 2 ^ 17 - F.pkgElogHead_HEAD.get v) % 2 ^ 17 > s.elogSize then s else s.plainWrite a r v (fun _ => true)
  | _ => s.plainWrite a r v (fun _ => true)

/-! ## TIME, SEC, HOST -/

/-- A write of a TIME register. DEDUCED, log 19. -/
def State.timeWrite (s : State) (a : Agent) (r : Reg) (v : Word) : State :=
  match r.name with
  | .ctl =>
    let was := s.bit R.timeCtl F.timeCtl_PPS_EN
    let s := s.plainWrite a r v (fun _ => true)
    let s := if !was && s.bit R.timeCtl F.timeCtl_PPS_EN then { s with time := { s.time with cand := none } } else s
    s.elect
  | .timeSet => s.after (execTimeSet a v s)
  | .timeAstrCfg => s.astrCfgWrite r.idx v
  | .timeAstrTail => s.forInst 64 r.idx (fun n => s.after (execAnchorTailWrite a n (BitVec.ofNat 17 (F.timeAstrTail_TAIL.get v)) s))
  | _ => s.plainWrite a r v (fun _ => true)

/-- A write of a SEC register. -/
def State.secWrite (s : State) (a : Agent) (r : Reg) (v : Word) : State :=
  match r.name with
  | .secVerifyCmd => s.after (execImageVerify a v s)
  | .secMlogSel => if F.secMlogSel_INDEX.get v = 0 then s else s.plainWrite a r v (fun _ => true)
  | .secRkeyCfg => s.forInst 64 r.idx (fun n => s.after (execKeySlotWrite a n (.cfg v) s))
  | .secRkeyK => s.forInst 64 (r.idx / 4) (fun n => s.forInst 4 (r.idx % 4) (fun k => s.after (execKeySlotWrite a n (.key k v) s)))
  | _ => s.plainWrite a r v (fun _ => true)

/-- A write of HOST.CGRP_CLK (R392, R427): a group with a code above 16 keeps its clock; a change makes CLK_BUSY 1.
DEDUCED, log 17. -/
def State.cgrpWrite (s : State) (a : Agent) (v : Word) : State :=
  if !fwAllowed a .host then s.denied a R.hostCgrpClk
  else
    let code := fun (w : Word) (g : Nat) => natBits w.toNat (8 * g + 7) (8 * g)
    let old := s.reg R.hostCgrpClk
    let new : Word := BitVec.ofNat 64 (((List.range 8).map (fun g =>
      (if code v g ≤ 16 then code v g else code old g) * 2 ^ (8 * g))).sum)
    let s := s.setReg R.hostCgrpClk new
    let s := if new = old then s else s.setFld R.hostSts F.hostSts_CLK_BUSY 1
    if (List.range 8).any (fun g => decide (16 < code v g)) then s.raise .host 0 0 else s

/-- A write of HOST.CORE_RUN (R393, R542, R571): a core whose bit becomes 1 starts at CORE_VEC in M-mode, unless it is
unavailable; one whose bit becomes 0 is held in reset. DESIGN CHOICE, log 14. DEDUCED, log 18. -/
def State.coreRunWrite (s : State) (a : Agent) (v : Word) : State :=
  if !fwAllowed a .host then s.denied a R.hostCoreRun
  else
    let old := s.reg R.hostCoreRun
    let s := s.setReg R.hostCoreRun v
    let vec := s.fld R.hostCoreVec F.hostCoreVec_VEC * 4
    (List.range 64).foldl (fun s c =>
      if natBit v.toNat c && !natBit old.toNat c && s.coreAvail c then
        { s with host := { s.host with starts := insertKey s.host.starts c vec } }
      else if !natBit v.toNat c then
        { s with host := { s.host with starts := eraseKey s.host.starts c, sctx := eraseKey s.host.sctx c } }
      else s) s

/-- A write of a HOST register; mailbox registers are writable by server cores here, by the outside host through BAR0
(R427). DEDUCED, log 65. -/
def State.hostWrite (s : State) (a : Agent) (r : Reg) (v : Word) : State :=
  match r.name with
  | .hostCgrpClk => s.cgrpWrite a v
  | .hostHlRelease => s.after (execHlRelease a (BitVec.ofNat 17 (F.hostHlRelease_QID.get v)) s)
  | .hostCoreRun => s.coreRunWrite a v
  | .hostMbox =>
    match a with
    | .server _ => s.plainWrite a r v (fun _ => true)
    | _ => s
  | _ => s.plainWrite a r v (fun _ => true)

/-! ## COH, XLT, PCIE, FIX -/

/-- Whether a word ranks the eleven ports 0 to 10, each once (R391). -/
def ranksOk (v : Word) : Bool :=
  let rank := fun (p : Nat) => natBits v.toNat (4 * p + 3) (4 * p)
  (List.range 11).all (fun p => decide (rank p ≤ 10) && (List.range p).all (fun q => rank q != rank p))

/-- A write of a COH register. -/
def State.cohWrite (s : State) (a : Agent) (r : Reg) (v : Word) : State :=
  match r.name with
  | .ctl => if r.inst = 4 then s.after (execCohModeWrite a (F.cohCtl_MODE.get v == 1) s) else s
  | .cohPortPrio => s.plainWrite a r v (fun _ => s.arbiterMode && ranksOk v)
  | .cohDirInit =>
    if F.cohDirInit_GO.get v = 1 then
      s.forInst 4 r.inst (fun d => s.forInst 4 (F.cohDirInit_HOME.get v) (fun h => s.after (execDirInit a d h s)))
    else s.plainWrite a r v (fun _ => true)
  | _ => s.plainWrite a r v (fun _ => true)

/-- Whether every context is FREE. -/
def State.allFree (s : State) : Bool := s.sch.ctxs.all (fun e => e.2.state == 0)

/-- A write of an XLT register. -/
def State.xltWrite (s : State) (a : Agent) (r : Reg) (v : Word) : State :=
  let head := s.fld (R.xltFqHead r.inst) F.xltFqHead_HEAD
  let tail := s.fld (R.xltFqTail r.inst) F.xltFqTail_TAIL
  match r.name with
  | .xltFqBase => s.plainWrite a r v (fun _ => head == tail)
  | .xltFqHead =>
    if (tail + 65536 - F.xltFqHead_HEAD.get v) % 65536 > 4096 then s else s.plainWrite a r v (fun _ => true)
  | .xltFqResolve =>
    let qid : BitVec 17 := BitVec.ofNat 17 (F.xltFqResolve_QID.get v)
    s.forInst 5 r.inst (fun d =>
      s.after (if F.xltFqResolve_FAIL.get v = 1 then execFqResolveFail a d qid s else execFqResolveRetry a d qid s))
  | .xltGotBase | .xltGrpBase => s.plainWrite a r v (fun _ => s.allFree)
  | .xltGotSync => s.after (execGotSync a v s)
  | .xltTlbInv => s.after (execTlbInv a v s)
  | _ => s.plainWrite a r v (fun _ => true)

/-- A write of a PCIE register. SBR acts and reads zero; PORT_CFG is a store register under another address, which a
driver writes too (R16 RWP, R550, R551). -/
def State.pcieWrite (s : State) (a : Agent) (r : Reg) (v : Word) : State :=
  match r.name with
  | .ctl =>
    let s := s.plainWrite a r (F.pcieCtl_SBR.put v 0) (fun _ => true)
    if F.pcieCtl_SBR.get v = 1 then s.forInst 4 r.inst (fun q => s.after (execSbr a q s)) else s
  | .pciePortCfg => s.storeAccept (0x248 + r.inst) (v &&& BitVec.ofNat 64 0x7F) (agentLoc a)
  | .pcieDtBase => s.plainWrite a r v (fun _ => !s.bit (R.pcieCtl r.inst) F.pcieCtl_DT_EN)
  | _ => s.plainWrite a r v (fun _ => true)

/-- A write of a FIX register. -/
def State.fixWrite (s : State) (a : Agent) (r : Reg) (v : Word) : State :=
  match r.name with
  | .fixStore => s.storeWrite a r.idx v
  | _ => s.plainWrite a r v (fun _ => true)

/-! ## DIE, HBM, OPT -/

/-- A write of a DIE register: the ring slot and snapshot registers are open while ARM is 0, but for ARM itself, the KEEP
fields, the limit and the digest (R498, R532). -/
def State.dieWrite (s : State) (a : Agent) (r : Reg) (v : Word) : State :=
  let k := 8 * r.inst + r.idx
  let idle := fun (_ : Fld) => !s.slotArmed k
  match r.name with
  | .dieSlotCfg => s.slotCfgWrite k v
  | .dieSlotRing | .dieSlotTbl | .dieSlotSeal | .dieSlotSealmask | .dieSnapPeers | .dieSnapTbl => s.plainWrite a r v idle
  | .dieSnapCfg =>
    s.plainWrite a r v (fun f => f == F.dieSnapCfg_KEEP_HALF || f == F.dieSnapCfg_KEEP_VALID || idle f)
  | .dieSnapOp => s.snapOpWrite k v
  | _ => s.plainWrite a r v (fun _ => true)

/-- A write of an HBM register: TMAX_C has the bound 105 (R591, R592). -/
def State.hbmWrite (s : State) (a : Agent) (r : Reg) (v : Word) : State :=
  match r.name with
  | .safe => s.plainWrite a r (F.hbmSafe_TMAX_C.put v (min (F.hbmSafe_TMAX_C.get v) 105)) (fun _ => true)
  | _ => s.plainWrite a r v (fun _ => true)

/-- A write of an OPT register. DEDUCED, log 67. -/
def State.optWrite (s : State) (a : Agent) (r : Reg) (v : Word) : State :=
  match r.name with
  | .ctl =>
    let s := if fwAllowed a .opt then
        (s.setFld r F.optCtl_DEGRADE_OK (F.optCtl_DEGRADE_OK.get v)).setOptEn r.inst (F.optCtl_EN.get v == 1)
      else s.denied a r
    if F.optCtl_RETRAIN.get v = 1 then s.retrainPort r.inst else s
  | .optFabCfg =>
    let off := (List.range 8).all (fun p => s.fld (R.optSts p) F.optSts_STATE == 0)
    ((s.plainWrite a r v (fun f => f == F.optFabCfg_TRANSIT_W || off)).markUnlicensed).renumbered s.pkgId
  | _ => s.plainWrite a r v (fun _ => true)

/-! ## RGN, CLU, DMA -/

/-- A write of RGN.RST_CTL (R566, R570): the write is the request. -/
def State.rgnRstWrite (s : State) (a : Agent) (i : Nat) (v : Word) : State :=
  s.forInst 32 i (fun r => s.forInst 4 (F.rgnRstCtl_CLUSTER.get v) (fun c =>
    if F.rgnRstCtl_KIND.get v = 1 then s.after (execClusterReset a r c s)
    else s.forInst 8 (F.rgnRstCtl_UNIT.get v) (fun u => s.after (execUnitReset a r c u s))))

/-- A write of an RGN register. A write of 0 to WARDEN_RUN holds the warden in reset (R570). -/
def State.rgnWrite (s : State) (a : Agent) (r : Reg) (v : Word) : State :=
  match r.name with
  | .ctl =>
    if !fwAllowed a .rgn then s.denied a r
    else if F.rgnCtl_WARDEN_RUN.get v = 1 then s.wardenRun r.inst
    else
      let s := s.setFld r F.rgnCtl_WARDEN_RUN 0
      { s with host := { s.host with starts := eraseKey s.host.starts (64 + r.inst) } }
  | .rgnDvfs => s.forInst 32 r.inst (fun i => s.dvfsOne ⟨a, i, v⟩)
  | .rgnRstCtl => s.rgnRstWrite a r.inst v
  | .rgnDlmCfg =>
    if s.bit r F.rgnDlmCfg_EN then s.plainWrite a r v (fun f => f != F.rgnDlmCfg_CTX)
    else if F.rgnDlmCfg_EN.get v = 1 then s.forInst 32 r.inst (fun i => s.after (execDlmEnable a i v s))
    else s.plainWrite a r v (fun _ => true)
  | _ => s.plainWrite a r v (fun _ => true)

/-- A write of a CLU register: a window's owner is open while its VALID is 0 (R336). -/
def State.cluWrite (s : State) (a : Agent) (r : Reg) (v : Word) : State :=
  match r.name with
  | .ctl => if F.cluCtl_CNT_CLR.get v = 1 then s.forInst 128 r.inst (fun c => s.after (execCluCntClr a c s)) else s
  | .cluWin => s.plainWrite a r v (fun f => f != F.cluWin_CTX || !s.bit r F.cluWin_VALID)
  | _ => s.plainWrite a r v (fun _ => true)

/-- A write of a DMA register. -/
def State.dmaWrite (s : State) (a : Agent) (r : Reg) (v : Word) : State :=
  match r.name with
  | .ctl => if F.dmaCtl_CNT_CLR.get v = 1 then s.forInst 128 r.inst (fun c => s.after (execDmaCntClr a c s)) else s
  | _ => s.plainWrite a r v (fun _ => true)

/-! ## UNIT, ARR, VEC, ACC -/

/-- A queue that is disabled holds no entry at its sequencer and no stop. DEDUCED, log 45. -/
def State.queueOff (s : State) (u q : Nat) : State :=
  let k := queueId u q
  let s := s.setQState u q 7
  { s with sch := { s.sch with heads := eraseKey s.sch.heads k, stops := eraseKey s.sch.stops k,
                               prov := eraseKey s.sch.prov k, fbFetch := s.sch.fbFetch.filter (fun x => x != k) } }

/-- A write of Qq_CFG (R311, R635): CTX, KIND and SIZE are open while EN was 0, EN while the context bound before the write
is not RUNNING, PREEMPTING or RESUMING; bits [55:39] follow the KIND in force after the write. DEDUCED, log 45. -/
def State.qCfgWrite (s : State) (u q : Nat) (v : Word) : State :=
  let r := R.unitQCfg u q
  let old := s.reg r
  let was := s.qEn u q
  let st := (s.ctxSt (s.qCtx u q)).state
  let enFree := !(st == 1 || st == 2 || st == 4)
  let s := if was then s else
    ((s.setFld r F.unitQCfg_CTX (F.unitQCfg_CTX.get v)).setFld r F.unitQCfg_KIND (F.unitQCfg_KIND.get v)).setFld r F.unitQCfg_SIZE
      (F.unitQCfg_SIZE.get v)
  let s := if enFree then s.setFld r F.unitQCfg_EN (F.unitQCfg_EN.get v) else s
  let s := s.setFld r F.unitQCfg_NEXT_SEQ (F.unitQCfg_NEXT_SEQ.get v)
  let g := grantedFld
  let s :=
    if s.qKind u q = 0 then s.setFld r g (g.get v)
    else if F.unitQCfg_KIND.get old = 0 || !s.qEn u q then s.setFld r g 0
    else s.setFld r g (g.get old)
  if was && !s.qEn u q then s.queueOff u q
  else if !was && s.qEn u q then s.setQState u q (if s.qKind u q = 0 ∧ s.qCount u q ≠ 0 then 1 else 0)
  else s

/-- A write of CRLn (R311): the line's names are open while VALID was 0, and a line with VALID 0 holds no credit. -/
def State.crlWrite (s : State) (a : Agent) (r : Reg) (v : Word) : State :=
  let was := s.bit r F.unitCrl_VALID
  let s := s.plainWrite a r v (fun f => f == F.unitCrl_VALID || !was)
  if s.bit r F.unitCrl_VALID then s else s.setFld r F.unitCrl_CREDITS 0

/-- A write of UNIT.WDOG (R592): a limit beyond its bound is taken as the bound wherever it is used, and raises SAFE_LIMIT.
DEDUCED, log 17. -/
def State.wdogWrite (s : State) (a : Agent) (r : Reg) (v : Word) : State :=
  let s := s.plainWrite a r v (fun _ => true)
  let u := r.inst
  let wait := s.fld (R.unitWdog u) F.unitWdog_WAIT_LIMIT
  if s.tokenLimit u < s.fld (R.unitWdog u) F.unitWdog_LIMIT || s.waitLimit u != wait then s.safeLimit r else s

/-- A write of a UNIT register. -/
def State.unitWrite (s : State) (a : Agent) (r : Reg) (v : Word) : State :=
  match r.name with
  | .unitWdog => s.wdogWrite a r v
  | .unitTload1 => s.forInst 1024 r.inst (fun u => s.after (execTload a u v s))
  | .unitQBase => s.plainWrite a r v (fun _ => !s.qEn r.inst r.idx)
  | .unitQCfg => s.qCfgWrite r.inst r.idx v
  | .unitQPtr => s.tailWrite r.inst r.idx (F.unitQPtr_TAIL.get v)
  | .unitCrl => s.crlWrite a r v
  | _ => s.plainWrite a r v (fun _ => true)

/-- A write of a head register of ARR, VEC or ACC, whose CTL clears the page's counters (R179, R181, R224). -/
def State.engineWrite (s : State) (a : Agent) (r : Reg) (v : Word) : State :=
  match r.page, r.name with
  | .arr, .ctl =>
    let s := s.plainWrite a r (F.arrCtl_CNT_CLR.put v 0) (fun _ => true)
    if F.arrCtl_CNT_CLR.get v = 1 then s.forInst 1024 r.inst (fun u => s.after (execArrCntClr a u s)) else s
  | .vec, .ctl => if F.vecCtl_CNT_CLR.get v = 1 then s.forInst 1024 r.inst (fun u => s.after (execVecCntClr a u s)) else s
  | .acc, .ctl => if F.accCtl_CNT_CLR.get v = 1 then s.forInst 1024 r.inst (fun u => s.after (execAccCntClr a u s)) else s
  | _, _ => s.plainWrite a r v (fun _ => true)

/-! ## The register space -/

/-- A write of a register of a page that takes writes: the common head (R586, R593, R628), then the page's own. -/
def State.writeReg (s : State) (a : Agent) (r : Reg) (v : Word) : State :=
  match r.name with
  | .irqSts | .irqEn => s.irqWrite a r v
  | .errRec =>
    if r.idx = 0 ∧ F.errQ0_VALID.get v = 1 then s.forInst 1024 r.inst (fun i => s.after (execErrRecClear a r.page i s)) else s
  | .inj => s.injWrite a r.page r.inst v
  | _ =>
    match r.page with
    | .pkg => s.pkgWrite a r v
    | .time => s.timeWrite a r v
    | .sec => s.secWrite a r v
    | .host => s.hostWrite a r v
    | .coh => s.cohWrite a r v
    | .xlt => s.xltWrite a r v
    | .pcie => s.pcieWrite a r v
    | .fix => s.fixWrite a r v
    | .die => s.dieWrite a r v
    | .hbm => s.hbmWrite a r v
    | .opt => s.optWrite a r v
    | .rgn => s.rgnWrite a r v
    | .clu => s.cluWrite a r v
    | .dma => s.dmaWrite a r v
    | .unit => s.unitWrite a r v
    | .arr | .vec | .acc => s.engineWrite a r v

/-- The hart, the file (0 machine level, 1 supervisor level, 2 to 8 guest files) and the offset in its page of an IMSIC
address of the register space (R403). PRESUMED, log 64. -/
def imsicAt (ofs : Nat) : Option (Nat × Nat × Nat) :=
  if 0xC000000 ≤ ofs ∧ ofs < 0xC040000 then some ((ofs - 0xC000000) / 0x1000, 0, ofs % 0x1000)
  else if 0xD000000 ≤ ofs ∧ ofs < 0xD200000 then
    some ((ofs - 0xD000000) / 0x8000, 1 + (ofs - 0xD000000) / 0x1000 % 8, ofs % 0x1000)
  else none

/-- The bytes of a 4-byte word in the other order. -/
def swap32 (n : Nat) : Nat := bytesToNat (natToBytes 4 n).reverse

/-- An identity becomes pending in an interrupt file: 1 to 255 are implemented (R403). -/
def State.imsicPend (s : State) (hart file id : Nat) : State :=
  let k := 256 * (9 * hart + file) + id
  if 1 ≤ id ∧ id ≤ 255 ∧ !s.host.imsic.contains k then { s with host := { s.host with imsic := s.host.imsic ++ [k] } } else s

/-- A 4-byte write to an interrupt file's page (R403, R630): seteipnum_le at 0, seteipnum_be at 4. PRESUMED, log 64. -/
def State.imsicWrite (s : State) (ofs v : Nat) : State :=
  match imsicAt ofs with
  | none => s
  | some (hart, file, o) =>
    if !s.running || !s.coreAvail hart then s
    else if o = 0 then s.imsicPend hart file v
    else if o = 4 then s.imsicPend hart file (swap32 v)
    else s

/-- The port and the offset of an address in the ECAM windows (R407, R622). DEDUCED, log 65. -/
def ecamAt (ofs : Nat) : Option (Nat × Nat) :=
  if 0x40000000 ≤ ofs ∧ ofs < 0x80000000 then some ((ofs - 0x40000000) / 0x10000000, ofs % 0x10000000) else none

/-- A write at an offset of the register space (R622 to R624): an unoccupied address logs ADDR_RESERVED, an offset its page
does not define is ignored. -/
def State.regWrite (s : State) (a : Agent) (ofs : Nat) (v : Word) : State :=
  if !s.running then s
  else match pageAt ofs with
  | none =>
    (match a, imsicAt ofs, ecamAt ofs with
      | .pcieHost _, _, _ => s
      | _, some _, _ => (s.imsicWrite ofs (v.toNat % 2 ^ 32)).imsicWrite (ofs + 4) (v.toNat / 2 ^ 32)
      | _, _, some (q, o) =>
        s.forInst 4 q (fun q => s.after (execEcamAccess ⟨a, q, BitVec.ofNat 28 o, 8, some v, []⟩ s))
      | _, _, _ => s.addrReserved (agentDie a) (regBase + ofs) (agentLoc a))
  | some w =>
    if !s.regReaches a w.page w.inst then s
    else match w.page.regAt w.inst w.ofs with
    | none => s
    | some r => if r.present then s.writeReg a r v else s

/-- Whether a write asks for a reset, with the scope it names (0 the widest) and the location code of the block (R567).
DEDUCED, log 15. -/
def resetRank (w : RegWrite) : Option (Nat × Nat) :=
  match pageAt w.ofs.toNat with
  | none => none
  | some p =>
    if p.ofs ≠ 0x300 then none
    else match p.page with
    | .pkg =>
      match F.pkgRstCtl_KIND.get w.value with
      | 0 => none
      | 1 => some (2, (locRegion (F.pkgRstCtl_REGION.get w.value) 0x12).toNat)
      | 2 => some (1, 0)
      | _ => some (0, 0)
    | .rgn =>
      let c := 4 * p.inst + F.rgnRstCtl_CLUSTER.get w.value
      if F.rgnRstCtl_KIND.get w.value = 1 then some (3, (locCluster c 8).toNat)
      else some (4, (locUnit (8 * c + F.rgnRstCtl_UNIT.get w.value) 0).toNat)
    | _ => none

/-- The region whose RGN.DVFS a write names. -/
def dvfsRank (w : RegWrite) : Option Nat :=
  match pageAt w.ofs.toNat with
  | some p => if p.page = .rgn ∧ p.ofs = 0x100 then some p.inst else none
  | none => none

/-- The writes of one cycle in the order they act (R38, R567, R636): ascending location code of the requester; requests for a
region's clock or voltage after them in ascending region order; resets after all others, larger scope first, then ascending
location code of the block. DEDUCED, log 15 and 66. -/
def writeOrder (ws : List RegWrite) : List RegWrite :=
  let plain := ws.filter (fun w => (resetRank w).isNone && (dvfsRank w).isNone)
  let dvfs := ws.filterMap (fun w => (dvfsRank w).map (fun r => (r * 65536 + (agentLoc w.agent).toNat, w)))
  let resets := ws.filterMap (fun w => (resetRank w).map (fun k => (k.1 * 65536 + k.2, w)))
  sortBy (fun x y => decide ((agentLoc x.agent).toNat ≤ (agentLoc y.agent).toNat)) plain
    ++ (sortBy (fun x y => decide (x.1 ≤ y.1)) dvfs).map (·.2) ++ (sortBy (fun x y => decide (x.1 ≤ y.1)) resets).map (·.2)

/-- REGISTER_WRITE (R634 to R637): the register writes of one cycle. DEDUCED, log 7 and 66. -/
def execRegisterWrite (writes : List RegWrite) (s : State) : Host.Outcome State Fault Refusal :=
  .next ((writeOrder writes).foldl (fun s w => s.regWrite w.agent (w.ofs.toNat / 8 * 8) w.value) s)

/-- CGRP_CLK (R392). -/
def execCgrpClk (a : Agent) (value : Word) (s : State) : Host.Outcome State Fault Refusal :=
  if s.regReaches a .host 0 then .next (s.cgrpWrite a value) else .next s

/-- CGRP_CLK_DONE (R427). -/
def execCgrpClkDone (s : State) : Host.Outcome State Fault Refusal := .next (s.setFld R.hostSts F.hostSts_CLK_BUSY 0)

/-- CORE_RUN (R542). -/
def execCoreRun (a : Agent) (value : Word) (s : State) : Host.Outcome State Fault Refusal :=
  if s.regReaches a .host 0 then .next (s.coreRunWrite a value) else .next s

/-! ## Reads (R99, R100, R623, R624, R633) -/

/-- A register's stored word as a read gives it: WO fields read as zero (R16). DEDUCED, log 58. -/
def State.plainRead (s : State) (r : Reg) : Word :=
  r.fields.foldl (fun w f => if f.acc = .wo then f.fld.put w 0 else w) (s.reg r)

/-- A register as it reads (R311, R391, R549, R559, R621): some are views of state that has its home elsewhere. -/
def State.readReg (s : State) (r : Reg) : Word :=
  match r.name with
  | .secMlogInfo =>
    let i := s.fld R.secMlogSel F.secMlogSel_INDEX
    let n := (s.meas i).2
    BitVec.ofNat 64 (i + 2 ^ 8 * (if n = 0 then 0 else (s.measBlock i).2.1) + 2 ^ 32 * n)
  | .secMlogDig => BitVec.ofNat 64 ((s.meas (s.fld R.secMlogSel F.secMlogSel_INDEX)).1.toNat / 2 ^ (64 * r.idx))
  | .pciePortCfg => s.portCfg r.inst
  | .fixStore => s.storeRead r.idx
  | .cohDirOcc => BitVec.ofNat 64 (s.homeEntries (r.inst, r.idx)).length
  | .cohArbQocc => BitVec.ofNat 64 s.coh.arbQ.length
  | _ => s.plainRead r

/-- A read at an offset of the register space: all ones from a block in reset or unavailable, over a dead link, or where
nothing is, which logs ADDR_RESERVED. -/
def State.regRead (s : State) (a : Agent) (ofs : Nat) : Word × State :=
  match pageAt ofs with
  | none =>
    (match imsicAt ofs with
      | some (hart, _, _) => (if s.coreAvail hart then 0 else allOnes, s)
      | none => (allOnes, s.addrReserved (agentDie a) (regBase + ofs) (agentLoc a)))
  | some w =>
    if s.pageGone w.page w.inst || s.regLost a w.page w.inst then (allOnes, s)
    else match w.page.regAt w.inst w.ofs with
    | none => (0, s)
    | some r => (if r.present then s.readReg r else 0, s)

end Sys2Proof.Machine
end

