-- ==== Sys2Proof/Machine/Host.lean ====
section
/-! DEFINITION. The host die's agents (R392 to R404, R545, R630): the accesses of server, keeper and warden cores, the
context a hart's accesses carry, and the interrupt messages. -/

namespace Sys2Proof.Machine

/-! ## Which cores run -/

/-- Whether an agent's core runs: a server core released by CORE_RUN and available (R393, R542), the keeper cores once their
image has started (R543), a warden released and out of reset (R545). DEDUCED, log 7. -/
def State.agentRuns (s : State) (a : Agent) : Bool :=
  s.running && (match a with
    | .server c => s.regBit R.hostCoreRun c && s.coreAvail c
    | .keeper k => s.plat.keepersRun && !s.broken (locHost 2 k)
    | .warden r => s.bit (R.rgnCtl r) F.rgnCtl_WARDEN_RUN && s.rgnAvail r && !s.rgnInReset r
    | .pcieHost _ => false)

/-! ## What a hart reads of itself (R393, R394) -/

/-- A CSR of a server core that this spec gives a value of its own, or an interrupt it drives. -/
inductive HartCsr where
  | mhartid
  | time
  | sctxbind
  deriving DecidableEq, Repr

/-- The mhartid of a server core: its core number under R53 (R393). -/
def mhartid (core : Fin 64) : Word := BitVec.ofNat 64 core

/-- The frequency of the time CSR in Hz (R394). -/
def timebaseHz : Nat := 1000000000

/-- The time CSR of every server core: the wraps of the cadence counter above its nanoseconds (R394). It is computed from
the registers, so it follows their slews and steps. -/
def State.timeCsr (s : State) : Word :=
  BitVec.ofNat 64 (s.fld R.timeEpoch F.timeEpoch_WRAPS % 2 ^ 16 * 2 ^ 48 + nsOf s.now)

/-- Whether an Sstc comparison against the time CSR holds: the timer interrupt of a comparand is pending (R394). -/
def State.sstcDue (s : State) (cmp : Word) : Bool := decide (cmp.toNat ≤ s.timeCsr.toNat)

/-! ## The context of a hart (R395, R396) -/

/-- sctxbind of a hart. -/
def State.sctxbind (s : State) (c : Nat) : Word := (lookupKey s.host.sctx c).getD 0

/-- What a server core reads in a CSR: nothing where it does not run, which an unavailable core never does (R393 to R395). -/
def State.hartCsr (s : State) (core : Fin 64) (r : HartCsr) : Option Word :=
  if !s.agentRuns (.server core) then none
  else some (match r with
    | .mhartid => mhartid core
    | .time => s.timeCsr
    | .sctxbind => s.sctxbind core)

/-- SCTXBIND_WRITE (R395): M-mode and HS-mode write it; VS-mode takes a virtual-instruction exception, U-mode and VU-mode an
illegal-instruction exception. Reserved bits are written as zero. DEDUCED, log 55. -/
def execSctxbindWrite (core : Fin 64) (mode : HartMode) (value : Word) (s : State) : Host.Outcome State Fault Refusal :=
  let a : Agent := .server core
  if !s.agentRuns a then .next s
  else match mode with
  | .m | .hs =>
    let w : Word := value &&& BitVec.ofNat 64 (2 ^ 63 + 0xFFF)
    .next ({ s with host := { s.host with sctx := insertKey s.host.sctx core w } }.setResult a .done)
  | .vs => .next (s.setResult a .virtualInstr)
  | .u | .vu => .next (s.setResult a .illegal)

/-- The identity an access of a hart carries: SYS, a context, or none, which is an access fault (R396). -/
def State.coreIdentity (s : State) (c : Nat) (mode : HartMode) : Option (Option CtxId) :=
  match mode with
  | .m | .hs => some none
  | _ =>
    let w := s.sctxbind c
    if w.toNat / 2 ^ 63 = 1 then some (some (BitVec.ofNat 12 w.toNat)) else none

/-! ## Accesses to memory -/

/-- How a core's access ends: with a result, by failing with a status, or not yet. -/
inductive CoreEnd where
  | ok (r : AccResult)
  | fail (st : Status)
  | busy
  deriving DecidableEq, Repr

/-- The access-fault exception of an access (R397, R578, R630). -/
def CoreOp.faults : CoreOp → AccResult
  | .load => .loadFault
  | .fetch => .fetchFault
  | _ => .storeFault

/-- Whether an access takes data only. -/
def CoreOp.reads : CoreOp → Bool
  | .load => true
  | .fetch => true
  | _ => false

/-- The cache a core's cacheable access to a line goes through: the line's L3 slice for server and keeper cores, the region
cache for a warden (R362, R363). DEDUCED, log 59. -/
def agentCache (a : Agent) (line : Nat) : Nat :=
  match a with
  | .warden r => r
  | _ => 32 + sliceOf (128 * line)

/-- The checks of an access to HBM, line by line: the granule of a context's request, and the stack of any (R68, R332). -/
def State.coreCheck (s : State) (ctx : Option CtxId) (isRead : Bool) (req : Loc) : List Nat → Option Status × State
  | [] => (none, s)
  | pa :: rest =>
    match ctx with
    | some c =>
      (match s.homeCheck c.toNat pa isRead req with
        | (some st, s) => (some st, s)
        | (none, s) => State.coreCheck s ctx isRead req rest)
    | none =>
      if s.stackGone pa then (some .uncorrectable, s.memUnavail pa none req)
      else State.coreCheck s ctx isRead req rest

/-- The detectors that a core's cacheable access meets at a cache: for a server core, those of its L1 and L2 too (R594). -/
def agentDets (a : Agent) (agent : Nat) : List CacheDet :=
  match a with
  | .server c => coreDets c agent
  | _ => cacheDets agent

/-- Words read by a core: through the caches that serve it, where the access is cacheable. -/
def State.agentWords (s : State) (a : Agent) (ctx : Option CtxId) (cacheable : Bool) (ws : List Nat) : Bool × State :=
  if cacheable then s.cacheWords (agentCache a) (agentDets a) (ctx.map (·.toNat)) (agentLoc a) ws
  else s.readWords (ctx.map (·.toNat)) (agentLoc a) ws

/-- A write to the verified warden image that only a keeper core may make (R608). DEDUCED, log 85. -/
def State.imageGuard (s : State) (a : Agent) (pa len : Nat) : Bool :=
  s.wardenImage pa len && (match a with
    | .keeper _ => false
    | _ => true)

/-- Whether an access is an atomic. -/
def CoreOp.atomic : CoreOp → Bool
  | .amo _ _ _ => true
  | _ => false

/-- What a cacheable access through a slice leaves in the caches of the cores. -/
def State.agentTouch (s : State) (a : Agent) (op : CoreOp) (ctx : Option CtxId) (pa len : Nat) : State :=
  let fetch := match op with
    | .fetch => true
    | _ => false
  match a with
  | .server c => (linesOf pa len).foldl (fun s l => s.coreTouch (some c.val) fetch (!op.reads) ctx l) s
  | .keeper _ => (linesOf pa len).foldl (fun s l => s.coreTouch none fetch (!op.reads) ctx l) s
  | _ => s

/-- Whether a cacheable access of a core needs an L3 slice that has failed: it waits (R64). DEDUCED, log 82. -/
def State.sliceLost (s : State) (a : Agent) (pa len : Nat) : Bool :=
  (linesOf pa len).any (fun l => 32 ≤ agentCache a l && s.broken (locHost 1 (agentCache a l - 32)))

/-- A core's access to HBM, checked. Atomics execute at the home and give the old value (R382). -/
def State.hbmAccess (s : State) (a : Agent) (ctx : Option CtxId) (op : CoreOp) (pa size : Nat) (cacheable : Bool) :
    CoreEnd × State :=
  let req := agentLoc a
  let nat := ctx.map (·.toNat)
  match op with
  | .store bs =>
    (match s.agentWords a ctx cacheable (partWords pa bs.length) with
      | (true, s) => (.fail .uncorrectable, s)
      | (false, s) =>
        if s.imageGuard a pa bs.length then (.ok .done, s.imageDenied pa req)
        else if cacheable then (.ok .done, (s.cachedStore (agentCache a) (agentDets a) ctx pa bs).agentTouch a op ctx pa bs.length)
        else (.ok .done, (s.dirsMeet pa bs.length ctx).storeBytes pa bs nat req))
  | .amo o data cmp =>
    (match (s.dirsMeet pa size ctx).consume pa size nat req with
      | (true, s) => (.fail .uncorrectable, s)
      | (false, s) =>
        let old := s.memBytes pa size
        if s.imageGuard a pa size then (.ok (.data old), s.imageDenied pa req)
        else (.ok (.data old), s.homeAtomic pa size (fun w => o.apply size w data.toNat cmp.toNat) nat req))
  | _ =>
    (match s.agentWords a ctx cacheable (wordsOf pa size) with
      | (true, s) => (.fail .uncorrectable, s)
      | (false, s) =>
        (.ok (.data (s.memBytes pa size)),
          if cacheable then (s.cachedFill (agentCache a) (agentDets a) ctx pa size).agentTouch a op ctx pa size
          else s.dirsMeet pa size ctx))

/-- The bytes an access covers. -/
def CoreOp.len (op : CoreOp) (size : Nat) : Nat :=
  match op with
  | .store bs => bs.length
  | _ => size

/-- A core's access to HBM (R397, R578). DEDUCED, log 59. -/
def State.hbmCore (s : State) (a : Agent) (ctx : Option CtxId) (op : CoreOp) (pa size : Nat) (cacheable : Bool) :
    CoreEnd × State :=
  let len := op.len size
  let firsts := (linePieces pa len).map (fun p => p.1 * 128 + p.2.1)
  let legal := match op with
    | .amo o _ _ => atomLegal o (pa % 128) size
    | _ => true
  if !legal then (.ok op.faults, s)
  else match s.coreCheck ctx op.reads (agentLoc a) firsts with
  | (some st, s) => (.fail st, s)
  | (none, s) =>
    if (if cacheable && !op.atomic then s.waysBusy pa len else s.rangeBusy pa len) || s.memHeld (agentDie a) pa
        || (cacheable && s.sliceLost a pa len) then (.busy, s)
    else
      let r := s.hbmAccess a ctx op pa size cacheable
      (r.1, s.movedFaults r.2)

/-- A core's access to the outbound window of a port (R411, R412, R422): an atomic fails with GRANULE; where the port sends
nothing, reads give all ones and writes are discarded. DEDUCED, log 62. -/
def State.outCore (s : State) (a : Agent) (op : CoreOp) (q pa size : Nat) : CoreEnd × State :=
  let own : OutOwner := .core (agentLoc a).toNat
  match op with
  | .amo _ _ _ => (.fail .granule, s)
  | .store bs => (.ok .done, if s.outOpen q then s.outWrite q pa bs false own none else s)
  | _ =>
    if s.outOpen q then (.ok .waiting, s.outRead q (s.outAddr q pa) size own none)
    else (.ok (.data (List.replicate size 0xFF)), s)

/-- A SYS access to a reserved range (R316): a read gives all ones, a write is discarded, and ADDR_RESERVED is logged. -/
def State.reservedCore (s : State) (a : Agent) (op : CoreOp) (pa size : Nat) : CoreEnd × State :=
  let s := s.addrReserved (agentDie a) pa (agentLoc a)
  match op with
  | .store _ => (.ok .done, s)
  | _ => (.ok (.data (List.replicate size 0xFF)), s)

/-- Keeper scratch SRAM as far as a core sees it: the boot ROM below it takes no write (R315, R543). PRESUMED, log 60. -/
def scratchBase : Nat := 0x800000

/-- A SYS access of a keeper or warden core to the boot ROM and keeper scratch range: neither takes an atomic (R397), and the
boot ROM takes no write. DEDUCED, log 59. PRESUMED, log 60. -/
def State.keeperCore (s : State) (a : Agent) (op : CoreOp) (pa size : Nat) : CoreEnd × State :=
  let req := agentLoc a
  match op with
  | .amo _ _ _ => (.ok .storeFault, s)
  | .store bs =>
    if pa < scratchBase then (.ok .done, s)
    else (match s.mergeRead pa bs.length none req with
      | (true, s) => (.fail .uncorrectable, s)
      | (false, s) => (.ok .done, s.storeBytes pa bs none req))
  | _ =>
    match s.consume pa size none req with
    | (true, s) => (.fail .uncorrectable, s)
    | (false, s) => (.ok (.data (s.memBytes pa size)), s)

/-! ## Accesses to register space (R397, R630) -/

/-- An aligned load of a register, an IMSIC page or an ECAM window. An ECAM read here is one that no device answers; one that
a device answers is ECAM_ACCESS. -/
def State.regLoad (s : State) (a : Agent) (ofs size : Nat) : State :=
  match ecamAt ofs with
  | some (q, o) => s.forInst 4 q (fun q => s.forInst 9 size (fun n => s.after (execEcamAccess ⟨a, q, BitVec.ofNat 28 o, n, none, []⟩ s)))
  | none =>
    match s.regRead a ofs with
    | (w, s) => s.setResult a (.data (natToBytes size w.toNat))

/-- An aligned store there. -/
def State.regStore (s : State) (a : Agent) (ofs : Nat) (bs : List Byte) : State :=
  let v := bytesToNat bs
  match ecamAt ofs, imsicAt ofs with
  | some (q, o), _ => s.forInst 4 q (fun q => s.forInst 9 bs.length (fun n =>
      s.after (execEcamAccess ⟨a, q, BitVec.ofNat 28 o, n, some (BitVec.ofNat 64 v), []⟩ s)))
  | none, some _ => (if bs.length = 4 then s.imsicWrite ofs v else s.regWrite a ofs (BitVec.ofNat 64 v)).setResult a .done
  | none, none => (s.regWrite a ofs (BitVec.ofNat 64 v)).setResult a .done

/-- A SYS access to register space: aligned loads and stores of 8 bytes, and of 4 in the ECAM windows and IMSIC pages; any
other performs nothing and is an access fault. -/
def State.regCore (s : State) (a : Agent) (op : CoreOp) (pa size : Nat) : State :=
  let ofs := pa - regBase
  let n := op.len size
  let four := (imsicAt ofs).isSome || (ecamAt ofs).isSome
  let ok := (n == 8 || (n == 4 && four)) && pa % n == 0
  match op with
  | .load => if ok then s.regLoad a ofs n else s.setResult a .loadFault
  | .store bs => if ok then s.regStore a ofs bs else s.setResult a .storeFault
  | _ => s.setResult a op.faults

/-! ## The accesses as commands -/

/-- The end of a core's access: its result is recorded; a failure is the access-fault exception of the access, and a context
it carried faults (R397, R578). An access that must wait leaves the state as it was. -/
def State.coreEnd (old : State) (a : Agent) (ctx : Option CtxId) (op : CoreOp) (x : CoreEnd × State) : State :=
  match x with
  | (.busy, _) => old
  | (.ok r, s) => s.setResult a r
  | (.fail st, s) =>
    let s := s.setResult a op.faults
    match ctx with
    | some c => s.ctxFault c.toNat st.code (agentLoc a)
    | none => s

/-- SERVER_CORE_ACCESS (R396, R397). DEDUCED, log 59. -/
def execServerCoreAccess (x : CoreAccess) (s : State) : Host.Outcome State Fault Refusal :=
  let a : Agent := .server x.core
  let pa := x.pa.toNat
  let n := x.size.val
  if !s.agentRuns a then .next s
  else match s.coreIdentity x.core x.mode with
  | none => .next (s.setResult a x.op.faults)
  | some ctx =>
    match rangeOf pa, ctx with
    | .hbm, _ => .next (s.coreEnd a ctx x.op (s.hbmCore a ctx x.op pa n x.cacheable))
    | .pcie q, _ => .next (s.coreEnd a ctx x.op (s.outCore a x.op q pa n))
    | .keeper, none => .next (s.setResult a x.op.faults)
    | .cluMem, none => .next (s.setResult a x.op.faults)
    | .regs, none => .next (s.regCore a x.op pa n)
    | .reserved, none => .next (s.coreEnd a ctx x.op (s.reservedCore a x.op pa n))
    | _, some _ => .next (s.coreEnd a ctx x.op (.fail .granule, s))

/-- The agent of a firmware access. -/
def FwAccess.agent (x : FwAccess) : Agent :=
  match x.core with
  | .inl k => .keeper k
  | .inr r => .warden r

/-- KEEPER_WARDEN_ACCESS (R398, R545, R578, R630): every access carries SYS; the cluster memory aperture is no one's but the
atomizers' (R316). DEDUCED, log 59. -/
def execKeeperWardenAccess (x : FwAccess) (s : State) : Host.Outcome State Fault Refusal :=
  let a := x.agent
  let pa := x.pa.toNat
  let n := x.size.val
  if !s.agentRuns a then .next s
  else match rangeOf pa with
  | .hbm => .next (s.coreEnd a none x.op (s.hbmCore a none x.op pa n true))
  | .pcie q => .next (s.coreEnd a none x.op (s.outCore a x.op q pa n))
  | .keeper => .next (s.coreEnd a none x.op (s.keeperCore a x.op pa n))
  | .cluMem => .next (s.setResult a x.op.faults)
  | .regs => .next (s.regCore a x.op pa n)
  | .reserved => .next (s.coreEnd a none x.op (s.reservedCore a x.op pa n))

/-! ## Interrupt messages (R399 to R403) -/

/-- Where a message goes. -/
inductive MsgTarget where
  | imsic (core file id : Nat)
  | msix (port vector : Nat)
  | keeper (core line : Nat)
  | warden (region line : Nat)
  deriving DecidableEq, Repr

/-- The target of a route entry (R401, R402); none where the message is dropped. DEDUCED, log 55. -/
def State.routeTarget (s : State) (e : Nat) : Option MsgTarget :=
  let id := natBits e 13 3
  let t := natBits e 19 14
  let file := natBits e 23 20
  if !natBit e 0 || e / 2 ^ 24 != 0 then none
  else match natBits e 2 1 with
  | 0 => if 1 ≤ id ∧ id ≤ 255 ∧ file ≤ 8 ∧ s.coreAvail t then some (.imsic t file id) else none
  | 1 => if id < 32 ∧ t < 4 ∧ file = 0 ∧ s.pcieEndpoint t ∧ (s.pport t).msixOn then some (.msix t id) else none
  | 2 => if id < 64 ∧ t < 2 ∧ file = 0 then some (.keeper t id) else none
  | _ => if id < 64 ∧ t < 32 ∧ file = 0 then some (.warden t id) else none

/-- A local line is raised at a keeper (kind 2) or warden (kind 3) core. -/
def State.raiseLine (s : State) (kind core line : Nat) : State :=
  if s.host.lines.contains (kind, core, line) then s
  else { s with host := { s.host with lines := s.host.lines ++ [(kind, core, line)] } }

/-- A message is delivered. -/
def State.sendMsg (s : State) : MsgTarget → State
  | .imsic c f i => s.imsicPend c f i
  | .msix q v => s.fireVector q v
  | .keeper k l => s.raiseLine 2 k l
  | .warden r l => s.raiseLine 3 r l

/-- The address of the route entry of a page (R400). -/
def State.routeEntryPa (s : State) (p : Page) (i : Nat) : Nat :=
  s.fld R.hostIrtBase F.hostIrtBase_ADDR * 0x800000 + 8 * (p.base i / 0x1000)

/-- INTERRUPT_MESSAGE (R399 to R402): the oldest message due of a page goes where its route entry directs, or is dropped with
IRT_ERR, but for the HOST page's own. -/
def execInterruptMessage (page : Page) (inst : Fin 1024) (s : State) : Host.Outcome State Fault Refusal :=
  if !s.running || !s.host.irqDue.contains (page, inst.val) then .next s
  else
    let s := { s with host := { s.host with irqDue := s.host.irqDue.erase (page, inst.val) } }
    let pa := s.routeEntryPa page inst
    let drop := if page = .host then s else s.raise .host 0 3
    if !s.sysOk pa 8 || s.memUE pa 8 then .next drop
    else match s.routeTarget (s.memNat pa 8) with
    | none => .next drop
    | some t => .next (s.sendMsg t)

end Sys2Proof.Machine
end

