-- ==== Sys2Proof/Machine/Dispatch.lean ====
section
/-! DEFINITION. The dispatch of the commands: one arm for each constructor of `Instr`. -/

namespace Sys2Proof.Machine

/-- The effect of a command on everything but the queue of waiting commands. -/
def exec (i : Instr) (s : State) : Host.Outcome State Fault Refusal :=
  match i with
  | .registerWrite writes => Sys2Proof.Machine.execRegisterWrite writes s
  | .dvfsRequest writes => Sys2Proof.Machine.execDvfsRequest writes s
  | .dvfsDone r => Sys2Proof.Machine.execDvfsDone r s
  | .powerSample p => Sys2Proof.Machine.execPowerSample p s
  | .excursionExpiry moves => Sys2Proof.Machine.execExcursionExpiry moves s
  | .thermalLimit t => Sys2Proof.Machine.execThermalLimit t s
  | .thermalTrip g tempC => Sys2Proof.Machine.execThermalTrip g tempC s
  | .powerFail f us => Sys2Proof.Machine.execPowerFail f us s
  | .vinInRange straps => Sys2Proof.Machine.execVinInRange straps s
  | .resetNAssert ns => Sys2Proof.Machine.execResetNAssert ns s
  | .resetNRelease => Sys2Proof.Machine.execResetNRelease s
  | .coldReset cause => Sys2Proof.Machine.execColdReset cause s
  | .coldResetStepEnd e => Sys2Proof.Machine.execColdResetStepEnd e s
  | .rstCtlCold a => Sys2Proof.Machine.execRstCtlCold a s
  | .rstCtlPackage a => Sys2Proof.Machine.execRstCtlPackage a s
  | .rstCtlPartition a r => Sys2Proof.Machine.execRstCtlPartition a r s
  | .unitReset a r c u => Sys2Proof.Machine.execUnitReset a r c u s
  | .clusterReset a r c => Sys2Proof.Machine.execClusterReset a r c s
  | .packageReset cause => Sys2Proof.Machine.execPackageReset cause s
  | .packageResetStepEnd e => Sys2Proof.Machine.execPackageResetStepEnd e s
  | .drydownEnd b => Sys2Proof.Machine.execDrydownEnd b s
  | .drydownTimeout b => Sys2Proof.Machine.execDrydownTimeout b s
  | .resetComplete b => Sys2Proof.Machine.execResetComplete b s
  | .availabilityEvent locs => Sys2Proof.Machine.execAvailabilityEvent locs s
  | .availRetire a loc => Sys2Proof.Machine.execAvailRetire a loc s
  | .blockFailed loc => Sys2Proof.Machine.execBlockFailed loc s
  | .timeTick => Sys2Proof.Machine.execTimeTick s
  | .refLost => Sys2Proof.Machine.execRefLost s
  | .refRelock => Sys2Proof.Machine.execRefRelock s
  | .ppsEdge => Sys2Proof.Machine.execPpsEdge s
  | .ppsTimeout => Sys2Proof.Machine.execPpsTimeout s
  | .timeSet a value => Sys2Proof.Machine.execTimeSet a value s
  | .setTimeout => Sys2Proof.Machine.execSetTimeout s
  | .anchorFire stream => Sys2Proof.Machine.execAnchorFire stream s
  | .anchorTokenDeliver stream => Sys2Proof.Machine.execAnchorTokenDeliver stream s
  | .anchorArm a stream cfg => Sys2Proof.Machine.execAnchorArm a stream cfg s
  | .anchorDisarm a stream cfg => Sys2Proof.Machine.execAnchorDisarm a stream cfg s
  | .anchorTailWrite a stream tail => Sys2Proof.Machine.execAnchorTailWrite a stream tail s
  | .throttleAssert => Sys2Proof.Machine.execThrottleAssert s
  | .throttleRelease => Sys2Proof.Machine.execThrottleRelease s
  | .throttleHalfIssue => Sys2Proof.Machine.execThrottleHalfIssue s
  | .throttleFullIssue => Sys2Proof.Machine.execThrottleFullIssue s
  | .keySlotWrite a slot w => Sys2Proof.Machine.execKeySlotWrite a slot w s
  | .queueTailWrite a u q tail => Sys2Proof.Machine.execQueueTailWrite a u q tail s
  | .ringFetch u q => Sys2Proof.Machine.execRingFetch u q s
  | .commandIssue u q => Sys2Proof.Machine.execCommandIssue u q s
  | .waitTimeout u w => Sys2Proof.Machine.execWaitTimeout u w s
  | .commandComplete u q seq => Sys2Proof.Machine.execCommandComplete u q seq s
  | .tokenSend u line => Sys2Proof.Machine.execTokenSend u line s
  | .messageDeliver lines => Sys2Proof.Machine.execMessageDeliver lines s
  | .creditArrive u line => Sys2Proof.Machine.execCreditArrive u line s
  | .nop u q => Sys2Proof.Machine.execNop u q s
  | .send u q => Sys2Proof.Machine.execSend u q s
  | .mark u q => Sys2Proof.Machine.execMark u q s
  | .grant u q => Sys2Proof.Machine.execGrant u q s
  | .flag u q => Sys2Proof.Machine.execFlag u q s
  | .reside u q => Sys2Proof.Machine.execReside u q s
  | .mma u q cyc => Sys2Proof.Machine.execMma u q cyc s
  | .slotTokenClaim u q cyc => Sys2Proof.Machine.execSlotTokenClaim u q cyc s
  | .accHazardTimeout u q cyc => Sys2Proof.Machine.execAccHazardTimeout u q cyc s
  | .arrayCommandComplete u q cyc => Sys2Proof.Machine.execArrayCommandComplete u q cyc s
  | .accClear u q cyc => Sys2Proof.Machine.execAccClear u q cyc s
  | .accSpill u q cyc => Sys2Proof.Machine.execAccSpill u q cyc s
  | .accFill u q cyc => Sys2Proof.Machine.execAccFill u q cyc s
  | .accMerge u q cyc => Sys2Proof.Machine.execAccMerge u q cyc s
  | .accEngineDone u q cyc => Sys2Proof.Machine.execAccEngineDone u q cyc s
  | .drain u q cyc => Sys2Proof.Machine.execDrain u q cyc s
  | .drainComplete u q cyc => Sys2Proof.Machine.execDrainComplete u q cyc s
  | .vecRun u q => Sys2Proof.Machine.execVecRun u q s
  | .softmax u q => Sys2Proof.Machine.execSoftmax u q s
  | .conv u q cyc => Sys2Proof.Machine.execConv u q cyc s
  | .pool u q => Sys2Proof.Machine.execPool u q s
  | .regroup u q => Sys2Proof.Machine.execRegroup u q s
  | .vecCommandBegin u q cyc => Sys2Proof.Machine.execVecCommandBegin u q cyc s
  | .vecCommandComplete u q cyc => Sys2Proof.Machine.execVecCommandComplete u q cyc s
  | .arrCntClr a u => Sys2Proof.Machine.execArrCntClr a u s
  | .accCntClr a u => Sys2Proof.Machine.execAccCntClr a u s
  | .vecCntClr a u => Sys2Proof.Machine.execVecCntClr a u s
  | .cluCntClr a c => Sys2Proof.Machine.execCluCntClr a c s
  | .dmaCntClr a c => Sys2Proof.Machine.execDmaCntClr a c s
  | .start a ctx => Sys2Proof.Machine.execStart a ctx s
  | .preempt a ctx => Sys2Proof.Machine.execPreempt a ctx s
  | .resume a ctx => Sys2Proof.Machine.execResume a ctx s
  | .kill a ctx => Sys2Proof.Machine.execKill a ctx s
  | .release a ctx => Sys2Proof.Machine.execRelease a ctx s
  | .contextFault faults => Sys2Proof.Machine.execContextFault faults s
  | .teardownComplete ctx => Sys2Proof.Machine.execTeardownComplete ctx s
  | .residencyChange u => Sys2Proof.Machine.execResidencyChange u s
  | .unitAtRest u => Sys2Proof.Machine.execUnitAtRest u s
  | .preemptSave ctx u => Sys2Proof.Machine.execPreemptSave ctx u s
  | .preemptSaveDone ctx => Sys2Proof.Machine.execPreemptSaveDone ctx s
  | .preemptTimeout ctx => Sys2Proof.Machine.execPreemptTimeout ctx s
  | .resumeDone ctx => Sys2Proof.Machine.execResumeDone ctx s
  | .deadlineCheck r u q => Sys2Proof.Machine.execDeadlineCheck r u q s
  | .dlmEnable a r cfg => Sys2Proof.Machine.execDlmEnable a r cfg s
  | .decisionResume u q => Sys2Proof.Machine.execDecisionResume u q s
  | .taskPlace u q => Sys2Proof.Machine.execTaskPlace u q s
  | .tload a u value => Sys2Proof.Machine.execTload a u value s
  | .dmaCopy u q => Sys2Proof.Machine.execDmaCopy u q s
  | .prefetch u q => Sys2Proof.Machine.execPrefetch u q s
  | .dmaPiece c ch => Sys2Proof.Machine.execDmaPiece c ch s
  | .walkComplete ws => Sys2Proof.Machine.execWalkComplete ws s
  | .fqLatchDrain die => Sys2Proof.Machine.execFqLatchDrain die s
  | .fqResolveRetry a die qid => Sys2Proof.Machine.execFqResolveRetry a die qid s
  | .fqResolveFail a die qid => Sys2Proof.Machine.execFqResolveFail a die qid s
  | .gotSync a value => Sys2Proof.Machine.execGotSync a value s
  | .gotSyncDone => Sys2Proof.Machine.execGotSyncDone s
  | .tlbInv a value => Sys2Proof.Machine.execTlbInv a value s
  | .tlbInvDone => Sys2Proof.Machine.execTlbInvDone s
  | .rdS r rivals => Sys2Proof.Machine.execRdS r rivals s
  | .rdX r rivals => Sys2Proof.Machine.execRdX r rivals s
  | .upg r rivals => Sys2Proof.Machine.execUpg r rivals s
  | .ownNodata r rivals => Sys2Proof.Machine.execOwnNodata r rivals s
  | .rdCur r rivals => Sys2Proof.Machine.execRdCur r rivals s
  | .wrLine r rivals => Sys2Proof.Machine.execWrLine r rivals s
  | .wrPart r rivals => Sys2Proof.Machine.execWrPart r rivals s
  | .atom r rivals => Sys2Proof.Machine.execAtom r rivals s
  | .wb agent line => Sys2Proof.Machine.execWb agent line s
  | .cleanEvict agent line => Sys2Proof.Machine.execCleanEvict agent line s
  | .snpS agent line => Sys2Proof.Machine.execSnpS agent line s
  | .snpX agent line => Sys2Proof.Machine.execSnpX agent line s
  | .snpInv agent line => Sys2Proof.Machine.execSnpInv agent line s
  | .snpCur agent line => Sys2Proof.Machine.execSnpCur agent line s
  | .snoopAnswer agent line => Sys2Proof.Machine.execSnoopAnswer agent line s
  | .cohDataGrant agent line => Sys2Proof.Machine.execCohDataGrant agent line s
  | .cmpAck agent line => Sys2Proof.Machine.execCmpAck agent line s
  | .wbAck agent line => Sys2Proof.Machine.execWbAck agent line s
  | .nack agent line => Sys2Proof.Machine.execNack agent line s
  | .nackRetry agent line => Sys2Proof.Machine.execNackRetry agent line s
  | .arbiterForward => Sys2Proof.Machine.execArbiterForward s
  | .cohModeWrite a mode => Sys2Proof.Machine.execCohModeWrite a mode s
  | .modeSwitchDone => Sys2Proof.Machine.execModeSwitchDone s
  | .dirInit a die home => Sys2Proof.Machine.execDirInit a die home s
  | .dirInitDone die home => Sys2Proof.Machine.execDirInitDone die home s
  | .serverCoreAccess x => Sys2Proof.Machine.execServerCoreAccess x s
  | .sctxbindWrite core mode value => Sys2Proof.Machine.execSctxbindWrite core mode value s
  | .cgrpClk a value => Sys2Proof.Machine.execCgrpClk a value s
  | .cgrpClkDone => Sys2Proof.Machine.execCgrpClkDone s
  | .coreRun a value => Sys2Proof.Machine.execCoreRun a value s
  | .interruptMessage page inst => Sys2Proof.Machine.execInterruptMessage page inst s
  | .pcieInboundRequest r => Sys2Proof.Machine.execPcieInboundRequest r s
  | .pcieParkTimeout port idx => Sys2Proof.Machine.execPcieParkTimeout port idx s
  | .pcieWriteAck port => Sys2Proof.Machine.execPcieWriteAck port s
  | .pcieReadCompletion port data => Sys2Proof.Machine.execPcieReadCompletion port data s
  | .pcieCplTimeout port => Sys2Proof.Machine.execPcieCplTimeout port s
  | .pcieLinkDown port cause => Sys2Proof.Machine.execPcieLinkDown port cause s
  | .pcieRecovery port => Sys2Proof.Machine.execPcieRecovery port s
  | .pcieLinkUp port rate width flit => Sys2Proof.Machine.execPcieLinkUp port rate width flit s
  | .hlRelease a qid => Sys2Proof.Machine.execHlRelease a qid s
  | .sbr a port => Sys2Proof.Machine.execSbr a port s
  | .ecamAccess x => Sys2Proof.Machine.execEcamAccess x s
  | .mboxWrite port idx value => Sys2Proof.Machine.execMboxWrite port idx value s
  | .heaterAdjust port codes => Sys2Proof.Machine.execHeaterAdjust port codes s
  | .lockLoss port ring => Sys2Proof.Machine.execLockLoss port ring s
  | .trainingDone port lanesTx lanesRx codes margin => Sys2Proof.Machine.execTrainingDone port lanesTx lanesRx codes margin s
  | .optEn a port en => Sys2Proof.Machine.execOptEn a port en s
  | .retrain a port => Sys2Proof.Machine.execRetrain a port s
  | .linkRecovered port ack => Sys2Proof.Machine.execLinkRecovered port ack s
  | .recoveryTimeout port => Sys2Proof.Machine.execRecoveryTimeout port s
  | .idle port f => Sys2Proof.Machine.execIdle port f s
  | .msg port f => Sys2Proof.Machine.execMsg port f s
  | .credit port f => Sys2Proof.Machine.execCredit port f s
  | .hello port f => Sys2Proof.Machine.execHello port f s
  | .cadReq port f => Sys2Proof.Machine.execCadReq port f s
  | .cadRsp port f => Sys2Proof.Machine.execCadRsp port f s
  | .frameSend port vc sender => Sys2Proof.Machine.execFrameSend port vc sender s
  | .ackTimer port => Sys2Proof.Machine.execAckTimer port s
  | .helloTimer port => Sys2Proof.Machine.execHelloTimer port s
  | .candidateExpiry port => Sys2Proof.Machine.execCandidateExpiry port s
  | .cadReqTimer => Sys2Proof.Machine.execCadReqTimer s
  | .slotArm a die slot cfg => Sys2Proof.Machine.execSlotArm a die slot cfg s
  | .slotDisarm a die slot => Sys2Proof.Machine.execSlotDisarm a die slot s
  | .readyPoll die slot => Sys2Proof.Machine.execReadyPoll die slot s
  | .chunkReceive die slot => Sys2Proof.Machine.execChunkReceive die slot s
  | .chunkSend die slot => Sys2Proof.Machine.execChunkSend die slot s
  | .stepStart die slot => Sys2Proof.Machine.execStepStart die slot s
  | .windowOpen die slot => Sys2Proof.Machine.execWindowOpen die slot s
  | .windowClose die slot => Sys2Proof.Machine.execWindowClose die slot s
  | .sealReq die slot => Sys2Proof.Machine.execSealReq die slot s
  | .verdictSeal die slot => Sys2Proof.Machine.execVerdictSeal die slot s
  | .verdictRepeat die slot => Sys2Proof.Machine.execVerdictRepeat die slot s
  | .snapshotOpen die slot => Sys2Proof.Machine.execSnapshotOpen die slot s
  | .snapshotClose die slot => Sys2Proof.Machine.execSnapshotClose die slot s
  | .trickleSend die slot => Sys2Proof.Machine.execTrickleSend die slot s
  | .snapEntryReceive die slot => Sys2Proof.Machine.execSnapEntryReceive die slot s
  | .imageComplete die slot image => Sys2Proof.Machine.execImageComplete die slot image s
  | .digest a die slot op => Sys2Proof.Machine.execDigest a die slot op s
  | .fillSend a die slot op => Sys2Proof.Machine.execFillSend a die slot op s
  | .fillRecv a die slot op => Sys2Proof.Machine.execFillRecv a die slot op s
  | .restore a die slot op => Sys2Proof.Machine.execRestore a die slot op s
  | .store a die slot op => Sys2Proof.Machine.execStore a die slot op s
  | .abort a die slot op => Sys2Proof.Machine.execAbort a die slot op s
  | .snapOpDone die slot => Sys2Proof.Machine.execSnapOpDone die slot s
  | .snapOpTimeout die slot => Sys2Proof.Machine.execSnapOpTimeout die slot s
  | .fixStoreWrite a idx value => Sys2Proof.Machine.execFixStoreWrite a idx value s
  | .fixProgramDone bank => Sys2Proof.Machine.execFixProgramDone bank s
  | .wardenRun a r => Sys2Proof.Machine.execWardenRun a r s
  | .imageVerify a cmd => Sys2Proof.Machine.execImageVerify a cmd s
  | .verifyDone => Sys2Proof.Machine.execVerifyDone s
  | .scrubRead stack => Sys2Proof.Machine.execScrubRead stack s
  | .errRecClear a page inst => Sys2Proof.Machine.execErrRecClear a page inst s
  | .injWrite a page inst value => Sys2Proof.Machine.execInjWrite a page inst value s
  | .d2dFlitReceive link far ctx flipped => Sys2Proof.Machine.execD2dFlitReceive link far ctx flipped s
  | .linkRetrain link => Sys2Proof.Machine.execLinkRetrain link s
  | .linkDead link => Sys2Proof.Machine.execLinkDead link s
  | .cold => Sys2Proof.Machine.execCold s
  | .warm => Sys2Proof.Machine.execWarm s
  | .offPrep => Sys2Proof.Machine.execOffPrep s
  | .capW value moves => Sys2Proof.Machine.execCapW value moves s
  | .entdaa addr => Sys2Proof.Machine.execEntdaa addr s
  | .getVersion => Sys2Proof.Machine.execGetVersion s
  | .getCapabilities => Sys2Proof.Machine.execGetCapabilities s
  | .negotiateAlgorithms ed25519 sha512 => Sys2Proof.Machine.execNegotiateAlgorithms ed25519 sha512 s
  | .getDigests => Sys2Proof.Machine.execGetDigests s
  | .getCertificate slot ofs len => Sys2Proof.Machine.execGetCertificate slot ofs len s
  | .challenge slot nonce => Sys2Proof.Machine.execChallenge slot nonce s
  | .getMeasurements op signed => Sys2Proof.Machine.execGetMeasurements op signed s
  | .spdmUnsupportedRequest => Sys2Proof.Machine.execSpdmUnsupportedRequest s
  | .bypass => Sys2Proof.Machine.execBypass s
  | .idcode => Sys2Proof.Machine.execIdcode s
  | .samplePreload pins preload => Sys2Proof.Machine.execSamplePreload pins preload s
  | .extest => Sys2Proof.Machine.execExtest s
  | .highz => Sys2Proof.Machine.execHighz s
  | .clamp => Sys2Proof.Machine.execClamp s
  | .hbmHot stack tempC => Sys2Proof.Machine.execHbmHot stack tempC s
  | .imageOffer image => Sys2Proof.Machine.execImageOffer image s
  | .pcieConfigRequest port r => Sys2Proof.Machine.execPcieConfigRequest port r s
  | .perstHoldExpiry => Sys2Proof.Machine.execPerstHoldExpiry s
  | .d2dRetrainDone link => Sys2Proof.Machine.execD2dRetrainDone link s
  | .keeperWardenAccess x => Sys2Proof.Machine.execKeeperWardenAccess x s

end Sys2Proof.Machine
end

