-- ==== Sys2Proof/Safety.lean ====
section
/-! DEFINITION. The terms that claims about the block are stated in: the canonical form of the sparse parts of the state, and
what a command leaves unchanged. -/

namespace Sys2Proof.Machine

/-- The canonical form of every sparse part of the state: the register file, package memory, the inverted bits of stored
words, the scratchpads and the accumulator memories. -/
def State.canonical (s : State) : Prop :=
  Sparse.wf Reg.key Reg.reset s.regs = true ∧ Memory.wf s.mem = true
    ∧ Sparse.wf id (fun _ => (0 : BitVec 72)) s.errs = true ∧ Sparse.wf id (fun _ => (0 : Byte)) s.spad = true
    ∧ Sparse.wf id (fun _ => (0 : AccWord)) s.acc = true

/-- Every register but those listed reads in `t` what it read in `s`. -/
def State.onlyRegs (s t : State) (rs : List Reg) : Prop := ∀ r, r ∉ rs → t.reg r = s.reg r

/-- Every byte of package memory (its physical addresses have 52 bits), of the scratchpads and every accord entry is in `t`
as it was in `s`. -/
def State.memKept (s t : State) : Prop :=
  (∀ a < 2 ^ 52, t.memByte a = s.memByte a) ∧ (∀ k, Sparse.get 0 t.spad k = Sparse.get 0 s.spad k)
    ∧ (∀ k, Sparse.get 0 t.acc k = Sparse.get 0 s.acc k)

/-- Of the registers only those listed may change, and no memory does. -/
def State.changesOnly (s t : State) (rs : List Reg) : Prop := s.onlyRegs t rs ∧ s.memKept t

/-- The command answers the next state `t`. -/
abbrev Runs (c : Instr) (s t : State) : Prop := exec c s = .next t

end Sys2Proof.Machine
end

