-- ==== Sys2Proof/Certificates/Slice0/Obligations.lean ====
section
/-! DEFINITION. The statements about the W1, for the provers: that every command completes with its own effect, what each
leaves unchanged, and what every step keeps. -/

open Sys2Proof Sys2Proof.Machine

/-! ## Steps, reset and the state as data -/

/-- A step takes the command at the front of the queue and runs it on the rest of the queue; on an empty queue the block idles
(DESIGN CHOICE, assumption log 1), and no word of the table spells a command. -/
def Obligations.StepRunsFront : Prop :=
  (∀ (c : Instr) (rest : List Instr) (s : State), step { s with pending := c :: rest } = exec c { s with pending := rest })
    ∧ (∀ s : State, s.pending = [] → step s = .next s)
    ∧ ∀ (s : State) (nbits w : Nat), decodeTableWord nbits w = none ∧ s.withFetchWord nbits w = s

/-- The state after reset is in canonical form, its queue is empty and every register reads its reset value.
Readings of the model's own that it uses: assumption log 3, 4 and 5. -/
def Obligations.ResetState : Prop :=
  State.reset.canonical ∧ State.reset.pending = [] ∧ (∀ r, State.reset.reg r = r.reset)
    ∧ ∀ a, State.reset.memByte a = 0

/-- Every step keeps the canonical form of the register file, of package memory, of the damaged words, of the scratchpads
and of the accumulator memories.
Readings of the model's own that it uses: assumption log 3 and 35. -/
def Obligations.StepKeepsCanonical : Prop :=
  ∀ s t : State, s.canonical → step s = .next t → t.canonical

/-- A step takes exactly the front command off the queue: no command puts another into it. -/
def Obligations.StepPopsQueue : Prop :=
  ∀ s t : State, step s = .next t → t.pending = s.pending.tail

/-! ## Clocks, power and temperature (01, 18) -/

/-- DVFS_REQUEST and DVFS_DONE: a firmware write to RGN.DVFS of a region with no change in progress. A request within the
cap, the SAFE limits and R35 is accepted as a whole and its change begins; a clock above the cap is lowered to the cap's
code (R37); one that breaks R35 is refused whole (R36); the change's end puts the codes in force (R39); of the writes of one
cycle that of the highest region is evaluated last, on what the others have left (R38).
Readings of the model's own that it uses: assumption log 16 and 87. -/
def Obligations.DvfsRequestAndDone : Prop :=
  (∀ (s : State) (a : Agent) (r : Fin 32) (v : Word) (clk volt : Nat),
      s.pageDead .rgn r = false → fwAllowed a .rgn = true → lookupKey s.plat.dvfsRun r = none →
      (F.rgnDvfs_CLK_EN.get v = 1 ∨ F.rgnDvfs_VOLT_EN.get v = 1) →
      clk = (if F.rgnDvfs_CLK_EN.get v = 1 then F.rgnDvfs_CLK_CODE.get v else (s.setting r).1) →
      volt = (if F.rgnDvfs_VOLT_EN.get v = 1 then F.rgnDvfs_VOLT_CODE.get v else (s.setting r).2) →
      (F.rgnDvfs_CLK_EN.get v = 1 → clkMHz clk ≤ s.clkCap ∧ clkMHz clk ≤ s.fld (R.rgnSafe r) F.rgnSafe_CLK_MHZ) →
      (F.rgnDvfs_VOLT_EN.get v = 1 → voltMV volt ≤ s.fld (R.rgnSafe r) F.rgnSafe_VMAX_MV) → volt ≤ 60 →
      ∃ t, exec (.dvfsRequest [⟨a, r, v⟩]) s = .next t
        ∧ (s.fits r (clk, volt) = true →
            lookupKey t.plat.dvfsRun r
                = some ⟨F.rgnDvfs_CLK_EN.get v == 1, clk, F.rgnDvfs_VOLT_EN.get v == 1, volt, false⟩
              ∧ t.fld (R.rgnDvfsCur r) F.rgnDvfsCur_BUSY = 1 ∧ t.fld (R.rgnSts r) F.rgnSts_DVFS_REFUSED = 0
              ∧ s.changesOnly t [R.rgnDvfs r, R.rgnSts r, R.rgnDvfsCur r, R.pkgSts, R.irqSts .pkg 0])
        ∧ (s.fits r (clk, volt) = false →
            lookupKey t.plat.dvfsRun r = none ∧ t.fld (R.rgnSts r) F.rgnSts_DVFS_REFUSED = 1
              ∧ t.fld (R.irqSts .rgn r) ⟨0, 0⟩ = 1
              ∧ s.changesOnly t [R.rgnDvfs r, R.rgnSts r, R.irqSts .rgn r]))
  ∧ (∀ (s : State) (a : Agent) (r : Fin 32) (v : Word) (c : Nat),
      s.pageDead .rgn r = false → fwAllowed a .rgn = true → lookupKey s.plat.dvfsRun r = none →
      F.rgnDvfs_CLK_EN.get v = 1 → F.rgnDvfs_VOLT_EN.get v = 0 → s.clkCap < clkMHz (F.rgnDvfs_CLK_CODE.get v) →
      codeBelow s.clkCap = some c → clkMHz c ≤ s.fld (R.rgnSafe r) F.rgnSafe_CLK_MHZ → (s.setting r).2 ≤ 60 →
      s.fits r (c, (s.setting r).2) = true →
      ∃ t, exec (.dvfsRequest [⟨a, r, v⟩]) s = .next t
        ∧ lookupKey t.plat.dvfsRun r = some ⟨true, c, false, (s.setting r).2, true⟩
        ∧ t.fld R.pkgSts F.pkgSts_CAP_CLAMP = 1
        ∧ s.changesOnly t [R.rgnDvfs r, R.rgnSts r, R.rgnDvfsCur r, R.pkgSts, R.irqSts .pkg 0])
  ∧ (∀ (s : State) (r : Fin 32) (d : DvfsReq), lookupKey s.plat.dvfsRun r = some d → lookupKey s.plat.dvfsHeld r = none →
      (∀ p, lookupKey s.plat.dvfsProg r = some p →
        (true ∉ p.left → s.fld (R.rgnDvfsCur r) F.rgnDvfsCur_CLK_CODE = d.clk % 64)
          ∧ (false ∉ p.left → s.fld (R.rgnDvfsCur r) F.rgnDvfsCur_VOLT_CODE = d.volt % 64)) →
      ∃ t, exec (.dvfsDone r) s = .next t ∧ lookupKey t.plat.dvfsRun r = none
        ∧ (d.clkEn = true → t.fld (R.rgnDvfsCur r) F.rgnDvfsCur_CLK_CODE = d.clk % 64)
        ∧ (d.voltEn = true → t.fld (R.rgnDvfsCur r) F.rgnDvfsCur_VOLT_CODE = d.volt % 64)
        ∧ t.fld (R.rgnDvfsCur r) F.rgnDvfsCur_BUSY = 0 ∧ t.fld (R.irqSts .rgn r) ⟨1, 1⟩ = 1
        ∧ s.changesOnly t [R.rgnDvfsCur r, R.irqSts .rgn r])
  ∧ (∀ (s : State) (ws : List DvfsWrite) (w : DvfsWrite), (∀ x ∈ ws, x.region < w.region) →
      ∃ m t, exec (.dvfsRequest ws) s = .next m ∧ exec (.dvfsRequest [w]) m = .next t
        ∧ exec (.dvfsRequest (w :: ws)) s = .next t)

/-- Every region's clock code in `t` is at most what it was in `s`, and where a region that `p` admits was above code 0 some
region's is less: a lowering of the power manager (R40). -/
def lowered (s t : State) (p : Nat → Bool) : Prop :=
  (∀ r < 32, (t.setting r).1 ≤ (s.setting r).1 ∧ (t.setting r).2 = (s.setting r).2)
    ∧ (∀ r < 32, p r = false → t.setting r = s.setting r)
    ∧ ((∃ r < 32, p r = true ∧ (s.setting r).1 ≠ 0) → ∃ r < 32, (t.setting r).1 < (s.setting r).1)

/-- No region's clock code in `t` is less than it was in `s`, and none has risen above its accepted clock. -/
def returned (s t : State) : Prop :=
  ∀ r < 32, (s.setting r).1 ≤ (t.setting r).1 ∧ (t.setting r).1 ≤ max (s.setting r).1 (s.accepted r)
    ∧ (t.setting r).2 = (s.setting r).2

/-- The registers that show the regions' clocks and what the power manager counts. -/
def clockRegs : List Reg := (List.range 32).map R.rgnDvfsCur ++ [R.pkgExc, R.pkgSts, R.irqSts .pkg 0]

/-- POWER_SAMPLE, EXCURSION_EXPIRY, THERMAL_LIMIT and CAP_W: a sample is recorded; one below every limit lowers nothing and
lets clocks return towards those accepted; at the ceiling, above the mean limit in the 10 ms mean or past 1 ms, above
THERM_SET, or where a new cap is exceeded, the power manager lowers a clock: the one move named where R40 allows it, else the
fastest region's by one step.
Readings of the model's own that it uses: assumption log 6 and 16. -/
def Obligations.PowerManagerActs : Prop :=
  (∀ (s : State) (p : PowerSample), s.works (locHost 0xB 0) = true →
      ∃ t, exec (.powerSample p) s = .next t
        ∧ t.fld R.pkgVin ⟨15, 0⟩ = p.mv.toNat ∧ t.fld R.pkgPwr F.pkgPwr_NOW_W = p.nowW.toNat
        ∧ t.fld R.pkgEnergy F.pkgEnergy_MJ = (s.fld R.pkgEnergy F.pkgEnergy_MJ + p.mJ.toNat) % 2 ^ 64
        ∧ (∀ e, (p.rails.filter (fun x => x.1 = e.1)).getLast? = some e → t.reg (R.pkgRail e.1) = BitVec.ofNat 64 e.2.toNat)
        ∧ s.changesOnly t ([R.pkgVin, R.pkgPwr, R.pkgPwrPeak, R.pkgEnergy] ++ clockRegs ++ p.rails.map (fun e => R.pkgRail e.1))
        ∧ ((s.measure p).limitBroken = true → lowered s t (fun _ => true))
        ∧ ((s.measure p).limitBroken = false → returned s t)
        ∧ ((s.measure p).limitBroken = false → s.plat.thermLimit = true → ∀ r < 32, t.setting r = s.setting r)
        ∧ ∀ x, (s.measure p).limitBroken = true → p.moves = [] → s.fastest (fun _ => true) = some x → (s.setting x).1 ≠ 0 →
            (t.setting x).1 = (s.setting x).1 - 1 ∧ ∀ r < 32, r ≠ x → t.setting r = s.setting r)
  ∧ (∀ (s : State) (ms : List ClkMove), s.works (locHost 0xB 0) = true → 1000 ≤ s.plat.runUs →
      ∃ t, exec (.excursionExpiry ms) s = .next t ∧ lowered s t (fun _ => true) ∧ s.changesOnly t clockRegs
        ∧ ∀ m, ms = [m] → s.mayLower m = true →
            (t.setting m.region).1 = m.code ∧ ∀ r : Nat, r < 32 → r ≠ m.region → t.setting r = s.setting r)
  ∧ (∀ (s : State) (x : TempSample), s.running = true →
      ∃ t, exec (.thermalLimit x) s = .next t
        ∧ t.fld R.pkgTemp F.pkgTemp_COMPUTE_C = maxT (x.regions.map (·.2)) ∧ t.fld R.pkgTemp F.pkgTemp_HOST_C = maxT x.host
        ∧ t.fld R.pkgTemp F.pkgTemp_OPT_C = maxT x.engines
        ∧ (∀ e, (x.hbm.filter (fun y => y.1 = e.1)).getLast? = some e → t.fld (R.hbmSts e.1) F.hbmSts_TEMP_C = e.2.toNat)
        ∧ s.changesOnly t ([R.pkgTemp] ++ clockRegs ++ x.hbm.map (fun e => R.hbmSts e.1))
        ∧ (s.thermSet < max (maxT (x.regions.map (·.2))) (maxT x.host) →
            t.plat.thermLimit = true ∧ (∀ g, t.coreGroupMHz g = 2200) ∧ lowered s t (s.hotDie x))
        ∧ (max (maxT (x.regions.map (·.2))) (maxT x.host) + 2 ≤ s.thermSet → t.plat.thermLimit = false ∧ returned s t))
  ∧ (∀ (s : State) (v : BitVec 16) (ms : List ClkMove), s.mgmtDead = false → s.running = true →
      ∃ t, exec (.capW v ms) s = .next t ∧ t.plat.capW = capTaken v.toNat
        ∧ t.fld R.pkgBmcCap F.pkgBmcCap_CAP_W = capTaken v.toNat
        ∧ ((s.setFld R.pkgBmcCap F.pkgBmcCap_CAP_W (capTaken v.toNat)).limitBroken = false → s.changesOnly t [R.pkgBmcCap])
        ∧ ((s.setFld R.pkgBmcCap F.pkgBmcCap_CAP_W (capTaken v.toNat)).limitBroken = true →
            lowered s t (fun _ => true) ∧ s.changesOnly t (R.pkgBmcCap :: clockRegs)))

/-- THERMAL_TRIP, POWER_FAIL, HBM_HOT and ENTDAA: a trip and a power-fail stop switch every rail off and stop every agent,
and the management target shows why; a hot stack shows HOT; the target takes its dynamic address.
Readings of the model's own that it uses: assumption log 13, 17 and 81. -/
def Obligations.StopsAndManagementTarget : Prop :=
  (∀ (s : State) (g : TripSensor) (c : BitVec 8), s.plat.thermTripPin = false → s.plat.rails = true → g.tripC ≤ c.toNat →
      ∃ t, exec (.thermalTrip g c) s = .next t ∧ t.plat.rails = false ∧ t.plat.thermTripPin = true ∧ t.running = false
        ∧ t.plat.mgmtStop = 3 ∧ t.plat.st = .thermTrip ∧ s.memKept t
        ∧ ∀ r : Reg, r.name ≠ .fixStore → r.name ≠ .fixWear → t.reg r = s.reg r)
  ∧ (∀ (s : State) (f : PowerFault) (us : BitVec 32) (code : Nat), f.stop us.toNat = some code → s.plat.rails = true →
      s.plat.thermTripPin = false → (∀ mv, f = .vin mv → 5000 ≤ mv.toNat) →
      ∃ t, exec (.powerFail f us) s = .next t ∧ t.plat.rails = false ∧ t.running = false ∧ t.plat.mgmtStop = code
        ∧ t.plat.st = .powerFail ∧ s.memKept t
        ∧ ∀ r : Reg, r.name ≠ .fixStore → r.name ≠ .fixWear → t.reg r = s.reg r)
  ∧ (∀ (s : State) (k : Fin 16) (c : BitVec 8), s.running = true → s.stackAvail k = true →
      ∃ t, exec (.hbmHot k c) s = .next t ∧ t.fld (R.hbmSts k) F.hbmSts_TEMP_C = c.toNat
        ∧ (min 105 (s.fld (R.hbmSafe k) F.hbmSafe_TMAX_C) < c.toNat → t.fld (R.hbmSts k) F.hbmSts_HOT = 1)
        ∧ (c.toNat + 5 ≤ min 105 (s.fld (R.hbmSafe k) F.hbmSafe_TMAX_C) → t.fld (R.hbmSts k) F.hbmSts_HOT = 0)
        ∧ s.changesOnly t [R.hbmSts k, R.irqSts .hbm k])
  ∧ (∀ (s : State) (a : BitVec 7), s.mgmtDead = false →
      ∃ t, exec (.entdaa a) s = .next t ∧ t.plat.mgmtAddr = some a.toNat ∧ s.changesOnly t [])

/-! ## Resets and bring-up (14) -/

/-- A cold reset has begun: C1 runs, its cause is recorded, and every register but those of the store, the empty availability
map, RST_CAUSE and the mirrored cap reads its reset value. -/
def coldBegun (cause : Nat) (t : State) : Prop :=
  t.plat.coldRun = [.c1] ∧ t.running = false ∧ t.fld R.pkgRstCause F.pkgRstCause_LAST = cause ∧ t.plat.mgmtLast = cause
    ∧ t.spad = [] ∧ t.acc = []
    ∧ ∀ r : Reg, r.name ∉ [RegName.fixStore, .fixWear, .pkgAvailUnit, .pkgAvailClu, .pkgAvailMisc, .pkgAvailCore, .pkgRstCause,
        .pkgBmcCap] → t.reg r = r.reset

/-- VIN_IN_RANGE, RESET_N_ASSERT, RESET_N_RELEASE, COLD_RESET, RST_CTL_COLD and COLD: each way to a cold reset begins it.
Readings of the model's own that it uses: assumption log 5, 8 and 13. -/
def Obligations.ColdResetBegins : Prop :=
  (∀ (s : State) (straps : Fin 4), s.plat.vinOk = false → s.plat.thermTripPin = false → s.plat.resetLow = false →
      ∃ t, exec (.vinInRange straps) s = .next t ∧ coldBegun 0 t ∧ t.plat.strap = straps ∧ t.plat.vinOk = true)
  ∧ (∀ (s : State) (ns : BitVec 32), 1000 ≤ ns.toNat → s.plat.resetLow = false → s.plat.thermTripPin = false →
      ∃ t, exec (.resetNAssert ns) s = .next t ∧ t.plat.resetLow = true ∧ t.plat.coldWait = true ∧ t.plat.coldRun = []
        ∧ t.plat.mgmtLast = 1 ∧ t.fld R.pkgRstCause F.pkgRstCause_LAST = 1)
  ∧ (∀ s : State, s.plat.coldWait = true → s.plat.vinOk = true →
      ∃ t, exec .resetNRelease s = .next t ∧ t.plat.resetLow = false ∧ t.plat.coldRun = [.c1] ∧ t.plat.coldWait = false
        ∧ s.changesOnly t [])
  ∧ (∀ (s : State) (c : ColdCause), s.plat.thermTripPin = false → s.plat.vinOk = true → s.plat.resetLow = false →
      ∃ t, exec (.coldReset c) s = .next t ∧ coldBegun c.code t)
  ∧ (∀ (s : State) (a : Agent), s.regReaches a .pkg 0 = true → fwAllowed a .pkg = true → s.plat.thermTripPin = false →
      s.plat.vinOk = true → s.plat.resetLow = false → ∃ t, exec (.rstCtlCold a) s = .next t ∧ coldBegun 3 t)
  ∧ (∀ s : State, s.mgmtDead = false → s.plat.st ≠ .held → s.plat.st ≠ .thermTrip → s.plat.thermTripPin = false →
      s.plat.vinOk = true → s.plat.resetLow = false → ∃ t, exec .cold s = .next t ∧ coldBegun 2 t)

/-- COLD_RESET_STEP_END, IMAGE_OFFER and PERST_HOLD_EXPIRY: a running step ends and every step whose predecessors have all
ended runs (C9 once its image passes, C11 once READY is 1); C7 makes the directories ready, C8 zeroes its stack, C10 makes
the map valid; an image offered in BOOT_FAIL starts the keepers where it passes and leaves the package in BOOT_FAIL where it
does not; the hold on PERST ends.
Readings of the model's own that it uses: assumption log 4, 14, 60 and 97. -/
def Obligations.BringUpStepsEnd : Prop :=
  (∀ (s : State) (e : ColdStepEnd), s.plat.coldRun.contains e.step = true → (∀ i, e ≠ .c9 i) →
      (e = .c11 → s.bit R.pkgCtl F.pkgCtl_READY = true) →
      ∃ t, exec (.coldResetStepEnd e) s = .next t ∧ t.plat.coldDone.contains e.step = true
        ∧ (∀ y ∈ coldSteps, e.step ∈ y.preds → (∀ x ∈ y.preds, x ∈ t.plat.coldDone) → y ∈ t.plat.coldRun ∨ y ∈ t.plat.coldDone)
        ∧ (∀ ls, e = .c7 ls → t.fld R.pkgSts F.pkgSts_DIR_READY = 1)
        ∧ (∀ k p, e = .c8 k p → ∀ a, rangeOf a = .hbm → stackOf a = k.val → Sparse.get 0 t.mem a = 0)
        ∧ (e = .c10 → t.fld R.pkgSts F.pkgSts_MAP_VALID = 1))
  ∧ (∀ (s : State) (bs : List Byte), s.running = true → s.plat.st = .bootFail → s.plat.coldRun.contains .c9 = true →
      bs.length ≤ 0x400000 →
      ∃ t, exec (.imageOffer (some bs)) s = .next t
        ∧ ((s.placeImage bs).imagePasses = true → t.plat.keepersRun = true ∧ t.fld R.pkgSts F.pkgSts_BOOT_FAIL = 0
            ∧ (lookupKey t.host.starts 96).isSome = true ∧ (lookupKey t.host.starts 97).isSome = true)
        ∧ ((s.placeImage bs).imagePasses = false → t.plat.keepersRun = s.plat.keepersRun ∧ t.plat.st = .bootFail
            ∧ t.host.starts = s.host.starts))
  ∧ (∀ s : State, s.running = true → ∃ t, exec .perstHoldExpiry s = .next t ∧ t.plat.perstHold = false ∧ s.changesOnly t [])

/-- RST_CTL_PACKAGE, PACKAGE_RESET, WARM and OFF_PREP begin a drydown of the whole package that takes over every reset in
progress; a package reset records its cause and counts; while one is under way another sets RST_IGNORED instead (R567).
Readings of the model's own that it uses: assumption log 13 and 15. -/
def Obligations.PackageResetBegins : Prop :=
  (∀ (s : State) (c : WarmCause), s.running = true → s.packageInReset = false →
      ∃ t, exec (.packageReset c) s = .next t ∧ t.plat.resets = [⟨.package, s.now, false⟩] ∧ t.plat.warmRun = [.w1]
        ∧ t.fld R.pkgRstCause F.pkgRstCause_LAST = c.code ∧ t.plat.mgmtLast = c.code ∧ s.changesOnly t [R.pkgRstCause])
  ∧ (∀ (s : State) (c : WarmCause), s.running = true → s.packageInReset = true →
      ∃ t, exec (.packageReset c) s = .next t ∧ t.fld (R.irqSts .pkg 0) ⟨9, 9⟩ = 1 ∧ t.plat = s.plat
        ∧ s.changesOnly t [R.irqSts .pkg 0])
  ∧ (∀ (s : State) (a : Agent), s.regReaches a .pkg 0 = true → fwAllowed a .pkg = true → s.packageInReset = false →
      ∃ t, exec (.rstCtlPackage a) s = .next t ∧ t.plat.resets = [⟨.package, s.now, false⟩] ∧ t.plat.warmRun = [.w1]
        ∧ t.fld R.pkgRstCause F.pkgRstCause_LAST = 4 ∧ s.changesOnly t [R.pkgRstCtl, R.pkgRstCause])
  ∧ (∀ s : State, s.works (locHost 7 0) = true → s.plat.st = .ready ∨ s.plat.st = .bootFail → s.packageInReset = false →
      s.plat.coldRun = [] →
      ∃ t, exec .warm s = .next t ∧ t.plat.warmRun = [.w1] ∧ t.fld R.pkgRstCause F.pkgRstCause_LAST = 5
        ∧ s.changesOnly t [R.pkgRstCause])
  ∧ (∀ s : State, s.works (locHost 7 0) = true → s.plat.st = .booting ∨ s.plat.st = .ready ∨ s.plat.st = .bootFail →
      ∃ t, exec .offPrep s = .next t ∧ t.plat.offPrep = true ∧ t.plat.st = .offPrep
        ∧ t.plat.resets = [⟨.package, s.now, false⟩] ∧ s.changesOnly t [])

/-- PACKAGE_RESET_STEP_END, DRYDOWN_END, DRYDOWN_TIMEOUT and RESET_COMPLETE: the end of W2 leaves registers at their reset
values but for those kept and the memories of units and clusters zero, and W3 and W4 run; a drydown that ends lets its
reset proceed; one not ended within 1 ms escalates, or lets the package reset proceed with DRAIN_LOST; a partial reset
leaves its block as R566 says and sets RST_DONE.
Readings of the model's own that it uses: assumption log 8, 9, 10 and 15. -/
def Obligations.ResetsProceed : Prop :=
  (∀ s : State, s.plat.warmRun.contains .w4 = true →
      ∃ t, exec (.packageResetStepEnd .w4) s = .next t ∧ t.plat.warmDone.contains .w4 = true ∧ s.changesOnly t [])
  ∧ (∀ s : State, s.plat.warmRun.contains .w2 = true →
      ∃ t, exec (.packageResetStepEnd .w2) s = .next t ∧ t.plat.warmRun = [.w3, .w4] ∧ t.spad = [] ∧ t.acc = []
        ∧ t.sch = State.reset.sch ∧ t.coh = State.reset.coh
        ∧ ∀ (r : Reg), r.page ∈ [.unit, .arr, .vec, .acc, .clu, .dma, .coh, .xlt] →
            keptWarm r = false → t.reg r = r.reset)
  ∧ (∀ (s : State) (b : ResetBlock) (x : ResetRun), s.running = true → x ∈ s.plat.resets → x.block = b → x.drained = false →
      s.dvfsUnder b = false → (∀ r, b ≠ .region r) → b ≠ .package →
      ∃ t, exec (.drydownEnd b) s = .next t ∧ (∀ y ∈ t.plat.resets, y.block = b → y.drained = true) ∧ s.changesOnly t [])
  ∧ (∀ (s : State) (b : ResetBlock) (x : ResetRun), s.running = true → x ∈ s.plat.resets → x.block = b → x.drained = false →
      1000000 ≤ s.elapsedNs x.since → s.dvfsUnder b = false → s.packageInReset = false →
      ∃ t, exec (.drydownTimeout b) s = .next t ∧ t.plat.warmRun = [.w1] ∧ t.plat.resets = [⟨.package, s.now, false⟩]
        ∧ t.fld R.pkgRstCause F.pkgRstCause_LAST = 6 ∧ s.changesOnly t [R.pkgRstCause])
  ∧ (∀ (s : State) (x : ResetRun), s.running = true → x ∈ s.plat.resets → x.block = .package → x.drained = false →
      1000000 ≤ s.elapsedNs x.since → s.dvfsUnder .package = false → s.plat.offPrep = false →
      ∃ t, exec (.drydownTimeout .package) s = .next t ∧ t.plat.warmRun = [.w2] ∧ t.plat.mgmtDrainLost = true
        ∧ t.fld R.pkgRstCause F.pkgRstCause_DRAIN_LOST = 1)
  ∧ (∀ (s : State) (u : Fin 1024) (x : ResetRun), s.running = true → x ∈ s.plat.resets → x.block = .unit u → x.drained = true →
      ∃ t, exec (.resetComplete (.unit u)) s = .next t ∧ (∀ y ∈ t.plat.resets, y.block ≠ .unit u)
        ∧ t.fld (R.irqSts .rgn (u / 32)) ⟨8, 8⟩ = 1 ∧ (∀ o < 0x180000, Sparse.get 0 t.spad (spadKey u o) = 0)
        ∧ (∀ e < 8192, Sparse.get 0 t.acc (accKey u e) = 0)
        ∧ (∀ r : Reg, r.page ∈ [.unit, .arr, .vec, .acc] → r.inst = u → t.reg r = r.reset)
        ∧ ∀ a < 2 ^ 52, t.memByte a = s.memByte a)

/-- RST_CTL_PARTITION, UNIT_RESET and CLUSTER_RESET: a request for a partial reset of a block in no reset begins it: its busy
bit is set, and its drydown runs; of a block in reset it is ignored with RST_IGNORED in the page that received it (R567).
Readings of the model's own that it uses: assumption log 15. -/
def Obligations.PartialResetRequests : Prop :=
  (∀ (s : State) (a : Agent) (r : Fin 32), s.regReaches a .pkg 0 = true → fwAllowed a .pkg = true →
      ∃ t, exec (.rstCtlPartition a r) s = .next t
        ∧ (s.inReset (.region r) = false → t.inReset (.region r) = true ∧ t.regBit R.pkgRstSts r = true)
        ∧ (s.inReset (.region r) = true → t.fld (R.irqSts .pkg 0) ⟨9, 9⟩ = 1
            ∧ s.changesOnly t [R.pkgRstCtl, R.irqSts .pkg 0]))
  ∧ (∀ (s : State) (a : Agent) (r : Fin 32) (c : Fin 4) (u : Fin 8), s.regReaches a .rgn r = true → fwAllowed a .rgn = true →
      ∃ t, exec (.unitReset a r c u) s = .next t
        ∧ (s.inReset (.unit (rstUnit r c u)) = false →
            t.inReset (.unit (rstUnit r c u)) = true ∧ t.regBit (R.rgnRstSts r) (8 * c.val + u.val) = true)
        ∧ (s.inReset (.unit (rstUnit r c u)) = true → t.fld (R.irqSts .rgn r) ⟨9, 9⟩ = 1
            ∧ s.changesOnly t [R.rgnRstCtl r, R.irqSts .rgn r]))
  ∧ (∀ (s : State) (a : Agent) (r : Fin 32) (c : Fin 4), s.regReaches a .rgn r = true → fwAllowed a .rgn = true →
      ∃ t, exec (.clusterReset a r c) s = .next t
        ∧ (s.inReset (.cluster (rstCluster r c)) = false →
            t.inReset (.cluster (rstCluster r c)) = true ∧ t.regBit (R.rgnRstSts r) (32 + c.val) = true)
        ∧ (s.inReset (.cluster (rstCluster r c)) = true → t.fld (R.irqSts .rgn r) ⟨9, 9⟩ = 1
            ∧ s.changesOnly t [R.rgnRstCtl r, R.irqSts .rgn r]))

/-! ## Availability (01) -/

/-- The failures of one cycle that are events: those of blocks of the map available as the cycle began (R62, R66). -/
def eventsOf (s : State) (locs : List Loc) : List Loc := locs.filter (fun l => (mapBlock l).any s.mapAvail)

/-- AVAILABILITY_EVENT, AVAIL_RETIRE and BLOCK_FAILED: the failure, or withdrawal, of an available block of the map clears
its bit and those of what depends on it and counts an event with its place and cause, one for each failure of a cycle, the
highest location code last; a block without a bit raises a FATAL record, has failed from then on, and leaves the map.
Readings of the model's own that it uses: assumption log 18, 82 and 91. -/
def Obligations.AvailabilityChanges : Prop :=
  (∀ (s : State) (locs : List Loc), s.running = true → s.mapOpen = false →
      ∃ t, exec (.availabilityEvent locs) s = .next t
        ∧ (∀ loc ∈ eventsOf s locs, ∀ b, mapBlock loc = some b →
            t.mapAvail b = false ∧ (∀ u ∈ b.units, t.unitAvail u = false) ∧ (∀ c ∈ b.clusters, t.cluAvail c = false)
              ∧ ∀ r < 32, r ∈ b.misc → t.rgnAvail r = false)
        ∧ t.fld R.pkgAvailGen F.pkgAvailGen_GEN
            = (s.fld R.pkgAvailGen F.pkgAvailGen_GEN + (eventsOf s locs).length) % 2 ^ F.pkgAvailGen_GEN.width
        ∧ (eventsOf s locs ≠ [] → t.fld R.pkgAvailGen F.pkgAvailGen_LAST_CAUSE = 3 ∧ t.fld (R.irqSts .pkg 0) ⟨0, 0⟩ = 1)
        ∧ (∀ loc ∈ eventsOf s locs, (∀ l ∈ eventsOf s locs, l.toNat ≤ loc.toNat) →
            t.fld R.pkgAvailGen F.pkgAvailGen_LAST_LOC = loc.toNat)
        ∧ (eventsOf s locs = [] → t = s))
  ∧ (∀ (s : State) (a : Agent) (loc : Loc) (b : MapBlock), s.pageDead .pkg 0 = false → fwAllowed a .pkg = true →
      mapBlock loc = some b → b.retirable = true → s.mapAvail b = true → s.mapOpen = false →
      ∃ t, exec (.availRetire a loc) s = .next t ∧ t.mapAvail b = false
        ∧ t.fld R.pkgAvailGen F.pkgAvailGen_LAST_LOC = loc.toNat ∧ t.fld R.pkgAvailGen F.pkgAvailGen_LAST_CAUSE = 4
        ∧ t.fld (R.irqSts .pkg 0) ⟨0, 0⟩ = 1)
  ∧ (∀ (s : State) (loc : Loc), s.running = true → unmappedBlock loc = true →
      s.fld (R.errRec .pkg 0 0) F.errQ0_VALID = 0 → s.bit R.pkgElogCfg F.pkgElogCfg_EN = false →
      ∃ t, exec (.blockFailed loc) s = .next t ∧ t.broken loc = true
        ∧ t.fld (R.errRec .pkg 0 0) F.errQ0_VALID = 1 ∧ t.fld (R.errRec .pkg 0 0) F.errQ0_CODE = 0x23
        ∧ t.fld (R.errRec .pkg 0 0) F.errQ0_LOC = loc.toNat ∧ t.fld (R.irqSts .pkg 0) ⟨18, 18⟩ = 1
        ∧ s.changesOnly t [R.errRec .pkg 0 0, R.errRec .pkg 0 1, R.errRec .pkg 0 2, R.errRec .pkg 0 3, R.irqSts .pkg 0])

/-! ## The cadence, anchors and the throttle (02) -/

/-- TIME_TICK, REF_LOST, REF_RELOCK, PPS_EDGE, PPS_TIMEOUT, TIME_SET and SET_TIMEOUT.
Readings of the model's own that it uses: assumption log 19, 22, 23, 86, 87, 88 and 90. -/
def Obligations.CadenceCommands : Prop :=
  (∀ s : State, s.works timeLoc = true →
      ∃ t, exec .timeTick s = .next t ∧ t.now = BitVec.ofNat 64 (s.now.toNat + s.fld R.timeRate F.timeRate_RATE)
        ∧ t.fld R.timeEpoch F.timeEpoch_WRAPS
            = (s.fld R.timeEpoch F.timeEpoch_WRAPS + (s.now.toNat + s.fld R.timeRate F.timeRate_RATE) / 2 ^ 64)
              % 2 ^ F.timeEpoch_WRAPS.width
        ∧ t.time.ticks = s.time.ticks + 1 ∧ s.memKept t)
  ∧ (∀ s : State, s.works timeLoc = true → s.bit R.timeSts F.timeSts_HOLDOVER = false →
      ∃ t, exec .refLost s = .next t ∧ t.fld R.timeSts F.timeSts_HOLDOVER = 1 ∧ t.fld R.timeSts F.timeSts_REF_LOCK = 0
        ∧ t.fld (R.irqSts .time 0) ⟨0, 0⟩ = 1 ∧ t.now = s.now ∧ s.memKept t)
  ∧ (∀ s : State, s.works timeLoc = true →
      ∃ t, exec .refRelock s = .next t ∧ t.fld R.timeSts F.timeSts_HOLDOVER = 0 ∧ t.fld R.timeSts F.timeSts_REF_LOCK = 1
        ∧ t.now = s.now ∧ s.memKept t)
  ∧ (∀ (s : State) (e : Nat), s.works timeLoc = true → s.bit R.timeCtl F.timeCtl_PPS_EN = true → s.time.lastEdge = some e →
      s.bit R.timeSts F.timeSts_PPS_VALID = true → secondApart s.time.ticks e = true →
      ∃ t, exec .ppsEdge s = .next t ∧ t.reg R.timePpsTs = BitVec.ofNat 64 (nsOf s.now * 65536)
        ∧ t.fld R.timeSts F.timeSts_PPS_VALID = 1 ∧ t.time.lastEdge = some s.time.ticks
        ∧ (s.bit R.timeSts F.timeSts_SET_PENDING = true → s.anyArmed = false →
            t.now = s.reg R.timeSet ∧ t.fld R.timeSts F.timeSts_SET_PENDING = 0)
        ∧ (s.bit R.timeSts F.timeSts_SET_PENDING = false → t.now = s.now) ∧ s.memKept t)
  ∧ (∀ (s : State) (e : Nat), s.works timeLoc = true → s.time.lastEdge = some e → s.bit R.timeSts F.timeSts_PPS_VALID = true →
      1500000000 ≤ s.time.ticks - e →
      ∃ t, exec .ppsTimeout s = .next t ∧ t.fld R.timeSts F.timeSts_PPS_VALID = 0 ∧ t.now = s.now ∧ s.memKept t)
  ∧ (∀ (s : State) (a : Agent) (v : Word), s.pageDead .time 0 = false → fwAllowed a .time = true →
      ∃ t, exec (.timeSet a v) s = .next t
        ∧ (s.anyArmed = false → t.reg R.timeSet = v ∧ t.fld R.timeSts F.timeSts_SET_PENDING = 1
            ∧ t.time.setSince = s.time.ticks ∧ s.changesOnly t [R.timeSet, R.timeSts])
        ∧ (s.anyArmed = true → t.fld (R.irqSts .time 0) ⟨3, 3⟩ = 1 ∧ s.changesOnly t [R.irqSts .time 0]))
  ∧ (∀ s : State, s.works timeLoc = true → s.bit R.timeSts F.timeSts_SET_PENDING = true → 1500000000 ≤ s.time.ticks - s.time.setSince →
      ∃ t, exec .setTimeout s = .next t ∧ t.fld R.timeSts F.timeSts_SET_PENDING = 0 ∧ t.fld (R.irqSts .time 0) ⟨3, 3⟩ = 1
        ∧ s.changesOnly t [R.timeSts, R.irqSts .time 0])

/-- ANCHOR_FIRE, ANCHOR_TOKEN_DELIVER, ANCHOR_ARM, ANCHOR_DISARM and ANCHOR_TAIL_WRITE: an armed stream's due entry enters
its queue and HEAD moves to the next; a waiting token enters once there is room; ARM is set and cleared, CTX only while it
was 0; a TAIL that would overfill the ring is ignored with ANCHOR_REJECT.
Readings of the model's own that it uses: assumption log 20, 86, 89, 94 and 98. -/
def Obligations.AnchorCommands : Prop :=
  (∀ (s : State) (n : Fin 64) (ctx k : Nat) (tok : AnchorTok) (e : BitVec 512),
      s.pageDead .time 0 = false → s.bit (R.timeAstrCfg n) F.timeAstrCfg_ARM = true → s.astrHas n = true →
      lookupKey s.time.waiting n = none → ctx = s.fld (R.timeAstrCfg n) F.timeAstrCfg_CTX →
      s.homeCheck ctx (s.astrEntry n) true timeLoc = (none, s) → s.memUE (s.astrEntry n) 32 = false →
      s.consume (s.astrEntry n) 32 (some ctx) timeLoc = (false, s) →
      k = natBits (s.memWord (s.astrEntry n + 8)).toNat 16 0 → natBits (s.memWord (s.astrEntry n + 8)).toNat 28 17 = ctx →
      tok = ⟨k, ctx, s.memWord (s.astrEntry n), natBits (s.memWord (s.astrEntry n + 8)).toNat 35 32,
        s.memWord (s.astrEntry n + 16), s.memWord (s.astrEntry n + 24)⟩ →
      tok.action < 7 → 0 ≤ cadenceDiff s.now tok.time → s.refusal k ctx = none → s.anchorRoom k = true →
      e = deliveredEntry 0x03 ctx 0 0 0 0 false
        (anchorBody n tok (s.nowAt (unitDie (qidUnit k)))
          (decide (100 * 65536 < cadenceDiff (s.nowAt (unitDie (qidUnit k))) tok.time))) →
      (s.ctxWrite (unitCluster (qidUnit k)) ctx (s.qEntryVa (qidUnit k) (qidQueue k) (s.qTail (qidUnit k) (qidQueue k)))
        (entryBytes e) (locUnit (qidUnit k) 0)).1 = .ok () →
      ∃ t, exec (.anchorFire n) s = .next t
        ∧ t.fld (R.timeAstrHead n) F.timeAstrHead_HEAD = (s.fld (R.timeAstrHead n) F.timeAstrHead_HEAD + 1) % 2 ^ 17
        ∧ t.qTail (qidUnit k) (qidQueue k) = (s.qTail (qidUnit k) (qidQueue k) + 1) % 65536
        ∧ Sparse.get [] t.sch.prov k = Sparse.get [] s.sch.prov k ++ [⟨qidQueue k, 0, 0, 0, false⟩])
  ∧ (∀ (s : State) (n : Fin 64) (tok : AnchorTok) (e : BitVec 512), s.pageDead .time 0 = false →
      lookupKey s.time.waiting n = some tok → s.anchorRoom tok.qid = true → s.refusal tok.qid tok.ctx = none →
      e = deliveredEntry 0x03 tok.ctx 0 0 0 0 false
        (anchorBody n tok (s.nowAt (unitDie (qidUnit tok.qid)))
          (decide (100 * 65536 < cadenceDiff (s.nowAt (unitDie (qidUnit tok.qid))) tok.time))) →
      ({ s with time := { s.time with waiting := eraseKey s.time.waiting n } }.ctxWrite (unitCluster (qidUnit tok.qid)) tok.ctx
        (s.qEntryVa (qidUnit tok.qid) (qidQueue tok.qid) (s.qTail (qidUnit tok.qid) (qidQueue tok.qid))) (entryBytes e)
        (locUnit (qidUnit tok.qid) 0)).1 = .ok () →
      ∃ t, exec (.anchorTokenDeliver n) s = .next t ∧ lookupKey t.time.waiting n = none
        ∧ t.fld (R.timeAstrHead n) F.timeAstrHead_HEAD = (s.fld (R.timeAstrHead n) F.timeAstrHead_HEAD + 1) % 2 ^ 17
        ∧ t.qTail (qidUnit tok.qid) (qidQueue tok.qid) = (s.qTail (qidUnit tok.qid) (qidQueue tok.qid) + 1) % 65536)
  ∧ (∀ (s : State) (a : Agent) (n : Fin 64) (cfg : Word), s.pageDead .time 0 = false →
      ∃ t, exec (.anchorArm a n cfg) s = .next t ∧ t.fld (R.timeAstrCfg n) F.timeAstrCfg_ARM = 1
        ∧ t.fld (R.timeAstrCfg n) F.timeAstrCfg_SIZE = F.timeAstrCfg_SIZE.get cfg
        ∧ t.fld (R.timeAstrCfg n) F.timeAstrCfg_CTX
            = (if s.bit (R.timeAstrCfg n) F.timeAstrCfg_ARM then s.fld (R.timeAstrCfg n) F.timeAstrCfg_CTX
               else F.timeAstrCfg_CTX.get cfg)
        ∧ s.changesOnly t [R.timeAstrCfg n])
  ∧ (∀ (s : State) (a : Agent) (n : Fin 64) (cfg : Word), s.pageDead .time 0 = false →
      ∃ t, exec (.anchorDisarm a n cfg) s = .next t ∧ t.fld (R.timeAstrCfg n) F.timeAstrCfg_ARM = 0
        ∧ t.time = s.time ∧ s.changesOnly t [R.timeAstrCfg n])
  ∧ (∀ (s : State) (a : Agent) (n : Fin 64) (tail : BitVec 17), s.pageDead .time 0 = false →
      ∃ t, exec (.anchorTailWrite a n tail) s = .next t
        ∧ ((tail.toNat + 2 ^ 17 - s.fld (R.timeAstrHead n) F.timeAstrHead_HEAD) % 2 ^ 17 ≤ s.astrSize n →
            t.fld (R.timeAstrTail n) F.timeAstrTail_TAIL = tail.toNat ∧ s.changesOnly t [R.timeAstrTail n])
        ∧ (s.astrSize n < (tail.toNat + 2 ^ 17 - s.fld (R.timeAstrHead n) F.timeAstrHead_HEAD) % 2 ^ 17 →
            t.fld (R.irqSts .time 0) ⟨4, 4⟩ = 1 ∧ s.changesOnly t [R.irqSts .time 0]))

/-- THROTTLE_ASSERT, THROTTLE_RELEASE, THROTTLE_HALF_ISSUE and THROTTLE_FULL_ISSUE: quarter issue from the assertion until
100 ns after the deassertion, half issue until 200 ns after it, then full issue.
Readings of the model's own that it uses: assumption log 6 and 21. -/
def Obligations.ThrottleCommands : Prop :=
  (∀ s : State, s.works timeLoc = true → s.time.thrPhase ≠ 1 →
      ∃ t, exec .throttleAssert s = .next t ∧ t.issueDivisor = 4 ∧ t.fld R.timeSts F.timeSts_THROTTLED = 1
        ∧ t.reg R.timeThrLast = s.now
        ∧ t.fld R.timeThrCnt F.timeThrCnt_COUNT = (s.fld R.timeThrCnt F.timeThrCnt_COUNT + 1) % 2 ^ F.timeThrCnt_COUNT.width
        ∧ s.changesOnly t [R.timeThrCnt, R.timeThrLast, R.timeSts])
  ∧ (∀ s : State, s.works timeLoc = true → s.time.thrPhase = 1 →
      ∃ t, exec .throttleRelease s = .next t ∧ t.issueDivisor = 4 ∧ t.fld R.timeSts F.timeSts_THROTTLED = 0
        ∧ t.time.thrSince = s.time.ticks ∧ s.changesOnly t [R.timeSts])
  ∧ (∀ s : State, s.works timeLoc = true → s.time.thrPhase = 2 → 100 ≤ s.time.ticks - s.time.thrSince →
      ∃ t, exec .throttleHalfIssue s = .next t ∧ t.issueDivisor = 2 ∧ s.changesOnly t [])
  ∧ (∀ s : State, s.works timeLoc = true → s.time.thrPhase = 3 → 200 ≤ s.time.ticks - s.time.thrSince →
      ∃ t, exec .throttleFullIssue s = .next t ∧ t.issueDivisor = 1 ∧ s.changesOnly t [])

/-! ## Requests that nothing hinders -/

/-- Nothing hinders a request for package memory: no line is held by a cache or a directory, no coherence transaction is on, no
link retrains or is dead, no stored word is damaged, and no injection is armed. -/
def Calm (s : State) : Prop :=
  s.coh.lines = [] ∧ s.coh.dir = [] ∧ s.coh.dirErr = [] ∧ s.coh.txns = [] ∧ s.coh.outstanding = [] ∧ s.coh.switchTo = none
    ∧ s.errs = [] ∧ (∀ e ∈ s.rep.links, e.2.retraining = false ∧ e.2.dead = false)
    ∧ ∀ p i, s.fld (R.inj p i) F.inj_ARM = 0

/-- The bytes from a device address of a context on may be accessed through TLB `t` and lie from `pa` on: the TLB holds a
translation that grants the access (R325, R337), they stay in its page, and their granule, its owner table and its stack let
the context through (R332, R68). -/
def Reaches (s : State) (t ctx va len : Nat) (a : AccessKind) (pa : Nat) : Prop :=
  Calm s ∧ t < 132 ∧ va % 4096 + len ≤ 4096 ∧ va < 2 ^ 48 ∧ pa + len ≤ 2 ^ 52
    ∧ (∃ e, s.xl.tlb.find? (fun e => e.tlb = t ∧ e.ctx = ctx ∧ e.va ≤ va ∧ va < e.va + e.size) = some e ∧ e.err = 0
        ∧ (⟨e.va, e.size, e.pa, e.r, e.w, e.x, e.c⟩ : Leaf).grants a = true ∧ pa = e.pa + (va - e.va))
    ∧ rangeOf pa = .hbm ∧ (∀ req, s.tablesFail ctx pa req = none) ∧ s.stackAvail (stackOf pa) = true
    ∧ s.granulePass ctx (granuleOf pa) (a == .read || a == .fetch) = true ∧ (a = .write ∨ a = .atomic → s.wardenImage pa 1 = false)

/-- The bytes from `pa` on in `t` are `bs`, and every other byte of package memory is as it was in `s`. -/
def stored (s t : State) (pa : Nat) (bs : List Byte) : Prop :=
  (∀ i (h : i < bs.length), t.memByte (pa + i) = bs[i])
    ∧ ∀ a < 2 ^ 52, a < pa ∨ pa + bs.length ≤ a → t.memByte a = s.memByte a

/-! ## Queues, tokens and credits (07) -/

/-- QUEUE_TAIL_WRITE and RING_FETCH: a TAIL write to an enabled command queue appends what fits its capacity, and is ignored
with TAIL_REJECT otherwise; one to a queue not enabled sets HEAD and TAIL; what it submits to a unit that is not available is
not executed and leaves UNAVAILABLE; a fetch whose entry passes R262 makes it the queue's head, with STATE 2 and NEXT_SEQ
advanced.
Readings of the model's own that it uses: assumption log 36, 43, 46 and 91. -/
def Obligations.TailWriteAndFetch : Prop :=
  (∀ (s : State) (a : Agent) (u : Fin 1024) (q : Fin 128) (tail : BitVec 16), s.pageInReset .unit u = false →
      s.unitAvail u = true →
      ∃ t, exec (.queueTailWrite a u q tail) s = .next t
        ∧ (s.qEn u q = false → t.qHead u q = tail.toNat ∧ t.qTail u q = tail.toNat
            ∧ s.changesOnly t [R.unitQPtr u q, R.unitRes u])
        ∧ (s.qEn u q = true → s.qKind u q = 0 → (tail.toNat + 65536 - s.qHead u q) % 65536 ≤ ringCapacity (s.qSize u q) →
            t.qTail u q = tail.toNat ∧ t.qHead u q = s.qHead u q ∧ s.changesOnly t [R.unitQPtr u q, R.unitRes u])
        ∧ (s.qEn u q = true → s.qKind u q = 0 → ringCapacity (s.qSize u q) < (tail.toNat + 65536 - s.qHead u q) % 65536 →
            t.fld (R.irqSts .unit u) ⟨0, 0⟩ = 1 ∧ s.changesOnly t [R.irqSts .unit u, R.unitRes u])
        ∧ (s.qEn u q = true → s.qKind u q = 3 →
            (tail.toNat + 65536 - s.qHead u q) % 65536 ≤ ringCapacity (s.qSize u q) - s.qGranted u q →
            t.qTail u q = tail.toNat ∧ s.changesOnly t [R.unitQPtr u q, R.unitRes u])
        ∧ (s.qEn u q = true → s.qKind u q = 1 ∨ s.qKind u q = 2 → s.changesOnly t [R.unitRes u]))
  ∧ (∀ (s : State) (a : Agent) (u : Fin 1024) (q : Fin 128) (tail : BitVec 16), s.pageInReset .unit u = false →
      s.unitAvail u = false → s.qEn u q = true → s.qKind u q = 0 → tail.toNat ≠ s.qTail u q →
      (tail.toNat + 65536 - s.qHead u q) % 65536 ≤ ringCapacity (s.qSize u q) →
      ∃ t, exec (.queueTailWrite a u q tail) s = .next t ∧ t.qHead u q = tail.toNat ∧ t.qTail u q = tail.toNat
        ∧ t.fld (R.unitQPtr u q) F.unitQPtr_LAST_STATUS = 0x28 ∧ s.changesOnly t [R.unitQPtr u q])
  ∧ (∀ (s : State) (u : Fin 1024) (q : Fin 128) (pa : Nat), s.canFetch u q = true → lookupKey s.sch.heads (queueId u q) = none →
      Reaches s (unitCluster u) (s.qCtx u q) (s.qEntryVa u q (s.qHead u q)) 64 .fetch pa →
      s.sch.fbFetch.contains (queueId u q) = false → s.headerCheck u q (entryOf (s.memBytes pa 64)) = none →
      ∃ t, exec (.ringFetch u q) s = .next t
        ∧ lookupKey t.sch.heads (queueId u q) = some ⟨entryOf (s.memBytes pa 64), true, s.now⟩ ∧ t.qState u q = 2
        ∧ t.fld (R.unitQCfg u q) F.unitQCfg_NEXT_SEQ = (s.fld (R.unitQCfg u q) F.unitQCfg_NEXT_SEQ + 1) % 2 ^ 20
        ∧ s.changesOnly t [R.unitQCfg u q, R.unitQPtr u q, R.cluTlbLookup (unitCluster u)])
  ∧ (∀ (s s2 : State) (u : Fin 1024) (q : Fin 128) (bs : List Byte), s.canFetch u q = true →
      lookupKey s.sch.heads (queueId u q) = none →
      s.ctxRead (unitCluster u) (s.qCtx u q) (s.qEntryVa u q (s.qHead u q)) 64 .fetch (locUnit u 0) = (.ok bs, s2) →
      s2.sch.fbFetch.contains (queueId u q) = false → s2.headerCheck u q (entryOf bs) = none →
      s2.fld (R.inj .unit u) F.inj_ARM = 0 →
      ∃ t, exec (.ringFetch u q) s = .next t ∧ lookupKey t.sch.heads (queueId u q) = some ⟨entryOf bs, true, s2.now⟩
        ∧ t.qState u q = 2
        ∧ t.fld (R.unitQCfg u q) F.unitQCfg_NEXT_SEQ = (s2.fld (R.unitQCfg u q) F.unitQCfg_NEXT_SEQ + 1) % 2 ^ 20
        ∧ s2.changesOnly t [R.unitQCfg u q, R.unitQPtr u q])

/-- COMMAND_ISSUE, WAIT_TIMEOUT and COMMAND_COMPLETE: a head command that may issue, and that no other goes before, is in
flight at its engine with the buffer-table entries it names as they stand, and HEAD advances; a wait beyond WAIT_LIMIT tears
the context down with WAIT_TIMEOUT; a finished command completes, its status other than OK is recorded, and its token enters
the send buffer.
Readings of the model's own that it uses: assumption log 24, 43, 44, 87 and 102. -/
def Obligations.IssueAndComplete : Prop :=
  (∀ (s : State) (u : Fin 1024) (q : Fin 128) (h : Head) (eng : Engine), lookupKey s.sch.heads (queueId u q) = some h →
      s.mayIssue u q = true → s.unitAvail u = true → s.w0Stop u q h.entry = false → engineOf (Ent.opcode h.entry) = some eng →
      s.canIssue u q h.entry eng = true → s.outranked u q h.entry eng = false → (∀ w ∈ Ent.waits h.entry, w ≠ q) →
      (∀ i, some i ∈ bufNames h.entry →
        isReserved (s.bufAddr (s.qCtx u q) i) = false ∧ s.stackGone (s.bufAddr (s.qCtx u q) i) = false) →
      ∃ (t : State) (f : Flight), exec (.commandIssue u q) s = .next t ∧ t.sch.flights = s.sch.flights ++ [f] ∧ f.u = u ∧ f.q = q
        ∧ f.seq = Ent.seq h.entry ∧ f.eng = eng ∧ f.entry = h.entry ∧ f.stage = .issued
        ∧ f.bufs = s.bufsOf (s.qCtx u q) h.entry ∧ f.taken.length = (Ent.waits h.entry).length ∧ lookupKey t.sch.heads (queueId u q) = none
        ∧ t.qHead u q = (s.qHead u q + 1) % 65536 ∧ t.qTail u q = s.qTail u q ∧ s.memKept t
        ∧ (needsChan h.entry eng = false →
            s.onlyRegs t (R.unitQPtr u q :: R.unitRes u :: (Ent.waits h.entry).map (fun w => R.unitQPtr u w))))
  ∧ (∀ (s : State) (u : Fin 1024) (w : WaitKind) (ctx : Nat) (since : Word), s.waitCond u w = some (ctx, since) →
      s.waitExpired u since = true → s.ctxAlive ctx = true →
      ∃ t, exec (.waitTimeout u w) s = .next t ∧ (t.ctxSt ctx).state = 5 ∧ (t.ctxSt ctx).cause = 0x24
        ∧ (t.ctxSt ctx).loc = (locUnit u 0).toNat)
  ∧ (∀ (s : State) (u : Fin 1024) (q : Fin 128) (seq : BitVec 20) (f : Flight) (st det : Nat),
      s.flight u q (fun f => f.seq = seq.toNat) = some f → f.stage = .finished st det → s.outBusy u q f.seq = false →
      faultsCode st = false → st < 256 →
      ∃ t, exec (.commandComplete u q seq) s = .next t
        ∧ (∀ g ∈ t.sch.flights, g.u = u → g.q = q → g.seq = f.seq → g.stage = .completed)
        ∧ (st ≠ 0 → t.fld (R.unitQPtr u q) F.unitQPtr_LAST_STATUS = st)
        ∧ (Ent.doneEn f.entry = true → Ent.opcode f.entry ≠ 0x09 →
            ∃ e ∈ t.sch.sendBuf, e.u = u ∧ e.line = Ent.doneLine f.entry ∧ e.q = q ∧ e.seq = f.seq ∧ e.isMsg = false)
        ∧ s.memKept t)

/-- TOKEN_SEND, MESSAGE_DELIVER and CREDIT_ARRIVE: a token leaves with one credit of its line, for a queue of this package or
by a port; an entry that its queue takes is written into the ring and appended with its source remembered, and of the lines
whose entries arrive in one cycle the highest comes last; arriving credits are added, saturating at 65,536, or discarded on a
line that is not valid.
Readings of the model's own that it uses: assumption log 43, 44, 94 and 96. -/
def Obligations.TokensAndCredits : Prop :=
  (∀ (s : State) (u : Fin 1024) (line : Fin 32) (e : SendEntry),
      (s.sendEntries u).find? (fun e => e.line = line.val) = some e →
      s.fld (R.unitCrl u line) F.unitCrl_VALID = 1 → s.fld (R.unitCrl u line) F.unitCrl_CREDITS ≠ 0 →
      s.fld (R.unitCrl u line) F.unitCrl_DEST_PKG = s.pkgId → s.fld (R.inj .unit u) F.inj_ARM = 0 →
      s.unitPathRoom u (qidUnit (s.fld (R.unitCrl u line) F.unitCrl_DEST_Q)) = true →
      ∃ (t : State) (m : InFlight), exec (.tokenSend u line) s = .next t
        ∧ t.fld (R.unitCrl u line) F.unitCrl_CREDITS = s.fld (R.unitCrl u line) F.unitCrl_CREDITS - 1
        ∧ t.sch.sendBuf = s.sch.sendBuf.eraseP (fun x => x.u = u.val ∧ x.line = line.val)
        ∧ t.sch.transit = s.sch.transit ++ [m] ∧ m.destQ = s.fld (R.unitCrl u line) F.unitCrl_DEST_Q ∧ m.entry = e.entry
        ∧ m.seq = e.seq ∧ m.isMsg = e.isMsg ∧ s.changesOnly t [R.unitCrl u line])
  ∧ (∀ (s : State) (u : Fin 1024) (line : Fin 32) (e : SendEntry),
      (s.sendEntries u).find? (fun e => e.line = line.val) = some e →
      s.fld (R.unitCrl u line) F.unitCrl_VALID = 1 → s.fld (R.unitCrl u line) F.unitCrl_CREDITS ≠ 0 →
      s.fld (R.unitCrl u line) F.unitCrl_DEST_PKG ≠ s.pkgId → s.fld (R.inj .unit u) F.inj_ARM = 0 →
      ∃ t, exec (.tokenSend u line) s = .next t
        ∧ t.fld (R.unitCrl u line) F.unitCrl_CREDITS = s.fld (R.unitCrl u line) F.unitCrl_CREDITS - 1
        ∧ t.sch.sendBuf = s.sch.sendBuf.eraseP (fun x => x.u = u.val ∧ x.line = line.val) ∧ t.sch.transit = s.sch.transit
        ∧ s.memKept t)
  ∧ (∀ (s : State) (l : LineName) (m : InFlight) (k u q ctx pa : Nat), s.canArrive [l] l = true →
      s.sch.transit.find? (fun m => m.ofLine l) = some m → k = m.destQ → u = qidUnit k → q = qidQueue k →
      s.pathHeld (if m.srcPkg = s.pkgId then unitDie m.srcUnit else unitDie (k / 128)) (unitDie (k / 128)) true = false →
      s.refusal k m.lineCtx = none → ctx = s.qCtx u q →
      Reaches s (unitCluster u) ctx (s.qEntryVa u q (s.qTail u q)) 64 .write pa →
      ∃ t, exec (.messageDeliver [l]) s = .next t ∧ t.qTail u q = (s.qTail u q + 1) % 65536
        ∧ t.sch.transit = s.sch.transit.eraseP (fun m => m.ofLine l)
        ∧ Sparse.get [] t.sch.prov k = Sparse.get [] s.sch.prov k ++ [⟨q, m.srcPkg, m.srcUnit, m.srcLine, true⟩]
        ∧ stored s t pa (entryBytes (deliveredEntry (if m.isMsg then 0x02 else 0x01) ctx m.seq m.srcPkg m.srcUnit m.srcLine true
            (entryBody m.entry)))
        ∧ s.onlyRegs t [R.unitQPtr u q, R.cluTlbLookup (unitCluster u)])
  ∧ (∀ (s : State) (ls : List LineName) (l : LineName), (∀ x ∈ l :: ls, s.canArrive (l :: ls) x = true) →
      (∀ x ∈ ls, s.canArrive ls x = true) → (∀ x ∈ ls, lineRank x < lineRank l) →
      ∃ m t, exec (.messageDeliver ls) s = .next m ∧ exec (.messageDeliver (l :: ls)) s = .next t
        ∧ (m.canArrive [l] l = true → exec (.messageDeliver [l]) m = .next t))
  ∧ (∀ (s : State) (u : Fin 1024) (line : Fin 32) (c : CreditIn),
      s.sch.credits.find? (fun c => decide (c.unit = u.val ∧ c.line = line.val)) = some c → c.status = 0 →
      s.sch.credits.find? (fun x => x.src == c.src && x.unit == c.unit) = some c →
      s.pathHeld (if c.src < 1024 then unitDie c.src else c.src - 1024) (unitDie u) true = false → s.unitInReset u = false →
      ∃ t, exec (.creditArrive u line) s = .next t
        ∧ t.sch.credits = s.sch.credits.eraseP (fun c => decide (c.unit = u.val ∧ c.line = line.val))
        ∧ (s.crlValid u line = true →
            t.fld (R.unitCrl u line) F.unitCrl_CREDITS = min (s.fld (R.unitCrl u line) F.unitCrl_CREDITS + c.count) 65536)
        ∧ (s.crlValid u line = false → t.reg (R.unitCrl u line) = s.reg (R.unitCrl u line))
        ∧ s.changesOnly t [R.unitCrl u line, R.irqSts .unit u])

/-- NOP, SEND, RESIDE and GRANT: each issued control command with reserved body bits zero does what R279 and R271 give it.
Readings of the model's own that it uses: assumption log 44, 49 and 103. -/
def Obligations.ControlCommands : Prop :=
  (∀ (s : State) (u : Fin 1024) (q : Fin 128) (f : Flight), s.control u q 0x08 = some f →
      entReserved f.entry 16 48 0 = true →
      ∃ t, exec (.nop u q) s = .next t ∧ (∀ g ∈ t.sch.flights, g.u = u → g.q = q → g.seq = f.seq → g.stage = .completed)
        ∧ s.memKept t)
  ∧ (∀ (s : State) (u : Fin 1024) (q : Fin 128) (f : Flight), s.control u q 0x09 = some f → s.sendRoom u = true →
      ∃ t, exec (.send u q) s = .next t
        ∧ t.sch.sendBuf = s.sch.sendBuf ++ [⟨u, Ent.doneLine f.entry, q, f.seq, f.ctx, true, f.entry, s.now⟩]
        ∧ s.changesOnly t [])
  ∧ (∀ (s : State) (u : Fin 1024) (q : Fin 128) (f : Flight) (tag ofs len : Nat), s.control u q 0x0D = some f →
      entReserved f.entry 16 48 (0xFFF + 0xFFFFFFFF * 2 ^ 32 + 0x1FFFFF * 2 ^ 64 + 0x1FFFFF * 2 ^ 96) = true →
      tag = entBits f.entry 20 31 0 → ofs = entBits f.entry 24 20 0 → len = entBits f.entry 28 20 0 →
      ofs % 64 = 0 → len % 64 = 0 → ofs + len ≤ 0x180000 →
      ∃ t, exec (.reside u q) s = .next t
        ∧ (entBit f.entry 16 4 = false →
            t.reg (R.unitTag u (entBits f.entry 16 3 0))
              = BitVec.ofNat 64 (if tag = 0 then 0 else tag + ofs / 64 * 2 ^ 32 + len / 64 * 2 ^ 47))
        ∧ (entBit f.entry 16 4 = true →
            s.fld (R.cluWin (unitCluster u) (entBits f.entry 16 11 5)) F.cluWin_VALID = 1 →
            s.fld (R.cluWin (unitCluster u) (entBits f.entry 16 11 5)) F.cluWin_CTX = f.ctx →
            Sparse.get 0 t.sch.winTags (unitCluster u * 128 + entBits f.entry 16 11 5) = tag)
        ∧ s.memKept t)
  ∧ (∀ (s : State) (u : Fin 1024) (q : Fin 128) (f : Flight) (lq n : Nat), s.control u q 0x0B = some f →
      entReserved f.entry 16 48 (0x7F + 0x1FFFF * 2 ^ 32 + 0x7FFFFFF * 2 ^ 64) = true →
      lq = entBits f.entry 16 6 0 → n = entBits f.entry 20 16 0 → s.qEn u lq = true → s.qKind u lq ≠ 0 →
      s.qCtx u lq = f.ctx → s.qGranted u lq + n ≤ ringCapacity (s.qSize u lq) → n ≠ 0 →
      entBits f.entry 24 11 0 = s.pkgId → s.crlValid (entBits f.entry 24 21 12) (entBits f.entry 24 26 22) = true →
      s.fld (R.unitCrl (entBits f.entry 24 21 12) (entBits f.entry 24 26 22)) F.unitCrl_DEST_Q = queueId u lq →
      s.fld (R.unitCrl (entBits f.entry 24 21 12) (entBits f.entry 24 26 22)) F.unitCrl_DEST_PKG = s.pkgId →
      ∃ t, exec (.grant u q) s = .next t ∧ t.qGranted u lq = (s.qGranted u lq + n) % 2 ^ 17
        ∧ t.sch.credits = s.sch.credits
            ++ [⟨u, entBits f.entry 24 21 12, entBits f.entry 24 26 22, n, 0, 0, some (u, q, f.seq)⟩]
        ∧ s.changesOnly t [R.unitQCfg u lq])

/-- MARK and FLAG: MARK adds VALUE to the word modulo 2^64 and counts an atomic; FLAG writes VALUE, no port owing it a flush;
no byte outside the eight of the word changes; an address that is not aligned is FIELD_VALUE and changes no memory.
Readings of the model's own that it uses: assumption log 39, 56 and 86. -/
def Obligations.MarkAndFlag : Prop :=
  (∀ (s : State) (u : Fin 1024) (q : Fin 128) (f : Flight) (va v pa : Nat), s.control u q 0x0A = some f →
      entReserved f.entry 16 48 (2 ^ 48 - 1 + (2 ^ 64 - 1) * 2 ^ 64) = true → va = entBits f.entry 16 47 0 →
      v = bvBytes f.entry 24 8 → va % 8 = 0 → s.qState u q ≠ 3 → Reaches s (unitCluster u) f.ctx va 8 .atomic pa →
      ∃ t, exec (.mark u q) s = .next t ∧ stored s t pa (natToBytes 8 ((s.memNat pa 8 + v) % 2 ^ 64))
        ∧ t.fld (R.cohAtomCnt (stackOf pa / 4) (stackOf pa % 4)) F.cohAtomCnt_COUNT
            = (s.fld (R.cohAtomCnt (stackOf pa / 4) (stackOf pa % 4)) F.cohAtomCnt_COUNT + 1)
                % 2 ^ F.cohAtomCnt_COUNT.width
        ∧ (∀ g ∈ t.sch.flights, g.u = u → g.q = q → g.seq = f.seq → g.stage = .completed))
  ∧ (∀ (s : State) (u : Fin 1024) (q : Fin 128) (f : Flight) (va pa : Nat), s.control u q 0x0C = some f →
      entReserved f.entry 16 48 (2 ^ 48 - 1 + (2 ^ 64 - 1) * 2 ^ 64) = true → va = entBits f.entry 16 47 0 →
      va % 8 = 0 → s.qState u q ≠ 3 → Sparse.get [] s.sch.outPorts (queueId u q) = [] →
      Reaches s (unitCluster u) f.ctx va 8 .write pa →
      ∃ t, exec (.flag u q) s = .next t ∧ stored s t pa (natToBytes 8 (bvBytes f.entry 24 8))
        ∧ (∀ g ∈ t.sch.flights, g.u = u → g.q = q → g.seq = f.seq → g.stage = .completed))
  ∧ (∀ (s : State) (u : Fin 1024) (q : Fin 128) (f : Flight) (op : Nat), (op = 0x0A ∨ op = 0x0C) → s.control u q op = some f →
      entReserved f.entry 16 48 (2 ^ 48 - 1 + (2 ^ 64 - 1) * 2 ^ 64) = true → entBits f.entry 16 47 0 % 8 ≠ 0 →
      s.qState u q ≠ 3 → s.ctxAlive f.ctx = true →
      ∃ t, exec (if op = 0x0A then .mark u q else .flag u q) s = .next t ∧ (t.ctxSt f.ctx).state = 5
        ∧ (t.ctxSt f.ctx).cause = 0x03 ∧ (t.ctxSt f.ctx).loc = (locUnit u 0).toNat)

/-! ## Contexts, preemption and tasks (07) -/

/-- The word of a context's table entry that holds STATE can be written, and nothing of the coherence protocol is on there. -/
def cmdPlace (s : State) (c : Nat) : Prop :=
  s.wardenImage (s.ctxEntry c + 56) 8 = false ∧ s.sysOk (s.ctxEntry c + 56) 8 = true
    ∧ isReserved (s.ctxEntry c) = false ∧ s.stackGone (s.ctxEntry c) = false
    ∧ (∀ e ∈ s.coh.lines, e.1 / 64 ≠ (s.ctxEntry c + 56) / 128) ∧ ∀ t ∈ s.coh.txns, t.subject ≠ (s.ctxEntry c + 56) / 128

/-- A CTX_CMD may act: none is in progress, and STATE can be written. -/
def cmdOpen (s : State) (c : Nat) : Prop :=
  s.bit R.pkgCtxCmdSts F.pkgCtxCmdSts_BUSY = false ∧ s.pageInReset .pkg 0 = false ∧ cmdPlace s c

/-- START, PREEMPT, RESUME, KILL and RELEASE: from the state R286 names each moves the context on and ends, or stays in
progress, with CTX_CMD_STS; from any other state each is refused with RESULT 1 and moves nothing.
Readings of the model's own that it uses: assumption log 2 and 47. -/
def Obligations.ContextCommands : Prop :=
  (∀ (s : State) (a : Agent) (ctx : CtxId), cmdOpen s ctx.toNat →
      ∃ t, exec (.start a ctx) s = .next t
        ∧ ((s.ctxSt ctx.toNat).state = 0 → natBit (s.ctxQ ctx.toNat 0) 0 = true →
            s.isPartition (natBits (s.ctxQ ctx.toNat 0) 63 32) = true →
            (t.ctxSt ctx.toNat).state = 1 ∧ t.memByte (s.ctxEntry ctx.toNat + 56) = 1
              ∧ t.fld R.pkgCtxCmdSts F.pkgCtxCmdSts_RESULT = 0 ∧ t.fld (R.irqSts .pkg 0) ⟨2, 2⟩ = 1
              ∧ s.onlyRegs t [R.pkgCtxCmdSts, R.irqSts .pkg 0]
              ∧ ∀ b, b < s.ctxEntry ctx.toNat + 56 ∨ s.ctxEntry ctx.toNat + 64 ≤ b → t.memByte b = s.memByte b)
        ∧ ((s.ctxSt ctx.toNat).state ≠ 0 →
            t.fld R.pkgCtxCmdSts F.pkgCtxCmdSts_RESULT = 1 ∧ t.sch = s.sch
              ∧ s.changesOnly t [R.pkgCtxCmdSts, R.irqSts .pkg 0]))
  ∧ (∀ (s : State) (a : Agent) (ctx : CtxId), cmdOpen s ctx.toNat → (s.ctxSt ctx.toNat).state = 1 →
      ∃ t, exec (.preempt a ctx) s = .next t ∧ (t.ctxSt ctx.toNat).state = 2
        ∧ t.fld R.pkgCtxCmdSts F.pkgCtxCmdSts_BUSY = 1
        ∧ (∀ u ∈ s.activeUnits ctx.toNat, t.fld (R.unitRes u) F.unitRes_REST_REQ = 1))
  ∧ (∀ (s : State) (a : Agent) (ctx : CtxId), cmdOpen s ctx.toNat → (s.ctxSt ctx.toNat).state = 3 →
      ∃ t, exec (.resume a ctx) s = .next t ∧ t.fld R.pkgCtxCmdSts F.pkgCtxCmdSts_BUSY = 1
        ∧ ((t.ctxSt ctx.toNat).state = 4 ∨ (t.ctxSt ctx.toNat).state = 5)
        ∧ ((s.ctxSt ctx.toNat).saved = [] → (t.ctxSt ctx.toNat).state = 4 ∧ s.onlyRegs t [R.pkgCtxCmdSts]))
  ∧ (∀ (s : State) (a : Agent) (ctx : CtxId), cmdOpen s ctx.toNat → s.ctxAlive ctx.toNat = true →
      ∃ t, exec (.kill a ctx) s = .next t ∧ (t.ctxSt ctx.toNat).state = 5 ∧ (t.ctxSt ctx.toNat).cause = 0x29
        ∧ t.fld R.pkgCtxCmdSts F.pkgCtxCmdSts_BUSY = 1)
  ∧ (∀ (s : State) (a : Agent) (ctx : CtxId), cmdOpen s ctx.toNat → (s.ctxSt ctx.toNat).state = 6 →
      ∃ t, exec (.release a ctx) s = .next t ∧ (t.ctxSt ctx.toNat).state = 0
        ∧ t.fld R.pkgCtxCmdSts F.pkgCtxCmdSts_RESULT = 0 ∧ t.fld (R.irqSts .pkg 0) ⟨2, 2⟩ = 1
        ∧ s.onlyRegs t [R.pkgCtxCmdSts, R.irqSts .pkg 0])

/-- CONTEXT_FAULT, TEARDOWN_COMPLETE and RESIDENCY_CHANGE: a fault of a live context begins its teardown, with the cause and
place of the fault of lowest location code where several come in one cycle: its commands are gone, its queues read DOWN and its granules are RELEASED by the end of it; the teardown ends DOWN with CTX_DOWN; a unit that
changes hands is cleared.
Readings of the model's own that it uses: assumption log 47 and 49. -/
def Obligations.TeardownAndResidency : Prop :=
  (∀ (s : State) (fs : List CtxFault), ∃ t, exec (.contextFault fs) s = .next t ∧ ∀ f ∈ fs, s.ctxAlive f.ctx.toNat = true →
      (t.ctxSt f.ctx.toNat).state = 5
        ∧ ((∀ g ∈ fs, g.ctx = f.ctx → g ≠ f → f.loc.toNat < g.loc.toNat) →
            (t.ctxSt f.ctx.toNat).cause = f.status.toNat ∧ (t.ctxSt f.ctx.toNat).loc = f.loc.toNat)
        ∧ (∀ g ∈ t.sch.flights, g.ctx ≠ f.ctx.toNat) ∧ (∀ e ∈ t.xl.tlb, e.ctx ≠ f.ctx.toNat)
        ∧ (∀ p ∈ t.xl.parks, p.ctx ≠ f.ctx.toNat) ∧ (∀ e ∈ t.xl.chans, e.2.ctx ≠ f.ctx.toNat))
  ∧ (∀ (s : State) (ctx : CtxId), (s.ctxSt ctx.toNat).state = 5 →
      ∃ t, exec (.teardownComplete ctx) s = .next t ∧ (t.ctxSt ctx.toNat).state = 6
        ∧ (t.ctxSt ctx.toNat).cause = (s.ctxSt ctx.toNat).cause ∧ t.fld (R.irqSts .pkg 0) ⟨1, 1⟩ = 1
        ∧ (s.cmdBusy ctx.toNat 4 = true → t.fld R.pkgCtxCmdSts F.pkgCtxCmdSts_BUSY = 0))
  ∧ (∀ (s : State) (u : Fin 1024) (c n : Nat), s.resident u = some c → s.nextResident u = some n → s.mayLeave u c = true →
      c ≠ n → n < 4096 →
      ∃ t, exec (.residencyChange u) s = .next t ∧ t.resident u = some n
        ∧ (∀ o < 0x180000, Sparse.get 0 t.spad (spadKey u o) = 0) ∧ (∀ e < 8192, Sparse.get 0 t.acc (accKey u e) = 0)
        ∧ (∀ i < 16, t.reg (R.unitTag u i) = 0) ∧ (∀ b, b / 0x180000 ≠ u → Sparse.get 0 t.spad b = Sparse.get 0 s.spad b)
        ∧ s.onlyRegs t (R.unitRes u :: (List.range 16).map (fun i => R.unitTag u i)) ∧ ∀ b < 2 ^ 52, t.memByte b = s.memByte b)

/-- UNIT_AT_REST, PREEMPT_SAVE, PREEMPT_SAVE_DONE, PREEMPT_TIMEOUT and RESUME_DONE: rest is shown, a unit's save is noted, and
the context becomes PREEMPTED, RUNNING again with RESULT 2, or RUNNING after its restore.
Readings of the model's own that it uses: assumption log 47, 48, 92 and 95. -/
def Obligations.PreemptionSteps : Prop :=
  (∀ (s : State) (u : Fin 1024) (c : Nat), s.resident u = some c → (s.ctxSt c).state = 2 →
      s.bit (R.unitRes u) F.unitRes_REST_REQ = true → s.unitResting u c = true →
      s.bit (R.unitRes u) F.unitRes_IS_AT_REST = false →
      ∃ t, exec (.unitAtRest u) s = .next t ∧ t.fld (R.unitRes u) F.unitRes_IS_AT_REST = 1
        ∧ t.fld (R.irqSts .unit u) ⟨1, 1⟩ = 1 ∧ s.changesOnly t [R.unitRes u, R.irqSts .unit u])
  ∧ (∀ (s : State) (ctx : CtxId) (u : Fin 1024) (pa : Nat), (s.ctxSt ctx.toNat).state = 2 →
      (s.activeUnits ctx.toNat).contains u.val = true → (s.ctxSt ctx.toNat).saved.contains u.val = false →
      (s.activeUnits ctx.toNat).all (fun v => s.unitResting v ctx.toNat) = true →
      (∀ q ∈ s.cmdQueues u ctx.toNat, lookupKey s.sch.heads (queueId u q) = none) → s.w0Mode ctx.toNat = true →
      Reaches s (unitCluster u) ctx.toNat (s.saveVa ctx.toNat + u * 4096) 4096 .write pa →
      (pa + 4096 ≤ s.ctxEntry ctx.toNat ∨ s.ctxEntry ctx.toNat + 64 ≤ pa) → cmdPlace s ctx.toNat →
      ∃ t, exec (.preemptSave ctx u) s = .next t
        ∧ (t.ctxSt ctx.toNat).saved = (s.ctxSt ctx.toNat).saved ++ [u.val] ∧ (t.ctxSt ctx.toNat).state = 2
        ∧ (∀ i (h : i < (s.saveImage u ctx.toNat).length), t.memByte (pa + i) = (s.saveImage u ctx.toNat)[i])
        ∧ (∀ a < 2 ^ 52, a < pa ∨ pa + 4096 ≤ a → a < s.ctxEntry ctx.toNat + 56 ∨ s.ctxEntry ctx.toNat + 64 ≤ a →
            t.memByte a = s.memByte a))
  ∧ (∀ (s s1 s2 s3 : State) (ctx : CtxId) (u : Fin 1024), (s.ctxSt ctx.toNat).state = 2 →
      (s.activeUnits ctx.toNat).contains u.val = true → (s.ctxSt ctx.toNat).saved.contains u.val = false →
      (s.activeUnits ctx.toNat).all (fun v => s.unitResting v ctx.toNat) = true →
      s1 = (s.cmdQueues u ctx.toNat).foldl (fun s q => s.unfetch u q) s →
      s1.wardenPut u ctx.toNat 4 (s1.saveVa ctx.toNat + u * 4096) (s1.saveImage u ctx.toNat) = (.ok (), s2) →
      s2.w0Mode ctx.toNat = false →
      s2.walkTable u ctx.toNat ((s1.restIds u ctx.toNat).headD (s1.fld (R.unitRes u) F.unitRes_LAST_REST))
        (fun s e => s.saveEntry u ctx.toNat e) tableFuel (s2.preemptTbl ctx.toNat) = (.ok (), s3) →
      ∃ t, exec (.preemptSave ctx u) s = .next t
        ∧ (t.ctxSt ctx.toNat).saved = (s.ctxSt ctx.toNat).saved ++ [u.val] ∧ (t.ctxSt ctx.toNat).state = 2)
  ∧ (∀ (s : State) (ctx : CtxId), (s.ctxSt ctx.toNat).state = 2 →
      (s.activeUnits ctx.toNat).all (fun u => (s.ctxSt ctx.toNat).saved.contains u && s.wardenQuiet u) = true →
      ∃ t, exec (.preemptSaveDone ctx) s = .next t ∧ (t.ctxSt ctx.toNat).state = 3
        ∧ (t.ctxSt ctx.toNat).saved = (s.ctxSt ctx.toNat).saved ∧ t.fld R.pkgCtxCmdSts F.pkgCtxCmdSts_BUSY = 0
        ∧ t.fld R.pkgCtxCmdSts F.pkgCtxCmdSts_RESULT = 0 ∧ t.fld (R.irqSts .pkg 0) ⟨2, 2⟩ = 1)
  ∧ (∀ (s : State) (ctx : CtxId), (s.ctxSt ctx.toNat).state = 2 →
      s.fld R.pkgPreemptLimit F.pkgPreemptLimit_LIMIT_US * 1000 < s.elapsedNs (s.ctxSt ctx.toNat).since →
      ∃ t, exec (.preemptTimeout ctx) s = .next t ∧ (t.ctxSt ctx.toNat).state = 1 ∧ (t.ctxSt ctx.toNat).saved = []
        ∧ t.fld R.pkgCtxCmdSts F.pkgCtxCmdSts_BUSY = 0 ∧ t.fld R.pkgCtxCmdSts F.pkgCtxCmdSts_RESULT = 2
        ∧ (∀ u ∈ s.ctxUnits ctx.toNat, t.fld (R.unitRes u) F.unitRes_REST_REQ = 0))
  ∧ (∀ (s : State) (ctx : CtxId), (s.ctxSt ctx.toNat).state = 4 → (s.ctxSt ctx.toNat).saved = [] →
      ∃ t, exec (.resumeDone ctx) s = .next t ∧ (t.ctxSt ctx.toNat).state = 1
        ∧ t.fld R.pkgCtxCmdSts F.pkgCtxCmdSts_BUSY = 0 ∧ t.fld R.pkgCtxCmdSts F.pkgCtxCmdSts_RESULT = 0
        ∧ (∀ u ∈ s.ctxUnits ctx.toNat, t.fld (R.unitRes u) F.unitRes_IS_AT_REST = 0))

/-- DEADLINE_CHECK, DLM_ENABLE and DECISION_RESUME: the lead region's monitor gives every unit of the context R301's verdict
and takes T and M; setting EN takes T_prev and clears the verdicts; a verdict at or after a queue's decision point lets the
queue go on, from its fallback when the context switched there. TLOAD and TASK_PLACE: a block is loaded into an empty queue with
its ring, size, count and sequence number, or refused with TLOAD_REJECT; a task is placed on the best candidate unit of its
region.
Readings of the model's own that it uses: assumption log 50, 92 and 93. -/
def Obligations.DeadlinesAndTasks : Prop :=
  (∀ (s : State) (r : Fin 32) (u : Fin 32) (q : Fin 128) (fu c pa : Nat) (e : BitVec 512) (v : Bool × Nat),
      fu = r.val * 32 + u.val → s.qEn fu q = true → s.qKind fu q = 2 → s.qCount fu q ≠ 0 → s.unitLive fu = true →
      Reaches s (unitCluster fu) (s.qCtx fu q) (s.qEntryVa fu q (s.qHead fu q)) 64 .read pa →
      e = entryOf (s.memBytes pa 64) → isDeadline e = true → c = Ent.ctx e → s.fld (R.rgnDlmCfg r) F.rgnDlmCfg_EN = 1 →
      s.fld (R.rgnDlmCfg r) F.rgnDlmCfg_CTX = c → findBelow 32 (fun k => s.ctxHasRegion c k) = some r.val →
      v = verdictOf (s.fld (R.rgnDlmCfg r) F.rgnDlmCfg_FALLBACK == 1) (s.nowAt (r / 8)) (s.reg (R.rgnDlmPrevT r))
        (s.memWord (s.fld (R.rgnDlmAddr r) F.rgnDlmAddr_ADDR * 8)).toNat (s.reg (R.rgnDlmPrevM r)).toNat
        (natBits (bvBytes e 48 8) 31 0) (bvBytes e 40 8) (natBits (bvBytes e 48 8) 63 48) →
      ∃ t, exec (.deadlineCheck r u q) s = .next t
        ∧ (∀ w ∈ s.regionUnits c, t.fld (R.unitVerdict w) F.unitVerdict_VALID = 1
            ∧ t.fld (R.unitVerdict w) F.unitVerdict_ID = natBits (bvBytes e 48 8) 47 32
            ∧ t.fld (R.unitVerdict w) F.unitVerdict_SWITCH = bitNat v.1)
        ∧ t.reg (R.rgnDlmPrevT r) = s.nowAt (r / 8) ∧ t.fld (R.rgnDlmLast r) F.rgnDlmLast_SWITCH = bitNat v.1
        ∧ (v.1 = true → t.fld (R.rgnDlmCfg r) F.rgnDlmCfg_FALLBACK = 1) ∧ t.qHead fu q = (s.qHead fu q + 1) % 65536
        ∧ s.memKept t)
  ∧ (∀ (s : State) (a : Agent) (r : Fin 32) (cfg : Word), s.pageInReset .rgn r = false → s.rgnAvail r = true →
      F.rgnDlmCfg_EN.get cfg = 1 → s.bit (R.rgnDlmCfg r) F.rgnDlmCfg_EN = false →
      ∃ t, exec (.dlmEnable a r cfg) s = .next t ∧ t.fld (R.rgnDlmCfg r) F.rgnDlmCfg_EN = 1
        ∧ t.fld (R.rgnDlmCfg r) F.rgnDlmCfg_FALLBACK = 0 ∧ t.reg (R.rgnDlmPrevT r) = s.nowAt (r / 8)
        ∧ (∀ w ∈ s.regionUnits (F.rgnDlmCfg_CTX.get cfg), t.fld (R.unitVerdict w) F.unitVerdict_VALID = 0
            ∧ t.fld (R.unitVerdict w) F.unitVerdict_SW_VALID = 0)
        ∧ s.memKept t)
  ∧ (∀ (s : State) (u : Fin 1024) (q : Fin 128) (n : Nat) (since : Word),
      lookupKey s.sch.stops (queueId u q) = some (.decide n since) → s.fld (R.unitVerdict u) F.unitVerdict_VALID = 1 →
      (s.fld (R.unitVerdict u) F.unitVerdict_ID + 65536 - n % 65536) % 65536 < 32768 →
      s.restStops u (s.qCtx u q) = false →
      ∃ t, exec (.decisionResume u q) s = .next t ∧ lookupKey t.sch.stops (queueId u q) = none
        ∧ (s.qState u q < 5 → s.qParked u q = false → t.qState u q < 3)
        ∧ (s.fld (R.unitVerdict u) F.unitVerdict_SW_VALID = 1 → s.fld (R.unitVerdict u) F.unitVerdict_SW_ID = n →
            s.bit (R.unitQCfg u q) F.unitQCfg_FB_VALID = true →
            t.qHead u q = s.fld (R.unitQCfg u q) F.unitQCfg_FB_IDX ∧ t.bit (R.unitQCfg u q) F.unitQCfg_FB_VALID = false)
        ∧ s.changesOnly t [R.unitQCfg u q, R.unitQPtr u q])
  ∧ (∀ (s : State) (a : Agent) (u : Fin 1024) (v : Word) (lq size : Nat), s.pageInReset .unit u = false → s.unitAvail u = true →
      fwAllowed a .unit = true → lq = s.fld (R.unitTload0 u) F.unitTload0_LQ → size = s.fld (R.unitTload0 u) F.unitTload0_SIZE →
      ∃ t, exec (.tload a u v) s = .next t
        ∧ (s.tloadOk u lq size (F.unitTload1_COUNT.get v) = true →
            t.qHead u lq = 0 ∧ t.qTail u lq = F.unitTload1_COUNT.get v % 65536 ∧ t.qSize u lq = size
              ∧ t.fld (R.unitQCfg u lq) F.unitQCfg_NEXT_SEQ = F.unitTload1_NEXT_SEQ.get v
              ∧ t.fld (R.unitQBase u lq) F.unitQBase_RING = s.fld (R.unitTload0 u) F.unitTload0_RING
              ∧ s.changesOnly t [R.unitTload1 u, R.unitQBase u lq, R.unitQCfg u lq, R.unitQPtr u lq])
        ∧ (s.tloadOk u lq size (F.unitTload1_COUNT.get v) = false → t.fld (R.irqSts .unit u) ⟨2, 2⟩ = 1
            ∧ s.changesOnly t [R.unitTload1 u, R.irqSts .unit u]))
  ∧ (∀ (s : State) (u : Fin 1024) (q : Fin 128) (e : BitVec 512) (w lq count pa pb : Nat),
      s.qEn u q = true → s.qKind u q = 3 → s.qCount u q ≠ 0 → s.unitLive u = true →
      Reaches s (unitCluster u) (s.qCtx u q) (s.qEntryVa u q (s.qHead u q)) 64 .read pa → e = entryOf (s.memBytes pa 64) →
      lq = entBits e 28 6 0 → count = entBits e 24 16 0 → 1 ≤ count → count ≤ 65535 →
      s.taskWinner (unitRegion u) (s.qCtx u q) lq ((List.range 4).map (fun i => bvBytes e (32 + 4 * i) 4)) = some w →
      s.qParked w lq = false → Reaches s (unitCluster w) (s.qCtx u q) (entBits e 16 47 0) 64 .fetch pb →
      s.tloadOk w lq (sizeFor count) count = true → ¬(w = u.val ∧ lq = q.val) → w < 1024 →
      ∃ t, exec (.taskPlace u q) s = .next t ∧ t.qHead w lq = 0 ∧ t.qTail w lq = count
        ∧ t.fld (R.unitQCfg w lq) F.unitQCfg_NEXT_SEQ = Ent.seq (entryOf (s.memBytes pb 64))
        ∧ t.qHead u q = (s.qHead u q + 1) % 65536 ∧ s.memKept t)

/-! ## The array, the accumulators, the drain and the vector engine (03 to 06) -/

/-- Nothing a unit stores is damaged and no injection is armed in its UNIT and ACC pages. -/
def unitClean (s : State) (u : Nat) : Prop :=
  s.errs = [] ∧ s.fld (R.inj .unit u) F.inj_ARM = 0 ∧ s.fld (R.inj .acc u) F.inj_ARM = 0

/-- Every issued command with a command's name is at a stage. -/
def atStage (t : State) (f : Flight) (x : Stage) : Prop :=
  ∀ g ∈ t.sch.flights, g.u = f.u → g.q = f.q → g.seq = f.seq → g.stage = x

/-- Every issued command with a command's name runs with the slots of a mask, releases its tokens and completes in given
cycles, and has a detail. -/
def endsAt (t : State) (f : Flight) (mask rel done det : Nat) : Prop :=
  ∀ g ∈ t.sch.flights, g.u = f.u → g.q = f.q → g.seq = f.seq →
    g.stage = .running mask ∧ g.relAt = rel ∧ g.doneAt = done ∧ g.detail = det

/-- The byte that writes done in order leave at an offset; none where no write covers it. -/
def lastWrite (ws : List (Nat × List Byte)) (o : Nat) : Option Byte :=
  ws.foldl (fun b w => if w.1 ≤ o ∧ o < w.1 + w.2.length then w.2[o - w.1]? else b) none

/-- A unit's scratchpad holds what writes done in order leave, and every other scratchpad byte is as before. -/
def spadWritten (s t : State) (u : Nat) (ws : List (Nat × List Byte)) : Prop :=
  (∀ o, Sparse.get 0 t.spad (spadKey u o) = (lastWrite ws o).getD (Sparse.get 0 s.spad (spadKey u o)))
    ∧ ∀ k, k < spadKey u 0 → Sparse.get 0 t.spad k = Sparse.get 0 s.spad k

/-- Accord entries of a unit hold the listed values, and every entry not listed is as before. -/
def accWritten (s t : State) (u : Nat) (es : List (Nat × Accord)) : Prop :=
  (∀ e v, (e, v) ∈ es → t.accRaw u e = v.word)
    ∧ ∀ k, (∀ x ∈ es, k ≠ accKey u x.1) → Sparse.get 0 t.acc k = Sparse.get 0 s.acc k

/-- What an array command takes to the array when it claims its slots in the unit's next cycle. -/
def jobOf (s : State) (f : Flight) (rows : List Nat) (masked : Nat) : ArrJob :=
  { q := f.q, seq := f.seq, entry := f.entry, claimAt := s.unitCyc f.u + 1, rows := rows, masked := masked
    passes := (ArrCmd.of f.entry).passes, loaded := 0, begun := 0, next := 0 }

/-- The registers that show a unit's tokens and engines. -/
def engineRegs (u : Nat) : List Reg := [R.accOwn u, R.arrSts u, R.vecSts u]

/-- Nothing keeps a command that claims its slots from beginning: its unit is clean, and a DRAIN can draw (R132, R137). -/
def mayBegin (s : State) (f : Flight) : Prop :=
  unitClean s f.u ∧ (Ent.opcode f.entry = 0x28 → ∃ md w, Rnd.ofCode (Drain.of f.entry).rnd = some md ∧
    s.beginDraw md (Drain.of f.entry).slot (Drain.of f.entry).stream (Drain.of f.entry).ctr
      ((Drain.of f.entry).m * (Drain.of f.entry).n) f.ctx = .ok w)

/-- A command has taken the tokens of its slots in the unit's next cycle `c`, by its opcode: an MMA that feeds a row and a
CONV with an executed tap are at the array; an MMA that feeds none ends at c + 2; a CONV without an executed tap ends after
its slots in SET mode, or at c + 3; a DRAIN reads from cycle c + 1 or c + 9; an accumulator command ends after its slots.
No memory has changed, nor another unit. -/
def claimed (s t : State) (f : Flight) (mask : Nat) : Prop :=
  s.memKept t ∧ (∀ v, v ≠ f.u → t.unitEng v = s.unitEng v) ∧ s.onlyRegs t (R.arrMaskedCnt f.u :: engineRegs f.u)
    ∧ match Ent.opcode f.entry with
      | 0x20 =>
        let d := Mma.of f.entry
        if d.rows s f.u = [] then
          endsAt t f mask (s.unitCyc f.u + 3) (s.unitCyc f.u + 3) 0
            ∧ t.fld (R.arrMaskedCnt f.u) F.arrMaskedCnt_COUNT
                = (s.fld (R.arrMaskedCnt f.u) F.arrMaskedCnt_COUNT + d.m) % 2 ^ F.arrMaskedCnt_COUNT.width
        else atStage t f (.working mask)
          ∧ (t.unitEng f.u).jobs = (s.unitEng f.u).jobs ++ [jobOf s f (d.rows s f.u) (d.m - (d.rows s f.u).length)]
      | 0x24 =>
        let d := Conv.of f.entry
        if d.taps = [] then
          endsAt t f mask (s.unitCyc f.u + (if d.set then 2 + 32 * d.slots.length else 3))
            (s.unitCyc f.u + (if d.set then 3 + 32 * d.slots.length else 4)) 0
        else atStage t f (.working mask) ∧ (t.unitEng f.u).jobs = (s.unitEng f.u).jobs ++ [jobOf s f (List.range d.m) 0]
      | 0x28 =>
        let d := Drain.of f.entry
        atStage t f (.working mask) ∧ ∃ j, (t.unitEng f.u).drain = some j ∧ j.q = f.q ∧ j.seq = f.seq ∧ j.entry = f.entry ∧ j.next = 0
          ∧ j.first = s.unitCyc f.u + (if d.scaleMode = 2 ∨ d.biasEn = true then 10 else 2)
          ∧ j.scales = s.f32s f.u d.scaleOfs d.n (d.scaleMode == 2) ∧ j.bias = s.f32s f.u d.biasOfs d.n d.biasEn
      | op => ∃ e, e = s.unitCyc f.u + 2 + accCycles op * (slotsOf (entBits f.entry 16 7 0)).length ∧ endsAt t f mask e e 0

/-- MMA and CONV: a well-formed command whose slots are free claims them in the next cycle and goes to the array, and one
whose slots are not free waits for their tokens. A weight load reads its pass's tile, the last cycle of the load before being
far enough back; a row that enters adds its lane sums into its entries (or into FINITE zero in a SET command's first pass) and
leaves every other entry, the scratchpad and package memory; after a command's last row its release and completion follow 70
cycles later.
Readings of the model's own that it uses: assumption log 21, 24, 25, 26, 34, 99 and 100. -/
def Obligations.ArrayCommands : Prop :=
  (∀ (s : State) (u : Fin 1024) (q : Fin 128) (cyc : Nat) (f : Flight) (d : Mma), cyc ≤ s.unitCyc u →
      s.engineCmd u q .array 0x20 = some f → d = Mma.of f.entry → d.checkForm f.entry = none → d.m ≠ 0 → d.n ≠ 0 → d.k ≠ 0 →
      d.checkShape = none →
      ∃ t, exec (.mma u q cyc) s = .next t
        ∧ (s.mayClaim f (tileMask d.base d.m d.n) = true → unitClean s u → claimed s t f (tileMask d.base d.m d.n))
        ∧ (s.mayClaim f (tileMask d.base d.m d.n) = false →
            atStage t f (.tokens (tileMask d.base d.m d.n) 0) ∧ s.changesOnly t (engineRegs u)))
  ∧ (∀ (s : State) (u : Fin 1024) (q : Fin 128) (cyc : Nat) (f : Flight) (d : Conv), cyc ≤ s.unitCyc u →
      s.engineCmd u q .array 0x24 = some f → d = Conv.of f.entry → d.checkForm f.entry = none → d.oth ≠ 0 → d.otw ≠ 0 →
      d.n ≠ 0 → d.tile.c ≠ 0 → d.checkShape = none →
      ∃ t, exec (.conv u q cyc) s = .next t
        ∧ (s.mayClaim f (tileMask d.base d.m d.n) = true → unitClean s u → claimed s t f (tileMask d.base d.m d.n))
        ∧ (s.mayClaim f (tileMask d.base d.m d.n) = false →
            atStage t f (.tokens (tileMask d.base d.m d.n) 0) ∧ s.changesOnly t (engineRegs u)))
  ∧ (∀ (s t : State) (u : Fin 1024) (j : ArrJob), (s.unitEng u).jobs.find? (fun j => decide (j.loaded < j.passes)) = some j →
      (s.unitEng u).mayLoad (s.bit (R.arrCtl u) F.arrCtl_FRONT_EN) j (s.unitCyc u) = true → unitClean s u → t = s.loadTick u →
      (t.unitEng u).loads.head? = some (s.unitCyc u, (ArrCmd.of j.entry).tile s u ((ArrCmd.of j.entry).pass j.loaded))
        ∧ { j with loaded := j.loaded + 1 } ∈ (t.unitEng u).jobs ∧ s.changesOnly t [])
  ∧ (∀ (s t : State) (u : Fin 1024) (j : ArrJob) (start : Bool) (a : ArrCmd) (n : Nat) (p : Pass) (w : WTile) (m : Nat),
      (s.unitEng u).rowDue (s.unitCyc u) = some (j, start) →
      (∀ x ∈ (s.unitEng u).entered, x + s.issueDivisor ≤ s.unitCyc u) → unitClean s u → a = ArrCmd.of j.entry →
      n = (if start then j.begun + 1 else j.begun) → p = a.pass (n - 1) → m = j.rows.getD (if start then 0 else j.next) 0 →
      w = (((if start then (s.unitEng u).loads else (s.unitEng u).starts).head?.map (·.2)).getD ⟨[], []⟩) →
      t = (s.rowTick u).2 →
      accWritten s t u (p.cols.zipIdx.map (fun x => (accEntryOf a.acc.2 a.shape.1 m x.1,
          s.accumulate u (accEntryOf a.acc.2 a.shape.1 m x.1) (a.acc.1 && p.first) (a.sums s u p w m x.2))))
        ∧ (∀ k, Sparse.get 0 t.spad k = Sparse.get 0 s.spad k) ∧ (∀ b < 2 ^ 52, t.memByte b = s.memByte b)
        ∧ s.onlyRegs t [R.arrRowCnt u, R.arrFeedCyc u, R.arrMaskedCnt u]
        ∧ t.fld (R.arrRowCnt u) F.arrRowCnt_COUNT = (s.fld (R.arrRowCnt u) F.arrRowCnt_COUNT + 1) % 2 ^ F.arrRowCnt_COUNT.width
        ∧ ((if start then 0 else j.next) + 1 = j.rows.length → n = j.passes →
            ∀ g ∈ t.sch.flights, g.u = u → g.q = j.q → g.seq = j.seq →
              g.relAt = s.unitCyc u + 70 ∧ g.doneAt = s.unitCyc u + 70 ∧ g.detail = (if Ent.opcode j.entry = 0x24 then a.taps.length else 0)))

/-- ACC_CLEAR, ACC_SPILL, ACC_FILL, ACC_MERGE and DRAIN: a well-formed command that its engine takes up and whose slots are
free claims them in the next cycle. In a slot's last cycle the slot's entries become FINITE zero, are written to their image,
take it, or have it added; a read of a drain waits 20 cycles with its converted outputs, and zeroes the entries it read where
CLEAR is 1; an output that is due is written but where a later cycle's write stands; nothing else of the unit changes.
Readings of the model's own that it uses: assumption log 24, 28, 34 and 99. -/
def Obligations.AccumulatorAndDrainCommands : Prop :=
  (∀ (s : State) (u : Fin 1024) (q : Fin 128) (cyc : Nat) (f : Flight) (c : Instr) (op : Nat),
      (c, op) ∈ [(Instr.accClear u q cyc, 0x21), (.accSpill u q cyc, 0x22), (.accFill u q cyc, 0x23), (.accMerge u q cyc, 0x29)] →
      cyc ≤ s.unitCyc u → s.engineCmd u q .accEng op = some f → accCheck f.entry (accImage op) = none →
      entBits f.entry 16 7 0 ≠ 0 → s.mayClaim f (entBits f.entry 16 7 0) = true → unitClean s u →
      (∀ g ∈ s.unitFlights u, g.eng = .accEng → g.stage.live = true → g = f ∨ f.precedes g = true) →
      ∃ t, exec c s = .next t ∧ claimed s t f (entBits f.entry 16 7 0))
  ∧ (∀ (s t : State) (f : Flight) (m k slot : Nat), f.stage = .running m → m ≠ 0 → f.eng = .accEng → unitClean s f.u →
      f.u < 1024 → s.unitCyc f.u = f.claimAt + accCycles (Ent.opcode f.entry) * (k + 1) →
      (slotsOf (entBits f.entry 16 7 0))[k]? = some slot → t = s.slotTick f →
      (∀ a < 2 ^ 52, t.memByte a = s.memByte a) ∧ s.onlyRegs t []
        ∧ (Ent.opcode f.entry = 0x21 → (∀ k, Sparse.get 0 t.spad k = Sparse.get 0 s.spad k)
            ∧ accWritten s t f.u ((slotEntries slot).map (fun e => (e, .fin 0))))
        ∧ (Ent.opcode f.entry = 0x22 → (∀ k, Sparse.get 0 t.acc k = Sparse.get 0 s.acc k)
            ∧ spadWritten s t f.u [(entBits f.entry 20 20 0 + slotImage * k,
                (slotEntries slot).flatMap (fun e => natToBytes 80 (s.accRaw f.u e).toNat))])
        ∧ (Ent.opcode f.entry = 0x23 → (∀ k, Sparse.get 0 t.spad k = Sparse.get 0 s.spad k)
            ∧ accWritten s t f.u ((slotEntries slot).map (fun e =>
                (e, Accord.read (BitVec.ofNat 640 (s.spadNat f.u (imageOfs (entBits f.entry 20 20 0) k e) 80))))))
        ∧ (Ent.opcode f.entry = 0x29 → (∀ k, Sparse.get 0 t.spad k = Sparse.get 0 s.spad k)
            ∧ accWritten s t f.u ((slotEntries slot).map (fun e => (e, (s.accEntry f.u e).add
                (Accord.read (BitVec.ofNat 640 (s.spadNat f.u (imageOfs (entBits f.entry 20 20 0) k e) 80))))))))
  ∧ (∀ (s : State) (u : Fin 1024) (q : Fin 128) (cyc : Nat) (f : Flight) (d : Drain), cyc ≤ s.unitCyc u →
      s.engineCmd u q .drain 0x28 = some f → d = Drain.of f.entry → d.checkForm f.entry = none → d.m ≠ 0 → d.n ≠ 0 →
      d.checkShape = none →
      ∃ t, exec (.drain u q cyc) s = .next t
        ∧ (s.mayClaim f (tileMask d.base d.m d.n) = true → mayBegin s f → claimed s t f (tileMask d.base d.m d.n))
        ∧ (s.mayClaim f (tileMask d.base d.m d.n) = false →
            atStage t f (.tokens (tileMask d.base d.m d.n) 0) ∧ s.changesOnly t (engineRegs u)))
  ∧ (∀ (s t : State) (u : Fin 1024) (j : DrainJob) (d : Drain) (fm : Fmt) (md : Rnd) (p : Nat × Nat) (es : List Nat),
      (s.unitEng u).drain = some j → j.first ≤ s.unitCyc u → d = Drain.of j.entry → Fmt.ofCode d.fmt = some fm →
      Rnd.ofCode d.rnd = some md → unitClean s u → p = d.readAt j.next → es = (d.cols p.2).map (accEntryOf d.base d.m p.1) →
      t = s.drainTick u →
      (t.unitEng u).outs = (s.unitEng u).outs ++ (d.outputs j fm md (es.map (s.accEntry u)) p.1 p.2).1.map (fun o =>
          ⟨j.q, j.seq, s.unitCyc u + 20, o.1, o.2.1, o.2.2⟩)
        ∧ (d.clear = false → ∀ k, Sparse.get 0 t.acc k = Sparse.get 0 s.acc k)
        ∧ (d.clear = true → accWritten s t u (es.map (fun e => (e, .fin 0))))
        ∧ (∀ k, Sparse.get 0 t.spad k = Sparse.get 0 s.spad k) ∧ (∀ a < 2 ^ 52, t.memByte a = s.memByte a)
        ∧ s.onlyRegs t [R.vecDrainEnt u, R.vecDrainCyc u]
        ∧ t.fld (R.vecDrainEnt u) F.vecDrainEnt_COUNT
            = (s.fld (R.vecDrainEnt u) F.vecDrainEnt_COUNT + es.length) % 2 ^ F.vecDrainEnt_COUNT.width)
  ∧ (∀ (s t : State) (u : Fin 1024) (o : DrainOut), unitClean s u → t = s.drainOut u o →
      spadWritten s t u [(o.ofs, s.keepLater u o.ofs (2 * o.due + 1) (s.mergeBits u o.ofs o.val o.bits))]
        ∧ (∀ k, Sparse.get 0 t.acc k = Sparse.get 0 s.acc k) ∧ (∀ a < 2 ^ 52, t.memByte a = s.memByte a) ∧ s.onlyRegs t [])

/-- No byte of a unit's scratchpad bears a stamp of a write later than the cycle a command began in (R196). -/
def noneLater (s : State) (f : Flight) : Prop := ∀ w ∈ (s.unitEng f.u).wrote, w.2 ≤ 2 * f.validAt

/-- The counters that a vector command's cycles move (R223). -/
def vecCounters (u : Nat) : List Reg := [R.vecElemCnt u, R.vecBusyCyc u, R.vecStallCyc u, R.vecSupprCnt u]

/-- POOL and REGROUP: a begun command writes every output element, converted or copied, to the scratchpad and leaves the
accumulators and package memory.
Readings of the model's own that it uses: assumption log 24 and 33. -/
def Obligations.PoolAndRegroup : Prop :=
  (∀ (s : State) (u : Fin 1024) (q : Fin 128) (f : Flight) (d : Pool) (fo : Fmt) (md : Rnd) (w : Draw),
      s.vecCmd u q 0x32 = some f → d = Pool.of f.entry → f.u = u → unitClean s u → noneLater s f → Rnd.ofCode d.rnd = some md →
      Fmt.ofCode d.dst.code = some fo →
      s.beginDraw md d.slot d.stream d.ctr (d.oth * d.otw * d.src.c) f.ctx = .ok w →
      ∃ t, exec (.pool u q) s = .next t ∧ atStage t f (.running 0)
        ∧ spadWritten s t u (d.pixels.flatMap (fun p => (List.range d.dst.written).map (fun c =>
            ((d.dst.at p.1 p.2 c).1 + (d.dst.at p.1 p.2 c).2 * (fo.bits / 8), natToBytes (fo.bits / 8)
              (if c < d.dst.c then
                (fo.convert md (w.at' md ((p.1 * d.otw + p.2) * d.dst.c + c)) (d.value s u p.1 p.2 c)).1 else 0)))))
        ∧ (∀ k, Sparse.get 0 t.acc k = Sparse.get 0 s.acc k) ∧ (∀ a < 2 ^ 52, t.memByte a = s.memByte a)
        ∧ s.onlyRegs t (vecCounters u))
  ∧ (∀ (s : State) (u : Fin 1024) (q : Fin 128) (f : Flight) (d : Regroup) (fm : Fmt),
      s.vecCmd u q 0x33 = some f → d = Regroup.of f.entry → f.u = u → unitClean s u → noneLater s f → Fmt.ofCode d.src.code = some fm →
      ∃ t, exec (.regroup u q) s = .next t ∧ atStage t f (.running 0)
        ∧ spadWritten s t u ((List.range (d.oh * d.ow)).flatMap (fun i => (List.range d.dst.written).map (fun c =>
            ((d.dst.at (i / d.ow) (i % d.ow) c).1 + (d.dst.at (i / d.ow) (i % d.ow) c).2 * (fm.bits / 8),
              natToBytes (fm.bits / 8) (match d.from' (i / d.ow) (i % d.ow) c with
                | some (y, x, k) => s.elem u fm.bits (d.src.at y x k).1 (d.src.at y x k).2
                | none => 0)))))
        ∧ (∀ k, Sparse.get 0 t.acc k = Sparse.get 0 s.acc k) ∧ (∀ a < 2 ^ 52, t.memByte a = s.memByte a)
        ∧ s.onlyRegs t (vecCounters u))

/-- VEC_RUN and SOFTMAX: a begun command runs to its end with the outputs, the flags and the duration that its lane program,
or its rows, give; package memory stays.
Readings of the model's own that it uses: assumption log 24 and 29 to 33. -/
def Obligations.VectorPrograms : Prop :=
  (∀ (s : State) (u : Fin 1024) (q : Fin 128) (f : Flight) (d : VecRun) (md : Rnd) (w : Draw) (p : LProg) (k : RunCfg)
      (x r : Run),
      s.vecCmd u q 0x30 = some f → d = VecRun.of f.entry → f.u = u → unitClean s u →
      s.fld (R.inj .vec u) F.inj_ARM = 0 → Rnd.ofCode d.rnd = some md →
      p = LProg.of ((lookupKey s.eng.prog u).getD ([], [])).1 ((lookupKey s.eng.prog u).getD ([], [])).2 →
      s.beginDraw md d.slot d.stream d.ctr (d.rows * d.cols * (p.code.filter LInstr.converts).length) f.ctx = .ok w →
      k = { u := u, ctx := f.ctx, rows := d.rows, cols := d.cols, prog := p, rnd := md, draw := w, start := f.validAt, old := false } →
      x = k.settled (if d.mask then some d.maskOfs else none)
        { s := s, flags := 0, suppr := 0, red := [], pend := [], fail := none, last := 0, cyc := 0, guess := [], wrong := false } →
      r = (if x.fail.isSome then x
        else k.writeReds d.redOfs d.raw { x with cyc := f.validAt + runCycles (d.rows * d.cols) p.code - 1 }) →
      ∃ t, exec (.vecRun u q) s = .next t
        ∧ (r.fail = none → atStage t f (.running 0) ∧ t.spad = r.s.spad ∧ t.mem = r.s.mem ∧ t.acc = r.s.acc
            ∧ r.s.onlyRegs t (vecCounters u)
            ∧ ∀ g ∈ t.sch.flights, g.u = f.u → g.q = f.q → g.seq = f.seq →
                g.detail = r.flags ∧ g.doneAt = f.validAt + runCycles (d.rows * d.cols) p.code
                  ∧ g.plan = runPlan f.validAt (d.rows * d.cols) p.code)
        ∧ (∀ st, r.fail = some st → faultsCode st.code = true → r.s.ctxAlive f.ctx = true →
            (t.ctxSt f.ctx).state = 5 ∧ (t.ctxSt f.ctx).cause = st.code))
  ∧ (∀ (s : State) (u : Fin 1024) (q : Fin 128) (f : Flight) (d : Softmax) (md : Rnd) (fi fo : Fmt) (w : Draw)
      (x : Bool × Nat × State),
      s.vecCmd u q 0x31 = some f → d = Softmax.of f.entry → f.u = u → unitClean s u → Rnd.ofCode d.rnd = some md →
      Fmt.ofCode d.inFmt = some fi → Fmt.ofCode d.outFmt = some fo →
      s.beginDraw md d.slot d.stream d.ctr (d.rows * d.cols) f.ctx = .ok w →
      x = (List.range d.rows).foldl (fun x m => d.row u f.ctx f.validAt w md fi fo m x) (false, 0, s) → x.1 = false →
      ∃ t, exec (.softmax u q) s = .next t ∧ atStage t f (.running 0) ∧ t.spad = x.2.2.spad ∧ t.mem = s.mem
        ∧ t.acc = s.acc ∧ x.2.2.onlyRegs t (vecCounters u)
        ∧ ∀ g ∈ t.sch.flights, g.u = f.u → g.q = f.q → g.seq = f.seq →
            g.detail = x.2.1 ∧ g.doneAt = f.validAt + (16 + d.rows * (24 + 6 * ((d.cols + 63) / 64))))

/-- SLOT_TOKEN_CLAIM, ACC_HAZARD_TIMEOUT and VEC_COMMAND_BEGIN: a waiting command takes its tokens in a cycle where all are
free; one that has waited for tokens for more cycles than the limit faults its context with ACC_HAZARD_TIMEOUT; a vector
command begins when its engine is free, with its program and table latched. A row that names a later cycle brings its unit to
it and acts there.
Readings of the model's own that it uses: assumption log 24, 26, 34, 99 and 101. -/
def Obligations.ClaimsAndBegins : Prop :=
  (∀ (s : State) (u : Fin 1024) (q : Fin 128) (cyc : Nat) (f : Flight), cyc ≤ s.unitCyc u + 1 →
      s.flight u q (fun f => f.stage.waits) = some f → s.mayClaim f f.stage.wanted = true → mayBegin s f →
      ∃ t, exec (.slotTokenClaim u q cyc) s = .next t ∧ claimed s t f f.stage.wanted)
  ∧ (∀ (s : State) (u : Fin 1024) (q : Fin 128) (cyc : Nat) (f : Flight) (mask waited : Nat), cyc ≤ s.unitCyc u →
      s.flight u q (fun f => f.stage.waits) = some f → f.stage = .tokens mask waited → s.tokenLimit u < waited →
      s.ctxAlive f.ctx = true →
      ∃ t, exec (.accHazardTimeout u q cyc) s = .next t ∧ (t.ctxSt f.ctx).state = 5 ∧ (t.ctxSt f.ctx).cause = 0x23)
  ∧ (∀ (s : State) (u : Fin 1024) (q : Fin 128) (cyc : Nat) (f : Flight), cyc ≤ s.unitCyc u →
      s.flight u q (fun f => f.eng == .vec && f.stage == .issued && !f.begun) = some f → s.vecFree f (s.unitCyc u) = true →
      (s.vecCheck f).1 = .runs → unitClean s u →
      ∃ t, exec (.vecCommandBegin u q cyc) s = .next t
        ∧ (∀ g ∈ t.sch.flights, g.u = u → g.q = q → g.seq = f.seq → g.begun = true ∧ g.validAt = s.unitCyc u)
        ∧ (Ent.opcode f.entry = 0x30 → lookupKey t.eng.prog u = some (s.spadBytes u (VecRun.of f.entry).prog (VecRun.of f.entry).image,
            s.spadBytes u (VecRun.of f.entry).table 128))
        ∧ t.fld (R.vecSts u) F.vecSts_VEC_BUSY = 1 ∧ s.changesOnly t (engineRegs u))
  ∧ (∀ (s t : State) (u : Fin 1024) (q : Fin 128) (cyc n : Nat), s.unitCyc u + n = cyc → t = s.cycles u n →
      (∀ c ∈ [Instr.mma u q, .conv u q, .drain u q, .accClear u q, .accSpill u q, .accFill u q, .accMerge u q,
          .accHazardTimeout u q, .vecCommandBegin u q, .arrayCommandComplete u q, .accEngineDone u q, .drainComplete u q,
          .vecCommandComplete u q], exec (c cyc) s = exec (c (t.unitCyc u)) t)
        ∧ exec (.slotTokenClaim u q (cyc + 1)) s = exec (.slotTokenClaim u q (t.unitCyc u + 1)) t)

/-- ARRAY_COMMAND_COMPLETE, ACC_ENGINE_DONE, DRAIN_COMPLETE and VEC_COMMAND_COMPLETE: a command whose completion cycle has
come completes and its token enters the send buffer; the memories stay. ARR_CNT_CLR, ACC_CNT_CLR, VEC_CNT_CLR, CLU_CNT_CLR and
DMA_CNT_CLR: the page's counters read zero and nothing else changes.
Readings of the model's own that it uses: assumption log 24, 26 and 99. -/
def Obligations.EngineCompletionsAndCounters : Prop :=
  (∀ (s : State) (u : Fin 1024) (q : Fin 128) (cyc : Nat) (f : Flight) (c : Instr) (eng : Engine),
      (c, eng) ∈ [(Instr.arrayCommandComplete u q cyc, Engine.array), (.accEngineDone u q cyc, .accEng), (.drainComplete u q cyc, .drain),
        (.vecCommandComplete u q cyc, .vec)] →
      cyc ≤ s.unitCyc u → s.ended u q eng = some f →
      (eng = .accEng → (s.unitFlights u).all (fun g => !(g.eng == .accEng && g.stage == .issued && g.begun)) = true) →
      ∃ t, exec c s = .next t ∧ atStage t f .completed ∧ s.memKept t
        ∧ (Ent.doneEn f.entry = true → Ent.opcode f.entry ≠ 0x09 →
            ∃ e ∈ t.sch.sendBuf, e.u = u ∧ e.line = Ent.doneLine f.entry ∧ e.seq = f.seq))
  ∧ (∀ (s : State) (a : Agent) (u : Fin 1024), s.pageDead .arr u = false →
      ∃ t, exec (.arrCntClr a u) s = .next t
        ∧ (∀ r ∈ [R.arrPassCnt u, R.arrRowCnt u, R.arrFeedCyc u, R.arrGapCyc u, R.arrThrCyc u, R.arrMaskedCnt u], t.reg r = 0)
        ∧ s.changesOnly t [R.arrPassCnt u, R.arrRowCnt u, R.arrFeedCyc u, R.arrGapCyc u, R.arrThrCyc u, R.arrMaskedCnt u])
  ∧ (∀ (s : State) (a : Agent) (u : Fin 1024), s.pageDead .acc u = false →
      ∃ t, exec (.accCntClr a u) s = .next t ∧ (∀ r ∈ [R.accHazWaitCyc u, R.accHazWaitMax u, R.accCeCnt u], t.reg r = 0)
        ∧ s.changesOnly t [R.accHazWaitCyc u, R.accHazWaitMax u, R.accCeCnt u])
  ∧ (∀ (s : State) (a : Agent) (u : Fin 1024), s.pageDead .vec u = false →
      ∃ t, exec (.vecCntClr a u) s = .next t
        ∧ (∀ r ∈ [R.vecElemCnt u, R.vecBusyCyc u, R.vecStallCyc u, R.vecSupprCnt u, R.vecDrainEnt u, R.vecDrainCyc u], t.reg r = 0)
        ∧ s.changesOnly t [R.vecElemCnt u, R.vecBusyCyc u, R.vecStallCyc u, R.vecSupprCnt u, R.vecDrainEnt u, R.vecDrainCyc u])
  ∧ (∀ (s : State) (a : Agent) (c : Fin 128), s.pageDead .clu c = false →
      ∃ t, exec (.cluCntClr a c) s = .next t ∧ (∀ r ∈ [R.cluTlbLookup c, R.cluTlbMiss c], t.reg r = 0)
        ∧ s.changesOnly t [R.cluTlbLookup c, R.cluTlbMiss c])
  ∧ (∀ (s : State) (a : Agent) (c : Fin 128), s.pageDead .dma c = false →
      ∃ t, exec (.dmaCntClr a c) s = .next t ∧ (∀ r ∈ [R.dmaBytes c, R.dmaPieces c, R.dmaParkCnt c, R.dmaMoveCyc c], t.reg r = 0)
        ∧ s.changesOnly t [R.dmaBytes c, R.dmaPieces c, R.dmaParkCnt c, R.dmaMoveCyc c])


/-! ## DMA and translation (08) -/

/-- The counters of the DMA pieces of a cluster (R647). -/
def pieceRegs (c : Nat) : List Reg := [R.dmaBytes c, R.dmaPieces c, R.dmaMoveCyc c]

/-- A channel's copy may move its next piece: it has begun, is not parked, is not done, and nothing of it is under way. -/
def pieceReady (s : State) (c : Fin 128) (ch : Fin 16) (k : Chan) : Prop :=
  lookupKey s.xl.chans (c.val * 16 + ch.val) = some k ∧ s.running = true ∧ Ent.opcode k.cmd = 0x40
    ∧ (∃ f, s.flight k.u k.q (fun f => f.seq == k.seq) = some f ∧ f.begun = true ∧ f.stage = .issued)
    ∧ s.regBit (R.dmaSts c) (16 + ch) = false ∧ k.data = none ∧ k.pos < dmaRows k.cmd * dmaRowBytes k.cmd
    ∧ s.fld (R.inj .clu c) F.inj_ARM = 0 ∧ ∀ e ∈ s.coh.lines, e.2.err = []

/-- A piece of `n` bytes has been moved and counted, and the copy is done after its last byte. -/
def pieceMoved (s t : State) (c : Fin 128) (ch : Fin 16) (k : Chan) (n : Nat) : Prop :=
  lookupKey t.xl.chans (c.val * 16 + ch.val) = some { k with pos := k.pos + n, data := none }
    ∧ t.fld (R.dmaPieces c) F.dmaPieces_COUNT = (s.fld (R.dmaPieces c) F.dmaPieces_COUNT + 1) % 2 ^ F.dmaPieces_COUNT.width
    ∧ t.fld (R.dmaBytes c) F.dmaBytes_COUNT = (s.fld (R.dmaBytes c) F.dmaBytes_COUNT + n) % 2 ^ F.dmaBytes_COUNT.width
    ∧ (dmaRows k.cmd * dmaRowBytes k.cmd ≤ k.pos + n → ∀ g ∈ t.sch.flights, g.u = k.u → g.q = k.q → g.seq = k.seq →
        g.stage = .finished 0 0)

/-- The source and destination addresses, or offsets, of a channel's linear index. -/
def srcAt (k : Chan) (i : Nat) : Nat := (dmaSrc k.cmd).at k.srcBase (dmaRowBytes k.cmd) i
/-- The destination's. -/
def dstAt (k : Chan) (i : Nat) : Nat := (dmaDst k.cmd).at k.dstBase (dmaRowBytes k.cmd) i

/-- DMA_COPY, PREFETCH and DMA_PIECE: a checked copy begins at its first byte with the buffer entries it read at issue, and one
of no bytes is done; a prefetch ends with the pages it skipped; a piece between two scratchpads, from memory, to memory, or
between any two sides that are read and written, is moved and counted, and the copy is done after its last byte.
Readings of the model's own that it uses: assumption log 41, 51, 52 and 53. -/
def Obligations.DmaCommands : Prop :=
  (∀ (s : State) (u : Fin 1024) (q : Fin 128) (f : Flight), s.dmaCmd u q 0x40 = some f →
      s.copyCheck f.ctx f.entry (f.buf 0) (f.buf 1) = none →
      ∃ t, exec (.dmaCopy u q) s = .next t ∧ s.changesOnly t []
        ∧ ((dmaRows f.entry = 0 ∨ dmaRowBytes f.entry = 0) → atStage t f (.finished 0 0))
        ∧ ∀ k, s.chanOf f = some k → dmaRows f.entry ≠ 0 → dmaRowBytes f.entry ≠ 0 → ∃ x : Chan,
            lookupKey t.xl.chans k = some x ∧ x.cmd = f.entry ∧ x.pos = 0 ∧ x.ctx = f.ctx ∧ x.data = none
              ∧ ((dmaSrc f.entry).kind = 0 → x.srcBase = (f.buf 0).base) ∧ ((dmaDst f.entry).kind = 0 → x.dstBase = (f.buf 1).base)
              ∧ ∀ g ∈ t.sch.flights, g.u = f.u → g.q = f.q → g.seq = f.seq → g.begun = true)
  ∧ (∀ (s : State) (u : Fin 1024) (q : Fin 128) (f : Flight) (pa : Nat), s.dmaCmd u q 0x42 = some f →
      prefetchCheck f.entry (f.buf 0) = none → entBit f.entry 36 1 = false → bvBytes f.entry 32 4 ≠ 0 →
      Reaches s (unitCluster u) f.ctx ((f.buf 0).base + entBits f.entry 24 47 0) (bvBytes f.entry 32 4) .read pa →
      ∃ t, exec (.prefetch u q) s = .next t ∧ atStage t f (.finished 0 0) ∧ s.changesOnly t [R.cluTlbLookup (unitCluster u)])
  ∧ (∀ (s s2 : State) (u : Fin 1024) (q : Fin 128) (f : Flight) (n : Nat), s.dmaCmd u q 0x42 = some f →
      prefetchCheck f.entry (f.buf 0) = none →
      s.prefetchPages (unitCluster u) f.ctx (entBit f.entry 36 0) (entBit f.entry 36 1) (bvBytes f.entry 32 4 / 4096 + 2)
        ((f.buf 0).base + entBits f.entry 24 47 0) (bvBytes f.entry 32 4) 0 = (.go n, s2) →
      ∃ t, exec (.prefetch u q) s = .next t ∧ atStage t f (.finished 0 (min n 0xFFFF)) ∧ s2.changesOnly t [])
  ∧ (∀ (s : State) (c : Fin 128) (ch : Fin 16) (k : Chan), pieceReady s c ch k →
      (dmaSrc k.cmd).kind = 1 → (dmaDst k.cmd).kind = 1 → (∀ i, s.overlaps k (dstAt k i) = false) →
      unitClean s (dmaSrc k.cmd).idx → unitClean s (dmaDst k.cmd).idx →
      (∀ d ∈ [(dmaSrc k.cmd).idx, (dmaDst k.cmd).idx], s.clusterHeld c (unitCluster d) = false ∧ s.spadOpen d k.ctx = true) →
      ∃ t, exec (.dmaPiece c ch) s = .next t ∧ pieceMoved s t c ch k k.pieceLen
        ∧ spadWritten s t (dmaDst k.cmd).idx (k.segs.map (fun g => (dstAt k g.1, s.spadBytes (dmaSrc k.cmd).idx (srcAt k g.1) g.2)))
        ∧ (∀ a < 2 ^ 52, t.memByte a = s.memByte a) ∧ (∀ i, Sparse.get 0 t.acc i = Sparse.get 0 s.acc i) ∧ s.onlyRegs t (pieceRegs c))
  ∧ (∀ (s : State) (c : Fin 128) (ch : Fin 16) (k : Chan) (n pa : Nat), pieceReady s c ch k → k.segs = [(k.pos, n)] →
      (dmaSrc k.cmd).kind = 0 → (dmaDst k.cmd).kind = 1 → Reaches s c k.ctx (srcAt k k.pos) n .read pa → (∀ e ∈ s.xl.tlb, e.c = false) →
      s.clusterHeld c (unitCluster (dmaDst k.cmd).idx) = false → s.spadOpen (dmaDst k.cmd).idx k.ctx = true →
      ∃ t, exec (.dmaPiece c ch) s = .next t ∧ pieceMoved s t c ch k n
        ∧ spadWritten s t (dmaDst k.cmd).idx [(dstAt k k.pos, s.memBytes pa n)]
        ∧ (∀ a < 2 ^ 52, t.memByte a = s.memByte a) ∧ s.onlyRegs t (R.cluTlbLookup c :: pieceRegs c))
  ∧ (∀ (s : State) (c : Fin 128) (ch : Fin 16) (k : Chan) (n pa : Nat), pieceReady s c ch k → k.segs = [(k.pos, n)] →
      (dmaSrc k.cmd).kind = 1 → (dmaDst k.cmd).kind = 0 → Reaches s c k.ctx (dstAt k k.pos) n .write pa → (∀ e ∈ s.xl.tlb, e.c = false) →
      s.clusterHeld c (unitCluster (dmaSrc k.cmd).idx) = false → s.spadOpen (dmaSrc k.cmd).idx k.ctx = true →
      ∃ t, exec (.dmaPiece c ch) s = .next t ∧ pieceMoved s t c ch k n
        ∧ stored s t pa (s.spadBytes (dmaSrc k.cmd).idx (srcAt k k.pos) n)
        ∧ (∀ i, Sparse.get 0 t.spad i = Sparse.get 0 s.spad i) ∧ s.onlyRegs t (R.cluTlbLookup c :: pieceRegs c))
  ∧ (∀ (s s2 s3 s4 s5 : State) (c : Fin 128) (ch : Fin 16) (k : Chan) (sp dp : At) (bs : List Byte), pieceReady s c ch k →
      ((dmaSrc k.cmd).kind = 0 → s.walkHeld c k.ctx (srcAt k k.pos) = false) →
      ((dmaDst k.cmd).kind = 0 → s.walkHeld c k.ctx (dstAt k k.pos) = false) →
      s.locate c k.ctx (dmaSrc k.cmd) (srcAt k k.pos) .read = (.ok sp, s2) →
      s2.locate c k.ctx (dmaDst k.cmd) (dstAt k k.pos) .write = (.ok dp, s3) →
      s3.segsRead c k sp (srcAt k k.pos) k.segs = (.ok bs, s4) → s4.fld (R.inj .clu c) F.inj_ARM = 0 → (s4.overlapBytes k bs).1 = bs →
      (s4.overlapBytes k bs).2.segsWrite c k dp (dstAt k k.pos) k.segs bs = (.ok (), s5) →
      ∃ t, exec (.dmaPiece c ch) s = .next t ∧ pieceMoved s5 t c ch k bs.length ∧ s5.changesOnly t (pieceRegs c))

/-- A translation through a cluster's TLB must walk, and the walk ends with a leaf: neither the TLB nor a walk cache holds
anything for it, and nothing hinders it. -/
def walks (s : State) (t ctx va : Nat) (a : AccessKind) (l : Leaf) : Prop :=
  Calm s ∧ t < 128 ∧ va < 2 ^ 48 ∧ s.xl.walkCache = [] ∧ (∀ e ∈ s.xl.tlb, ¬(e.tlb = t ∧ e.ctx = ctx ∧ e.va ≤ va ∧ va < e.va + e.size))
    ∧ (match (s.walk ctx va a).res with
      | .ok x => x = l
      | .error _ => False)

/-- A TLB holds the translation of a leaf, and every table that a walk caches is one of its context. -/
def translated (s t : State) (tlb ctx : Nat) (l : Leaf) : Prop :=
  (∃ e ∈ t.xl.tlb, e.tlb = tlb ∧ e.ctx = ctx ∧ e.va = l.va ∧ e.size = l.size ∧ e.pa = l.pa ∧ e.r = l.r ∧ e.w = l.w ∧ e.x = l.x ∧ e.c = l.c)
    ∧ (∀ e ∈ s.xl.tlb, e.tlb ≠ tlb → e ∈ t.xl.tlb) ∧ ∀ e ∈ t.xl.walkCache, e.ctx = ctx

/-- The counters of a walk for a cluster's TLB. -/
def walkRegs (t : Nat) : List Reg := [R.cluTlbLookup t, R.cluTlbMiss t, R.xltWalks (tlbDie t)]

/-- WALK_COMPLETE, FQ_LATCH_DRAIN, FQ_RESOLVE_RETRY and FQ_RESOLVE_FAIL: a walk that finds a leaf fills the requester's TLB, and
walks that end in one cycle do so in the order of their records; the oldest latched record enters a ring with room; a
resolution lets the parked requests of a queue walk again, or faults its context.
Readings of the model's own that it uses: assumption log 37, 38, 41, 54, 55 and 63. -/
def Obligations.WalksAndFaultQueues : Prop :=
  (∀ (s : State) (w : WalkReq) (l : Leaf), s.running = true → (s.walkNeeds w.who).contains (w.ctx.toNat, w.va.toNat, w.access) = true →
      s.xl.parks.any (fun p => p.who == w.who) = false → walks s (requesterTlb w.who) w.ctx.toNat w.va.toNat w.access l →
      ∃ t, exec (.walkComplete [w]) s = .next t ∧ translated s t (requesterTlb w.who) w.ctx.toNat l ∧ s.changesOnly t (walkRegs (requesterTlb w.who)))
  ∧ (∀ (s : State) (ws : List WalkReq), ws.Pairwise (fun a b => a.rank s ≤ b.rank s) →
      exec (.walkComplete ws) s = .next (ws.foldl State.walkEnds s))
  ∧ (∀ (s : State) (die : Fin 5) (l : Nat × Nat × BitVec 256) (a : Nat),
      s.xl.latches.find? (fun l => decide (l.1 = die.val)) = some l → s.fqFull die = false →
      a = s.fld (R.xltFqBase die) F.xltFqBase_ADDR * 131072 + 32 * (s.fld (R.xltFqTail die) F.xltFqTail_TAIL % 4096) →
      ∃ t, exec (.fqLatchDrain die) s = .next t ∧ t.xl.latches = s.xl.latches.erase l
        ∧ t.fld (R.xltFqTail die) F.xltFqTail_TAIL = (s.fld (R.xltFqTail die) F.xltFqTail_TAIL + 1) % 65536
        ∧ t.fld (R.irqSts .xlt die) ⟨0, 0⟩ = 1
        ∧ (Calm s → s.sysOk a 32 = true → s.wardenImage a 32 = false → stored s t a (natToBytes 32 l.2.2.toNat)))
  ∧ (∀ (s : State) (a : Agent) (die : Fin 5) (qid : BitVec 17) (p : Park) (c : Fin 128) (ch : Fin 16) (l : Leaf),
      s.pageDead .xlt die = false → s.parkedOf die qid.toNat = [p] → die.val ≠ 4 → p.who = .channel c ch →
      walks s c p.ctx p.va p.access l →
      ∃ t, exec (.fqResolveRetry a die qid) s = .next t ∧ translated s t c p.ctx l ∧ t.fld (R.dmaCh c ch) F.dmaCh_PARKED = 0
        ∧ t.regBit (R.dmaSts c) (16 + ch) = false ∧ p ∉ t.xl.parks ∧ s.memKept t)
  ∧ (∀ (s : State) (a : Agent) (die : Fin 5) (qid : BitVec 17), s.pageDead .xlt die = false → s.parkedOf die qid.toNat ≠ [] →
      (s.parkedOf die qid.toNat).Pairwise (fun a b => a.who.loc.toNat ≤ b.who.loc.toNat) →
      exec (.fqResolveRetry a die qid) s = .next (if die.val = 4 then (List.range 4).foldl State.drainPort (s.unpark (s.parkedOf die qid.toNat))
        else (s.parkedOf die qid.toNat).foldl (fun s p => s.walkFor p.who p.ctx p.va p.access)
          ((s.unpark (s.parkedOf die qid.toNat)).unparkQueue qid.toNat)))
  ∧ (∀ (s : State) (a : Agent) (die : Fin 5) (qid : BitVec 17) (p : Park) (ps : List Park), s.pageDead .xlt die = false →
      s.parkedOf die qid.toNat = p :: ps → die.val ≠ 4 → s.ctxAlive p.ctx = true →
      ∃ t, exec (.fqResolveFail a die qid) s = .next t ∧ (t.ctxSt p.ctx).state = 5
        ∧ (t.ctxSt p.ctx).cause = Status.translation.code ∧ ∀ y ∈ t.xl.parks, y.ctx ≠ p.ctx)

/-- GOT_SYNC, GOT_SYNC_DONE, TLB_INV and TLB_INV_DONE: a sync and an invalidation each begin with their busy bit and end with
it clear: no line of a synced granule is cached, no matching translation is left.
Readings of the model's own that it uses: assumption log 54. -/
def Obligations.SyncAndInvalidate : Prop :=
  (∀ (s : State) (a : Agent) (v : Word), s.pageDead .xlt 4 = false →
      s.bit (R.xltSyncSts 4) F.xltSyncSts_GOT_BUSY = false →
      ∃ t, exec (.gotSync a v) s = .next t
        ∧ ((F.xltGotSync_ALL.get v = 1 ∨ F.xltGotSync_COUNT.get v ≠ 0) →
            t.fld (R.xltSyncSts 4) F.xltSyncSts_GOT_BUSY = 1
              ∧ t.xl.gotSync = some ⟨F.xltGotSync_FIRST.get v, F.xltGotSync_COUNT.get v, F.xltGotSync_ALL.get v = 1⟩
              ∧ s.changesOnly t [R.xltSyncSts 4])
        ∧ (F.xltGotSync_ALL.get v ≠ 1 → F.xltGotSync_COUNT.get v = 0 →
            t.fld (R.irqSts .xlt 4) ⟨3, 3⟩ = 1 ∧ s.changesOnly t [R.irqSts .xlt 4]))
  ∧ (∀ (s : State) (j : GotSyncJob), s.xl.gotSync = some j → s.coh.txns.any (fun t => j.names t.line) = false →
      ∃ t, exec .gotSyncDone s = .next t ∧ (∀ e ∈ t.coh.lines, j.names (e.1 / 64) = false) ∧ t.xl.gotSync = none
        ∧ t.fld (R.xltSyncSts 4) F.xltSyncSts_GOT_BUSY = 0 ∧ t.fld (R.irqSts .xlt 4) ⟨3, 3⟩ = 1)
  ∧ (∀ (s : State) (a : Agent) (v : Word), s.pageDead .xlt 4 = false →
      s.bit (R.xltSyncSts 4) F.xltSyncSts_TLB_BUSY = false →
      ∃ (t : State) (j : TlbInvJob), exec (.tlbInv a v) s = .next t ∧ t.xl.tlbInv = some j ∧ j.ctx = F.xltTlbInv_CTX.get v
        ∧ j.allCtx = (F.xltTlbInv_ALL_CTX.get v == 1) ∧ j.allVa = (F.xltTlbInv_ALL_VA.get v == 1)
        ∧ j.va = s.fld (R.xltTlbInvVa 4) F.xltTlbInvVa_VA * 4096 ∧ j.pages = F.xltTlbInv_PAGES.get v ∧ t.fld (R.xltSyncSts 4) F.xltSyncSts_TLB_BUSY = 1
        ∧ s.changesOnly t [R.xltSyncSts 4])
  ∧ (∀ (s : State) (j : TlbInvJob), s.xl.tlbInv = some j → s.invWaits j = false →
      ∃ t, exec .tlbInvDone s = .next t ∧ (∀ e ∈ t.xl.tlb, j.hits e.ctx e.va e.size = false) ∧ t.xl.tlbInv = none
        ∧ (∀ e ∈ s.xl.tlb, j.hits e.ctx e.va e.size = false → e ∈ t.xl.tlb)
        ∧ (∀ e ∈ t.xl.walkCache, j.hits e.ctx (e.tag * 2 ^ (21 + 9 * e.level)) (2 ^ (21 + 9 * e.level)) = false)
        ∧ t.fld (R.xltSyncSts 4) F.xltSyncSts_TLB_BUSY = 0 ∧ s.changesOnly t [R.xltSyncSts 4])

/-! ## Coherence (09) -/

/-- The command that makes a request of a kind, alone in its cycle. -/
def cohCmd (k : CohKind) (r : CohReq) : Instr :=
  match k with
  | .rdS => .rdS r []
  | .rdX => .rdX r []
  | .upg => .upg r []
  | .ownNoData => .ownNodata r []
  | .rdCur => .rdCur r []
  | .wrLine => .wrLine r []
  | .wrPart => .wrPart r []
  | .atom => .atom r []

/-- Every path of the protocol has room, and none that begins or ends at a line's home carries anything. -/
def homeQuiet (s : State) (line : Nat) : Prop :=
  s.pathsFit = true ∧ ∀ m ∈ s.coh.msgs, m.path.1 ≠ homeNode line ∧ m.path.2.1 ≠ homeNode line

/-- A message is the first of its path and no link holds it. -/
def arrives (s : State) (m : CohMsg) : Prop := s.coh.msgs.find? (fun x => x.path == m.path) = some m ∧ s.msgHeld m = false

/-- Of the registers only those listed may change, and what memory, the scratchpads and the accumulators store does not. -/
def stays (s t : State) (rs : List Reg) : Prop := s.onlyRegs t rs ∧ t.mem = s.mem ∧ t.spad = s.spad ∧ t.acc = s.acc

/-- An agent makes a first request, its path is not held, and its checks pass at its home. -/
def cohAsks (s : State) (k : CohKind) (r : CohReq) : Prop :=
  s.mayAsk k { r with aged := none } = true ∧ s.msgHeld (.wb r.agent r.line.toNat) = false
    ∧ ((s.issueCoh k { r with aged := none }).cohCheck k { r with aged := none }).1 = true ∧ homeQuiet s r.line.toNat

/-- The home of a line accepts a request: no mode change, no transaction on the line, a free slot, a way for its entry, and an
entry that is not damaged. -/
def homeAccepts (s : State) (k : CohKind) (line : Nat) : Prop :=
  s.coh.switchTo = none ∧ s.txnBusy line = false ∧ (s.freeSlot line).isSome = true ∧ (s.needsEntry k line = true → s.fullSet line = none)
    ∧ lookupKey s.coh.dirErr line = none ∧ s.fld (R.inj .coh (homeOf line).1) F.inj_ARM = 0
    ∧ ∀ e, lookupKey s.coh.dir line = some e → e.agents.Nodup

/-- In DIRECTORY mode a request is made, passes its checks and is one that its home accepts. -/
def cohAccepts (s : State) (k : CohKind) (r : CohReq) : Prop :=
  s.arbiterMode = false ∧ cohAsks s k r ∧ homeAccepts s k r.line.toNat

/-- The snoops that a request sends for its line. -/
def snoopsFor (s : State) (k : CohKind) (r : CohReq) : List (Nat × Snoop) × Bool := snoopsOf k r.agent (lookupKey s.coh.dir r.line.toNat)

/-- A request's line is BUSY with a transaction that waits for the answers to its snoops, which are on their way. -/
def snooping (s t : State) (k : CohKind) (r : CohReq) : Prop :=
  (∃ x ∈ t.coh.txns, x.line = r.line.toNat ∧ x.kind = k ∧ x.req = { r with aged := none } ∧ x.phase = .snoop
      ∧ x.waiting = (snoopsFor s k r).1.map (·.1))
    ∧ (∀ y ∈ (snoopsFor s k r).1, .snoop y.1 r.line.toNat y.2 (snoopsFor s k r).2 ∈ t.coh.msgs)
    ∧ t.txnBusy r.line.toNat = true

/-- RD_S, RD_X, UPG, OWN_NODATA, RD_CUR, WR_LINE, WR_PART and ATOM at a home, for every kind: a request whose line has
copies to be snooped makes its line BUSY and sends the snoops of R373; one for a BUSY line, one that finds no free
transaction slot, and one that meets a mode change is refused with a NACK that is counted (R376); in ARBITER mode a request
waits at the arbiter. Of two requests of one cycle for one line, the one whose port ranks first is served and the other
refused (R377).
Readings of the model's own that it uses: assumption log 56, 57, 94, 95 and 96. -/
def Obligations.RequestsSnoopOrRefuse : Prop :=
  (∀ (s : State) (k : CohKind) (r : CohReq), cohAccepts s k r → (snoopsFor s k r).1 ≠ [] →
      ∃ t, exec (cohCmd k r) s = .next t ∧ snooping s t k r ∧ stays s t [])
  ∧ (∀ (s : State) (k : CohKind) (r : CohReq) (why : NackWhy), s.arbiterMode = false → cohAsks s k r →
      (s.coh.switchTo ≠ none ∧ why = .modeSwitch ∨ s.coh.switchTo = none ∧ s.txnBusy r.line.toNat = true ∧ why = .busy
        ∨ s.coh.switchTo = none ∧ s.txnBusy r.line.toNat = false ∧ s.freeSlot r.line.toNat = none ∧ why = .slots) →
      ∃ t, exec (cohCmd k r) s = .next t ∧ .nack r.agent r.line.toNat why ∈ t.coh.msgs ∧ t.coh.txns = s.coh.txns
        ∧ t.coh.dir = s.coh.dir
        ∧ t.fld (R.cohNackCnt (homeOf r.line.toNat).1 (homeOf r.line.toNat).2) F.cohNackCnt_COUNT
            = (s.fld (R.cohNackCnt (homeOf r.line.toNat).1 (homeOf r.line.toNat).2) F.cohNackCnt_COUNT + 1) % 2 ^ F.cohNackCnt_COUNT.width
        ∧ stays s t [R.cohNackCnt (homeOf r.line.toNat).1 (homeOf r.line.toNat).2])
  ∧ (∀ (s : State) (k : CohKind) (r : CohReq), s.arbiterMode = true → s.mayAsk k { r with aged := none } = true →
      s.msgHeld (.wb r.agent r.line.toNat) = false → s.coh.arbQ.length < 4096 → s.coh.switchTo = none → s.pathsFit = true →
      ∃ t, exec (cohCmd k r) s = .next t ∧ t.coh.arbQ = s.coh.arbQ ++ [(k, { r with aged := none })] ∧ stays s t [])
  ∧ (∀ (s : State) (k : CohKind) (r q : CohReq), cohAccepts s .rdX r → (snoopsFor s .rdX r).1 ≠ [] → cohAsks s k q → q.line = r.line →
      q.agent ≠ r.agent → s.portRank r < s.portRank q → r.ctx = none → q.ctx = none →
      ∃ t, exec (.rdX r [(k, q)]) s = .next t ∧ (∃ x ∈ t.coh.txns, x.line = r.line.toNat ∧ x.kind = .rdX ∧ x.req.agent = r.agent)
        ∧ .nack q.agent q.line.toNat .busy ∈ t.coh.msgs)

/-- The same requests for a line that no cache holds: reads for a copy are granted with the directory's entry EXCLUSIVE,
and the line stays BUSY until CMP_ACK; RD_CUR answers with the memory's data; WR_LINE and WR_PART write the bytes their mask
names; ATOM returns the old value and writes the new one.
Readings of the model's own that it uses: assumption log 56, 57, 95 and 96. -/
def Obligations.RequestsUncached : Prop :=
  (∀ (s : State) (k : CohKind) (r : CohReq), cohAccepts s k r → k.grants = true → lookupKey s.coh.dir r.line.toNat = none →
      ∃ t, exec (cohCmd k r) s = .next t ∧ lookupKey t.coh.dir r.line.toNat = some (.exclusive r.agent)
        ∧ (∃ needs, .grant r.agent r.line.toNat (some (grantOf k true)) needs ∈ t.coh.msgs
            ∧ (needs = true → .data (homeNode r.line.toNat) r.agent r.line.toNat (s.homeData r.line.toNat) ∈ t.coh.msgs)
            ∧ (k ≠ .ownNoData → needs = true))
        ∧ t.txnBusy r.line.toNat = true ∧ stays s t [])
  ∧ (∀ (s : State) (r : CohReq), cohAccepts s .rdCur r → lookupKey s.coh.dir r.line.toNat = none →
      (∀ e ∈ (s.homeData r.line.toNat).err, eccClass e.2 ≠ .uncorrectable) →
      ∃ t, exec (.rdCur r []) s = .next t ∧ .data (homeNode r.line.toNat) r.agent r.line.toNat (s.homeData r.line.toNat) ∈ t.coh.msgs
        ∧ .grant r.agent r.line.toNat none true ∈ t.coh.msgs ∧ lookupKey t.coh.dir r.line.toNat = none ∧ stays s t [])
  ∧ (∀ (s : State) (k : CohKind) (r : CohReq) (m : BitVec 128), cohAccepts s k r → lookupKey s.coh.dir r.line.toNat = none →
      (∀ e ∈ s.coh.lines, e.1 / 64 ≠ r.line.toNat) → s.errs = [] →
      s.fld (R.inj .hbm (stackOf (r.line.toNat * 128))) F.inj_ARM = 0 →
      (k = .wrLine ∧ m = BitVec.allOnes 128 ∨ k = .wrPart ∧ m = r.mask) →
      ∃ t, exec (cohCmd k r) s = .next t
        ∧ (∀ i < 128, t.memByte (r.line.toNat * 128 + i)
            = if m.getLsbD i then lineByte r.data i else s.memByte (r.line.toNat * 128 + i))
        ∧ (∀ a, a / 128 ≠ r.line.toNat → t.memByte a = s.memByte a) ∧ s.onlyRegs t [])
  ∧ (∀ (s : State) (r : CohReq), cohAccepts s .atom r → lookupKey s.coh.dir r.line.toNat = none →
      (∀ e ∈ s.coh.lines, e.1 / 64 ≠ r.line.toNat) → s.errs = [] → r.ofs.val + r.size.val ≤ 128 →
      s.fld (R.inj .hbm (stackOf (r.line.toNat * 128))) F.inj_ARM = 0 →
      ∃ t, exec (.atom r []) s = .next t
        ∧ t.memNat (r.line.toNat * 128 + r.ofs) r.size
            = r.op.apply r.size (s.memNat (r.line.toNat * 128 + r.ofs) r.size) r.data.toNat r.cmp.toNat % 2 ^ (8 * r.size.val)
        ∧ .data (homeNode r.line.toNat) r.agent r.line.toNat
            ⟨BitVec.ofNat 1024 (s.memNat (r.line.toNat * 128 + r.ofs) r.size), []⟩ ∈ t.coh.msgs
        ∧ (∀ a, a < r.line.toNat * 128 + r.ofs ∨ r.line.toNat * 128 + r.ofs + r.size ≤ a → t.memByte a = s.memByte a)
        ∧ s.onlyRegs t [R.cohAtomCnt (homeOf r.line.toNat).1 (homeOf r.line.toNat).2])

/-- WB, CLEAN_EVICT and WB_ACK: an evicted line moves to W and its notice leaves; at a home that awaits nothing from its
sender the data reaches memory, the sender leaves the entry and WB_ACK leaves; WB_ACK takes the line to I.
Readings of the model's own that it uses: assumption log 56, 95 and 96. -/
def Obligations.EvictionSteps : Prop :=
  (∀ (s : State) (agent : Fin 64) (line : LineNo) (c : CacheLine), s.running = true → s.pathsFit = true →
      (∀ m ∈ s.coh.msgs, m.path ≠ (CohMsg.wb agent line.toNat).path) → s.copy agent line.toNat = some c →
      (c.st = .m → ∃ t, exec (.wb agent line) s = .next t ∧ t.copy agent line.toNat = some (c.lower (.w true))
          ∧ .wb agent line.toNat ∈ t.coh.msgs ∧ stays s t [])
      ∧ (c.st = .e ∨ c.st = .f → ∃ t, exec (.cleanEvict agent line) s = .next t
          ∧ t.copy agent line.toNat = some (c.lower (.w false)) ∧ .wb agent line.toNat ∈ t.coh.msgs ∧ stays s t []))
  ∧ (∀ (s : State) (agent : Fin 64) (line : LineNo) (c : CacheLine) (dirty : Bool), s.running = true →
      arrives s (.wb agent line.toNat) → s.copy agent line.toNat = some c → c.st = .w dirty → s.txnFor agent line.toNat = none →
      c.err = [] → s.pathsFit = true → (∀ m ∈ s.coh.msgs, m.path ≠ (CohMsg.wbAck agent line.toNat).path) →
      ∃ t, exec (if dirty then .wb agent line else .cleanEvict agent line) s = .next t ∧ .wbAck agent line.toNat ∈ t.coh.msgs
        ∧ t.copy agent line.toNat = some { c with st := .w false }
        ∧ (∀ e, lookupKey t.coh.dir line.toNat = some e → agent.val ∉ e.agents)
        ∧ (dirty = true → s.stackGone (line.toNat * 128) = false →
            ∀ i < 128, Sparse.get 0 t.mem (line.toNat * 128 + i) = lineByte c.data i)
        ∧ (dirty = false → t.mem = s.mem))
  ∧ (∀ (s : State) (agent : Fin 64) (line : LineNo), arrives s (.wbAck agent line.toNat) →
      ∃ t, exec (.wbAck agent line) s = .next t ∧ t.copy agent line.toNat = none
        ∧ t.coh.msgs = s.coh.msgs.erase (.wbAck agent line.toNat) ∧ stays s t [])

/-- The command by which a snoop of a kind reaches a cache. -/
def snoopCmd (k : Snoop) (agent : Fin 64) (line : LineNo) : Instr :=
  match k with
  | .snpS => .snpS agent line
  | .snpX => .snpX agent line
  | .snpInv => .snpInv agent line
  | .snpCur => .snpCur agent line

/-- SNP_S, SNP_X, SNP_INV and SNP_CUR: the cache answers as R371's row for its line's state says and takes the row's new
state, data that the row forwards leaves for the requester, and nothing else is cached or dropped.
Readings of the model's own that it uses: assumption log 56 and 96. -/
def Obligations.SnoopsAnswered : Prop :=
  ∀ (s : State) (k : Snoop) (agent : Fin 64) (line : LineNo) (home : Bool) (c : Option CacheLine),
    arrives s (.snoop agent line.toNat k home) → s.pathsFit = true → (∀ m ∈ s.coh.msgs, m.path.1 ≠ agent.val) →
    c = s.copy agent line.toNat → (∀ x, c = some x → x.err = []) →
    ∃ t, exec (snoopCmd k agent line) s = .next t
      ∧ t.copy agent line.toNat
          = c.bind (fun x => (snoopRow (some x.st) k).1.map (fun st => if st = x.st then x else x.lower st))
      ∧ (∃ fwd d, .answer agent line.toNat (snoopRow (c.map (·.st)) k).2.1 fwd d ∈ t.coh.msgs
          ∧ ((snoopRow (c.map (·.st)) k).2.2.2 = true → d = c.map (·.moved)))
      ∧ ((snoopRow (c.map (·.st)) k).2.2.1 = true → home = false → ∀ x y, c = some x → s.txnFor agent line.toNat = some y →
          .data agent y.req.agent line.toNat x.moved ∈ t.coh.msgs)
      ∧ (∀ a l, lineKey a l ≠ lineKey agent line.toNat → t.copy a l = s.copy a l) ∧ stays s t []

/-- SNOOP_ANSWER, COH_DATA_GRANT, CMP_ACK, NACK and NACK_RETRY: an answer leaves its sender's name on the waiting list no
more; data and grant give the requester its line and CMP_ACK, and a grant of no state ends its request; CMP_ACK ends the
transaction; a NACK sets the retry wait of R380, and the request is sent again when it is over, aged after the 16th: to the
arbiter, or to its home, which keeps an aged one for a BUSY line in its age queue.
Readings of the model's own that it uses: assumption log 56 and 96. -/
def Obligations.GrantsAndRetries : Prop :=
  (∀ (s : State) (agent : Fin 64) (line : LineNo) (a : SnoopAns) (fwd : Bool) (d : Option LineData) (x : Txn),
      arrives s (.answer agent line.toNat a fwd d) → s.txnFor agent line.toNat = some x → a ≠ .wbInflight →
      a ≠ .miss → x.waiting.erase agent ≠ [] → s.pathsFit = true →
      ∃ (t : State) (y : Txn), exec (.snoopAnswer agent line) s = .next t ∧ y ∈ t.coh.txns ∧ y.line = x.line
        ∧ y.waiting = x.waiting.erase agent ∧ y.forwarded = (x.forwarded || fwd) ∧ y.dirty = d.or x.dirty ∧ stays s t [])
  ∧ (∀ (s : State) (agent : Fin 128) (line : LineNo) (o : Outstanding) (g : Grant) (src : Nat) (d : LineData),
      s.coh.msgs.find? (fun m => match m with
        | .data _ x y _ => x == agent.val && y == line.toNat
        | _ => false) = some (.data src agent line.toNat d) → arrives s (.data src agent line.toNat d) →
      arrives { s with coh := { s.coh with msgs := s.coh.msgs.erase (.data src agent line.toNat d) } } (.grant agent line.toNat (some g) true) →
      s.outstanding agent line.toNat = some o → s.pathsFit = true → (∀ m ∈ s.coh.msgs, m.path.1 ≠ agent.val) →
      ∃ t, exec (.cohDataGrant agent line) s = .next t
        ∧ t.copy agent line.toNat = some (grantedLine o g (s.copy agent line.toNat) (some d))
        ∧ .cmpAck agent line.toNat ∈ t.coh.msgs ∧ t.outstanding agent line.toNat = none
        ∧ (s.copy agent line.toNat ≠ none → stays s t []))
  ∧ (∀ (s : State) (agent : Fin 128) (line : LineNo) (o : Outstanding) (g : Grant) (c : CacheLine),
      (∀ m ∈ s.coh.msgs, ∀ src d, m ≠ .data src agent line.toNat d) → arrives s (.grant agent line.toNat (some g) false) →
      s.outstanding agent line.toNat = some o → s.copy agent line.toNat = some c → s.pathsFit = true →
      (∀ m ∈ s.coh.msgs, m.path.1 ≠ agent.val) →
      ∃ t, exec (.cohDataGrant agent line) s = .next t ∧ t.copy agent line.toNat = some (grantedLine o g (some c) none)
        ∧ .cmpAck agent line.toNat ∈ t.coh.msgs ∧ t.outstanding agent line.toNat = none ∧ stays s t [])
  ∧ (∀ (s : State) (agent : Fin 128) (line : LineNo) (src : Nat) (d : LineData),
      s.coh.msgs.find? (fun m => match m with
        | .data _ x y _ => x == agent.val && y == line.toNat
        | _ => false) = some (.data src agent line.toNat d) → arrives s (.data src agent line.toNat d) →
      arrives { s with coh := { s.coh with msgs := s.coh.msgs.erase (.data src agent line.toNat d) } } (.grant agent line.toNat none true) →
      s.outstanding agent line.toNat ≠ none →
      ∃ t, exec (.cohDataGrant agent line) s = .next t ∧ t.outstanding agent line.toNat = none ∧ t.coh.lines = s.coh.lines ∧ stays s t [])
  ∧ (∀ (s : State) (agent : Fin 128) (line : LineNo), arrives s (.cmpAck agent line.toNat) →
      (∀ e ∈ s.coh.ageQ, e.2.line ≠ line) → s.pathsFit = true →
      ∃ t, exec (.cmpAck agent line) s = .next t ∧ (∀ x ∈ t.coh.txns, x.line ≠ line.toNat)
        ∧ (∀ x ∈ s.coh.txns, x.line ≠ line.toNat → x ∈ t.coh.txns) ∧ stays s t [])
  ∧ (∀ (s : State) (agent : Fin 128) (line : LineNo) (why : NackWhy) (o : Outstanding), arrives s (.nack agent line.toNat why) →
      s.outstanding agent line.toNat = some o →
      ∃ (t : State) (p : Outstanding), exec (.nack agent line) s = .next t ∧ t.outstanding agent line.toNat = some p
        ∧ p.nacks = o.nacks + 1 ∧ p.retryAt = some (s.now + BitVec.ofNat 64 (min (o.nacks + 1) 8 * 40 * 65536))
        ∧ p.kind = o.kind ∧ p.req = o.req ∧ p.firstIssue = o.firstIssue ∧ stays s t [])
  ∧ (∀ (s : State) (agent : Fin 128) (line : LineNo) (o : Outstanding) (w : Word) (r : CohReq),
      s.outstanding agent line.toNat = some o → o.retryAt = some w → 0 ≤ cadenceDiff s.now w → s.running = true →
      s.msgHeld (.wb agent line.toNat) = false → r = { o.req with aged := if 16 ≤ o.nacks then some o.firstIssue else none } →
      s.coh.switchTo = none → s.pathsFit = true →
      ∃ t, exec (.nackRetry agent line) s = .next t
        ∧ (s.arbiterMode = true → s.coh.arbQ.length < 4096 → t.coh.arbQ = s.coh.arbQ ++ [(o.kind, r)] ∧ stays s t [])
        ∧ (s.arbiterMode = false → ((s.resend r).cohCheck o.kind r).1 = true → 16 ≤ o.nacks → s.txnBusy line.toNat = true →
            (s.coh.ageQ.filter (fun e => homeOf e.2.line.toNat = homeOf line.toNat)).length < 256 →
            t.coh.ageQ = s.coh.ageQ ++ [(o.kind, r)]
              ∧ stays s t [R.cohAgedCnt (homeOf line.toNat).1 (homeOf line.toNat).2]))

/-- ARBITER_FORWARD, COH_MODE_WRITE, MODE_SWITCH_DONE, DIR_INIT and DIR_INIT_DONE: the first request whose line is free goes to
its home and is counted; a mode change begins and takes effect once nothing is under way; a directory's rebuild begins and
ends with every entry of the controller UNCACHED and no line of it cached.
Readings of the model's own that it uses: assumption log 58 and 96. -/
def Obligations.ArbiterAndModes : Prop :=
  (∀ (s : State) (e : CohKind × CohReq), s.coh.arbQ.find? (fun e => !s.txnBusy e.2.line.toNat) = some e → s.works (locHost 8 0) = true →
      (s.cohCheck e.1 e.2).1 = true → homeQuiet s e.2.line.toNat →
      (s.freeSlot e.2.line.toNat = none ∨ homeAccepts s e.1 e.2.line.toNat ∧ ((snoopsFor s e.1 e.2).1 ≠ [] ∨ e.1.grants = true)) →
      ∃ t, exec .arbiterForward s = .next t ∧ t.coh.arbQ = s.coh.arbQ.erase e
        ∧ t.fld (R.cohArbCnt 4) F.cohArbCnt_COUNT = (s.fld (R.cohArbCnt 4) F.cohArbCnt_COUNT + 1) % 2 ^ F.cohArbCnt_COUNT.width
        ∧ (s.freeSlot e.2.line.toNat = none → .nack e.2.agent e.2.line.toNat .slots ∈ t.coh.msgs)
        ∧ (e.2.aged = none → s.freeSlot e.2.line.toNat ≠ none → (snoopsFor s e.1 e.2).1 ≠ [] →
            snooping s t e.1 e.2 ∧ stays s t [R.cohArbCnt 4]))
  ∧ (∀ (s : State) (a : Agent) (mode : Bool), s.pageDead .coh 4 = false → fwAllowed a .coh = true →
      s.bit (R.cohSts 4) F.cohSts_SWITCHING = false → (mode = true → s.bit R.pkgSts F.pkgSts_DIR_READY = true) →
      ∃ t, exec (.cohModeWrite a mode) s = .next t ∧ t.fld (R.cohCtl 4) F.cohCtl_MODE = bitNat mode
        ∧ t.fld (R.cohSts 4) F.cohSts_SWITCHING = 1 ∧ t.coh.switchTo = some mode
        ∧ t.fld (R.cohSts 4) F.cohSts_MODE_CUR = s.fld (R.cohSts 4) F.cohSts_MODE_CUR
        ∧ s.changesOnly t [R.cohCtl 4, R.cohSts 4])
  ∧ (∀ (s : State) (m : Bool), s.coh.switchTo = some m → s.coh.txns = [] → s.coh.ageQ = [] → s.coh.arbQ = [] →
      ∃ t, exec .modeSwitchDone s = .next t ∧ t.fld (R.cohSts 4) F.cohSts_MODE_CUR = bitNat m
        ∧ t.fld (R.cohSts 4) F.cohSts_SWITCHING = 0 ∧ t.coh.switchTo = none ∧ t.fld (R.irqSts .coh 4) ⟨1, 1⟩ = 1
        ∧ s.changesOnly t [R.cohSts 4, R.irqSts .coh 4])
  ∧ (∀ (s : State) (a : Agent) (die home : Fin 4), s.pageDead .coh die = false → fwAllowed a .coh = true →
      s.arbiterMode = true →
      ∃ t, exec (.dirInit a die home) s = .next t ∧ t.regBit (R.cohSts die) (2 + home) = true
        ∧ t.coh = s.coh ∧ s.changesOnly t [R.cohDirInit die, R.cohSts die])
  ∧ (∀ (s : State) (die home : Fin 4), s.regBit (R.cohSts die) (2 + home) = true →
      s.coh.txns.any (fun t => homeOf t.line == (die.val, home.val)) = false → s.stackAvail (4 * die.val + home.val) = true →
      ∃ t, exec (.dirInitDone die home) s = .next t ∧ t.regBit (R.cohSts die) (2 + home) = false
        ∧ (∀ e ∈ t.coh.dir, homeOf e.1 ≠ (die.val, home.val))
        ∧ (∀ e ∈ t.coh.lines, homeOf (e.1 / 64) ≠ (die.val, home.val))
        ∧ s.onlyRegs t [R.cohSts die, R.inj .hbm (4 * die.val + home.val)])

/-! ## Register writes, cores and interrupt messages (10, 17) -/

/-- A word offset of the register space that names a register of a page which a write of the agent reaches. -/
def regWriteAt (s : State) (a : Agent) (o : BitVec 32) (r : Reg) : Prop :=
  s.running = true ∧ s.regReaches a r.page r.inst = true ∧ o.toNat % 8 = 0 ∧ r.present = true
    ∧ ∃ w, pageAt o.toNat = some ⟨r.page, r.inst, w⟩ ∧ r.page.regAt r.inst w = some r

/-- The registers whose write does more than R634's rule for their fields, or less while something guards them. -/
def ownWrites : List RegName :=
  [.ctl, .safe, .irqSts, .irqEn, .errRec, .inj, .pkgAvailRetire, .pkgCtxCmd, .pkgRstCtl, .pkgElogBase, .pkgElogCfg, .pkgElogHead,
   .timeSet, .timeAstrCfg, .timeAstrTail, .secVerifyCmd, .secMlogSel, .secRkeyCfg, .secRkeyK, .hostCgrpClk, .hostHlRelease,
   .hostCoreRun, .hostMbox] ++
  [.cohPortPrio, .cohDirInit, .xltFqBase, .xltFqHead, .xltFqResolve, .xltGotBase, .xltGrpBase, .xltGotSync, .xltTlbInv, .pciePortCfg,
   .pcieDtBase, .fixStore, .dieSlotCfg, .dieSlotRing, .dieSlotTbl, .dieSlotSeal, .dieSlotSealmask, .dieSnapPeers, .dieSnapTbl,
   .dieSnapCfg, .dieSnapOp, .optFabCfg, .rgnDvfs, .rgnRstCtl, .rgnDlmCfg, .cluWin] ++
  [.unitWdog, .unitTload1, .unitQBase, .unitQCfg, .unitQPtr, .unitCrl]

/-- REGISTER_WRITE: the writes of one cycle act in the order of R38, R567 and R636, each as one alone would; a write acts on the
register its offset names, and takes each field as R634 says; an interrupt status bit is cleared by writing 1 and kept by
writing 0; an FW field is kept from an agent that may not write it; a write to an offset its page leaves undefined is ignored.
Readings of the model's own that it uses: assumption log 2, 7, 15 and 66. -/
def Obligations.RegisterWrites : Prop :=
  (∀ ws : List RegWrite, (writeOrder ws).Perm ws
      ∧ ((writeOrder ws).filter (fun w => (resetRank w).isNone && (dvfsRank w).isNone)).Pairwise
          (fun x y => (agentLoc x.agent).toNat ≤ (agentLoc y.agent).toNat)
      ∧ ((writeOrder ws).filterMap dvfsRank).Pairwise (· ≤ ·)
      ∧ ∀ v w, (resetRank v).isSome = true → (resetRank w).isNone = true → v ∈ ws → w ∈ ws → [v, w].Sublist (writeOrder ws) → v = w)
  ∧ (∀ (s : State) (w : RegWrite) (ws rest : List RegWrite), writeOrder ws = w :: rest →
      ∃ t, exec (.registerWrite [w]) s = .next t ∧ exec (.registerWrite ws) s = exec (.registerWrite rest) t)
  ∧ (∀ (s : State) (a : Agent) (o : BitVec 32) (v : Word) (r : Reg), regWriteAt s a o r →
      exec (.registerWrite [⟨a, o, v⟩]) s = .next (s.writeReg a r v))
  ∧ (∀ (s : State) (a : Agent) (o : BitVec 32) (v : Word) (r : Reg), regWriteAt s a o r → r.name ∉ ownWrites →
      (r.hasFw = true → fwAllowed a r.page = true) →
      ∃ t, exec (.registerWrite [⟨a, o, v⟩]) s = .next t
        ∧ t.reg r = writeFields (fwAllowed a r.page) (fun _ => true) r.fields (s.reg r) v ∧ s.changesOnly t [r])
  ∧ (∀ (s : State) (a : Agent) (o : BitVec 32) (p : Page) (i : Nat) (v : Word), regWriteAt s a o (R.irqSts p i) →
      ∃ t, exec (.registerWrite [⟨a, o, v⟩]) s = .next t
        ∧ (∀ f ∈ (R.irqSts p i).fields, ∀ k, f.fld.lo ≤ k → k ≤ f.fld.hi →
            (t.reg (R.irqSts p i)).getLsbD k = ((s.reg (R.irqSts p i)).getLsbD k && !v.getLsbD k))
        ∧ s.changesOnly t [R.irqSts p i])
  ∧ (∀ (s : State) (a : Agent) (o : BitVec 32) (v : Word), regWriteAt s a o R.hostCoreVec → fwAllowed a .host = false →
      s.fld R.pkgElogCfg F.pkgElogCfg_EN = 0 →
      ∃ t, exec (.registerWrite [⟨a, o, v⟩]) s = .next t ∧ t.reg R.hostCoreVec = s.reg R.hostCoreVec ∧ s.memKept t)
  ∧ (∀ (s : State) (a : Agent) (o : BitVec 32) (v : Word) (x : PageAt), s.running = true → o.toNat % 8 = 0 →
      pageAt o.toNat = some x → x.page.regAt x.inst x.ofs = none → exec (.registerWrite [⟨a, o, v⟩]) s = .next s)

/-- CGRP_CLK, CGRP_CLK_DONE, CORE_RUN and SCTXBIND_WRITE: clock codes that change are busy until CGRP_CLK_DONE; a released
core starts at CORE_VEC and a held one loses sctxbind; sctxbind is written in M-mode and HS-mode and is an exception in the
others; a core that runs reads its number in mhartid and the wraps and the nanoseconds of the cadence counter in its time CSR.
Readings of the model's own that it uses: assumption log 14 and 17. -/
def Obligations.CoreControls : Prop :=
  (∀ (s : State) (a : Agent) (v : Word), s.regReaches a .host 0 = true → fwAllowed a .host = true →
      (∀ g < 8, natBits v.toNat (8 * g + 7) (8 * g) ≤ 16) → s.reg R.hostCgrpClk ≠ v →
      ∃ t, exec (.cgrpClk a v) s = .next t ∧ t.reg R.hostCgrpClk = v ∧ t.fld R.hostSts F.hostSts_CLK_BUSY = 1
        ∧ s.changesOnly t [R.hostCgrpClk, R.hostSts])
  ∧ (∀ s : State, ∃ t, exec .cgrpClkDone s = .next t ∧ t.fld R.hostSts F.hostSts_CLK_BUSY = 0 ∧ s.changesOnly t [R.hostSts])
  ∧ (∀ (s : State) (a : Agent) (v : Word) (c : Nat), s.regReaches a .host 0 = true → fwAllowed a .host = true → c < 64 →
      ∃ t, exec (.coreRun a v) s = .next t ∧ t.reg R.hostCoreRun = v ∧ s.changesOnly t [R.hostCoreRun]
        ∧ (v.getLsbD c = true → (s.reg R.hostCoreRun).getLsbD c = false → s.coreAvail c = true →
            lookupKey t.host.starts c = some (s.fld R.hostCoreVec F.hostCoreVec_VEC * 4))
        ∧ (v.getLsbD c = false → lookupKey t.host.starts c = none ∧ t.sctxbind c = 0)
        ∧ (v.getLsbD c = true → t.sctxbind c = s.sctxbind c))
  ∧ (∀ (s : State) (c : Fin 64) (hm : HartMode) (v : Word), s.agentRuns (.server c) = true →
      ∃ t, exec (.sctxbindWrite c hm v) s = .next t ∧ s.changesOnly t []
        ∧ ((hm = .m ∨ hm = .hs) → t.sctxbind c = v &&& BitVec.ofNat 64 (2 ^ 63 + 0xFFF))
        ∧ (hm = .vs → lookupKey t.host.results (agentLoc (.server c)).toNat = some .virtualInstr)
        ∧ ((hm = .u ∨ hm = .vu) → lookupKey t.host.results (agentLoc (.server c)).toNat = some .illegal)
        ∧ (hm ≠ .m → hm ≠ .hs → t.sctxbind c = s.sctxbind c))
  ∧ (∀ (s : State) (c : Fin 64),
      (s.agentRuns (.server c) = true → s.hartCsr c .mhartid = some (BitVec.ofNat 64 c.val)
        ∧ (∃ w, s.hartCsr c .time = some w ∧ w.toNat = s.fld R.timeEpoch F.timeEpoch_WRAPS % 2 ^ 16 * 2 ^ 48 + nsOf s.now % 2 ^ 48)
        ∧ ∀ k : Word, s.sstcDue k = true ↔ k.toNat ≤ s.timeCsr.toNat)
      ∧ (s.coreAvail c = false → s.agentRuns (.server c) = false ∧ ∀ r, s.hartCsr c r = none))

/-- Memory that nothing hinders, every stack of it there and every block of the package in order. -/
def quietMemory (s : State) : Prop := Calm s ∧ (∀ x, s.stackGone x = false) ∧ ∀ loc, s.broken loc = false

/-- SERVER_CORE_ACCESS, KEEPER_WARDEN_ACCESS and INTERRUPT_MESSAGE: an access of a core carries SYS in M-mode and HS-mode and a
context elsewhere; a store writes exactly its bytes, a load or a fetch returns them, an atomic returns the old value and
writes the new one, an access without an identity is an access-fault exception; a due message goes where its route entry
directs.
Readings of the model's own that it uses: assumption log 56, 59, 60, 64, 65, 82 and 95. -/
def Obligations.CoreAccesses : Prop :=
  (∀ (s : State) (x : CoreAccess) (bs : List Byte), s.agentRuns (.server x.core) = true → (x.mode = .m ∨ x.mode = .hs) →
      x.op = .store bs → (x.cacheable = true → bs.length ≤ 128) → rangeOf x.pa.toNat = .hbm → quietMemory s →
      s.wardenImage x.pa.toNat bs.length = false →
      ∃ t, exec (.serverCoreAccess x) s = .next t ∧ s.onlyRegs t [] ∧ stored s t x.pa.toNat bs
        ∧ lookupKey t.host.results (agentLoc (.server x.core)).toNat = some .done)
  ∧ (∀ (s : State) (x : CoreAccess), s.agentRuns (.server x.core) = true → (x.mode = .m ∨ x.mode = .hs) →
      (x.op = .load ∨ x.op = .fetch) → rangeOf x.pa.toNat = .hbm → quietMemory s →
      ∃ t, exec (.serverCoreAccess x) s = .next t ∧ s.changesOnly t []
        ∧ lookupKey t.host.results (agentLoc (.server x.core)).toNat = some (.data (s.memBytes x.pa.toNat x.size)))
  ∧ (∀ (s : State) (x : CoreAccess) (o : AtomOp) (d c : BitVec 128), s.agentRuns (.server x.core) = true →
      (x.mode = .m ∨ x.mode = .hs) → x.op = .amo o d c → atomLegal o (x.pa.toNat % 128) x.size = true → rangeOf x.pa.toNat = .hbm →
      quietMemory s → s.wardenImage x.pa.toNat x.size = false →
      ∃ t, exec (.serverCoreAccess x) s = .next t
        ∧ lookupKey t.host.results (agentLoc (.server x.core)).toNat = some (.data (s.memBytes x.pa.toNat x.size))
        ∧ stored s t x.pa.toNat (natToBytes x.size (o.apply x.size (s.memNat x.pa.toNat x.size) d.toNat c.toNat))
        ∧ s.onlyRegs t [R.cohAtomCnt (stackOf x.pa.toNat / 4) (stackOf x.pa.toNat % 4)])
  ∧ (∀ (s : State) (x : CoreAccess) (ctx : Nat), s.agentRuns (.server x.core) = true → x.mode ≠ .m → x.mode ≠ .hs →
      (s.sctxbind x.core).getLsbD 63 = true → ctx = (s.sctxbind x.core).toNat % 4096 → x.op = .load → rangeOf x.pa.toNat = .hbm →
      x.size.val ≠ 0 → x.pa.toNat % 128 + x.size ≤ 128 → quietMemory s →
      (s.homeCheck ctx x.pa.toNat true (agentLoc (.server x.core))).1 = none →
      ∃ t, exec (.serverCoreAccess x) s = .next t ∧ s.changesOnly t []
        ∧ lookupKey t.host.results (agentLoc (.server x.core)).toNat = some (.data (s.memBytes x.pa.toNat x.size)))
  ∧ (∀ (s : State) (x : CoreAccess), s.agentRuns (.server x.core) = true → x.mode ≠ .m → x.mode ≠ .hs →
      (s.sctxbind x.core).getLsbD 63 = false →
      ∃ t, exec (.serverCoreAccess x) s = .next t ∧ s.changesOnly t []
        ∧ lookupKey t.host.results (agentLoc (.server x.core)).toNat = some x.op.faults)
  ∧ (∀ (s : State) (x : FwAccess) (bs : List Byte), s.agentRuns x.agent = true → x.op = .store bs → bs ≠ [] → 0x800000 ≤ x.pa.toNat →
      x.pa.toNat + bs.length ≤ 0x1000000 → Calm s →
      ∃ t, exec (.keeperWardenAccess x) s = .next t ∧ s.onlyRegs t [] ∧ stored s t x.pa.toNat bs
        ∧ lookupKey t.host.results (agentLoc x.agent).toNat = some .done)
  ∧ (∀ (s : State) (x : FwAccess), s.agentRuns x.agent = true → (x.op = .load ∨ x.op = .fetch) → rangeOf x.pa.toNat = .hbm →
      quietMemory s →
      ∃ t, exec (.keeperWardenAccess x) s = .next t ∧ s.changesOnly t []
        ∧ lookupKey t.host.results (agentLoc x.agent).toNat = some (.data (s.memBytes x.pa.toNat x.size)))
  ∧ (∀ (s : State) (x : FwAccess), s.agentRuns x.agent = true → rangeOf x.pa.toNat = .cluMem →
      ∃ t, exec (.keeperWardenAccess x) s = .next t ∧ s.changesOnly t []
        ∧ lookupKey t.host.results (agentLoc x.agent).toNat = some x.op.faults)
  ∧ (∀ (s : State) (p : Page) (i : Fin 1024), s.running = true → (p, i.val) ∈ s.host.irqDue →
      s.sysOk (s.routeEntryPa p i) 8 = true → s.memUE (s.routeEntryPa p i) 8 = false →
      ∃ t, exec (.interruptMessage p i) s = .next t
        ∧ (∀ c f d, s.routeTarget (s.memNat (s.routeEntryPa p i) 8) = some (.imsic c f d) →
            256 * (9 * c + f) + d ∈ t.host.imsic ∧ t.host.irqDue = s.host.irqDue.erase (p, i.val) ∧ s.changesOnly t [])
        ∧ (∀ r l, s.routeTarget (s.memNat (s.routeEntryPa p i) 8) = some (.warden r l) →
            (3, r, l) ∈ t.host.lines ∧ t.host.irqDue = s.host.irqDue.erase (p, i.val) ∧ s.changesOnly t [])
        ∧ (s.routeTarget (s.memNat (s.routeEntryPa p i) 8) = none → p ≠ .host →
            t.fld (R.irqSts .host 0) ⟨3, 3⟩ = 1 ∧ s.changesOnly t [R.irqSts .host 0]))

/-! ## PCIe ports (10) -/

/-- PCIE_LINK_UP, PCIE_RECOVERY, PCIE_LINK_DOWN and SBR: a link comes up within its limits and raises LINK_UP; Recovery loses
nothing; a link-down of any kind and a secondary bus reset leave the link down with nothing outstanding; a cleared Bus Master
Enable loses the requests and keeps the link.
Readings of the model's own that it uses: assumption log 62. -/
def Obligations.PcieLinkEvents : Prop :=
  (∀ (s : State) (q : Fin 4) (rate width : Fin 8) (flit : Bool), s.running = true → s.pcieAvail q = true → s.perstOut q = false →
      s.fld (R.pcieLinkSts q) F.pcieLinkSts_STATE < 2 → rate.val ≠ 0 → rate.val ≤ (s.pport q).limRate →
      width.val ≤ (s.pport q).limWidth → (rate.val = 6 → flit = true) →
      ∃ t, exec (.pcieLinkUp q rate width flit) s = .next t ∧ t.fld (R.pcieLinkSts q) F.pcieLinkSts_STATE = 2
        ∧ t.fld (R.pcieLinkSts q) F.pcieLinkSts_RATE = rate ∧ t.fld (R.pcieLinkSts q) F.pcieLinkSts_WIDTH = width
        ∧ t.fld (R.irqSts .pcie q) ⟨1, 1⟩ = 1 ∧ s.changesOnly t [R.pcieLinkSts q, R.irqSts .pcie q])
  ∧ (∀ (s : State) (q : Fin 4), s.linkUp q = true →
      ∃ t, exec (.pcieRecovery q) s = .next t ∧ t.pport q = s.pport q ∧ t.linkUp q = true ∧ t.fld (R.irqSts .pcie q) ⟨2, 2⟩ = 1
        ∧ s.changesOnly t [R.pcieLinkEvt q, R.irqSts .pcie q])
  ∧ (∀ (s : State) (q : Fin 4) (c : PcieDown), s.linkUp q = true → c ≠ .bmeClear → c ≠ .flr →
      ∃ t, exec (.pcieLinkDown q c) s = .next t ∧ t.fld (R.pcieLinkSts q) F.pcieLinkSts_STATE = 0
        ∧ (t.pport q).outW = [] ∧ (t.pport q).outR = [] ∧ t.fld (R.irqSts .pcie q) ⟨0, 0⟩ = 1 ∧ t.linkUp q = false)
  ∧ (∀ (s : State) (q : Fin 4), s.linkUp q = true → s.pcieEndpoint q = true →
      s.fld (R.pcieLinkSts q) F.pcieLinkSts_BME = 1 →
      ∃ t, exec (.pcieLinkDown q .bmeClear) s = .next t ∧ t.linkUp q = true ∧ t.outOpen q = false
        ∧ (t.pport q).outW = [] ∧ (t.pport q).outR = [])
  ∧ (∀ (s : State) (q : Fin 4), s.linkUp q = true → s.pcieEndpoint q = true →
      ∃ t, exec (.pcieLinkDown q .flr) s = .next t ∧ t.linkUp q = false ∧ (t.pport q).cfg = [] ∧ (t.pport q).msix = []
        ∧ (t.pport q).outW = [] ∧ (t.pport q).outR = [])
  ∧ (∀ (s : State) (a : Agent) (q : Fin 4), s.pageDead .pcie q = false → s.pcieEndpoint q = false → s.linkUp q = true →
      ∃ t, exec (.sbr a q) s = .next t ∧ t.linkUp q = false ∧ (t.pport q).outW = [] ∧ (t.pport q).outR = []
        ∧ t.fld (R.irqSts .pcie q) ⟨0, 0⟩ = 1)

/-- What an outbound read's data does for its owner. -/
def readServed (s t : State) (q : Nat) (r : OutRead) (d : List Byte) : Prop :=
  match r.owner with
  | .core c => lookupKey t.host.results c = some (.data d) ∧ s.changesOnly t []
  | .slot k => lookupKey (t.slot k).fetched (q * 2 ^ 64 + r.addr) = some d ∧ s.changesOnly t []
  | .warden w => lookupKey t.host.wread ((w * 4 + q) * 2 ^ 64 + r.addr) = some d ∧ s.changesOnly t []
  | .cmd u lq seq => s.changesOnly t []
      ∧ (r.len ≠ 0 → ∀ e ∈ s.xl.chans, e.2.u = u → e.2.q = lq → e.2.seq = seq → s.regBit (R.dmaSts (e.1 / 16)) (16 + e.1 % 16) = false →
          (e.1, { e.2 with data := some (e.2.data.getD [] ++ d) }) ∈ t.xl.chans)
      ∧ (r.len = 0 → q ∉ Sparse.get [] t.sch.outPorts (queueId u lq))
  | .msi => s.changesOnly t []
  | .fetch u lq => s.canFetch u lq = true → lookupKey s.sch.heads (queueId u lq) = none → s.sch.fbFetch.contains (queueId u lq) = false →
      s.headerCheck u lq (entryOf d) = none → s.fld (R.inj .unit u) F.inj_ARM = 0 → u < 1024 → lq < 128 →
      t.qState u lq = 2 ∧ ∃ h, lookupKey t.sch.heads (queueId u lq) = some h ∧ h.entry = entryOf d

/-- PCIE_WRITE_ACK, PCIE_READ_COMPLETION and PCIE_CPL_TIMEOUT: the oldest write is acknowledged; the oldest read gives its data
to its owner, or, when it has waited beyond CPL_TIMEOUT, all ones to a core and HOST_LOST to a command. HL_RELEASE: a queue in
STATE 5 is ready again.
Readings of the model's own that it uses: assumption log 56 and 62. -/
def Obligations.OutboundEnds : Prop :=
  (∀ (s : State) (q : Fin 4) (w : OutWrite) (ws : List OutWrite), s.linkUp q = true → (s.pport q).outW = w :: ws →
      ∃ t, exec (.pcieWriteAck q) s = .next t ∧ t.pport q = { s.pport q with outW := ws } ∧ s.changesOnly t [])
  ∧ (∀ (s : State) (q : Fin 4) (r : OutRead) (rs : List OutRead) (d : List Byte), s.linkUp q = true →
      (s.pport q).outR = r :: rs → d.length = r.len →
      ∃ t, exec (.pcieReadCompletion q d) s = .next t ∧ t.pport q = { s.pport q with outR := rs } ∧ readServed s t q r d)
  ∧ (∀ (s : State) (q : Fin 4) (r : OutRead) (rs : List OutRead), (s.pport q).outR = r :: rs →
      s.fld (R.pcieCplTimeout q) F.pcieCplTimeout_US * 1000 < s.elapsedNs r.since →
      ∃ t, exec (.pcieCplTimeout q) s = .next t
        ∧ (∀ c, r.owner = .core c → t.pport q = { s.pport q with outR := rs }
            ∧ lookupKey t.host.results c = some (.data (List.replicate 8 0xFF)) ∧ s.changesOnly t [])
        ∧ (∀ u lq seq f, r.owner = .cmd u lq seq → s.flight u lq (fun f => f.seq == seq) = some f →
            t.fld (R.unitQPtr u lq) F.unitQPtr_LAST_STATUS = 0x2A)
        ∧ (∀ k o, r.owner = .slot k → (s.slot k).op = some o → (t.slot k).op = some { o with lost := true }))
  ∧ (∀ (s : State) (a : Agent) (u : Fin 1024) (q : Fin 128), s.pageDead .host 0 = false → s.qState u q = 5 →
      ∃ t, exec (.hlRelease a (BitVec.ofNat 17 (queueId u q))) s = .next t
        ∧ t.qState u q = (if s.qCount u q = 0 then 0 else 1) ∧ lookupKey t.sch.heads (queueId u q) = none
        ∧ s.changesOnly t [R.unitQPtr u q, R.unitQCfg u q])

/-- An inbound request finds no other waiting, hits no BAR0, is bound to a context that lives, and lies at a device address. -/
def inboundBound (s : State) (r : PcieReq) (va ctx : Nat) : Prop :=
  s.linkUp r.port = true ∧ (s.pport r.port).parked = [] ∧ s.bar0Hit r.port r.addr.toNat r.op.len = none
    ∧ s.inboundVa r.port r.addr.toNat r.op.len = some va ∧ s.fld (R.pcieCtl r.port) F.pcieCtl_DT_EN = 1
    ∧ (∃ park, s.dtEntry r.port r.bdf.toNat = some (park, ctx)) ∧ s.ctxAlive ctx = true

/-- PCIE_INBOUND_REQUEST and PCIE_PARK_TIMEOUT: a request of a requester that no device table entry binds is completed as
Unsupported Request and performs nothing; a bound write to translated package memory writes exactly its bytes, a bound read
is completed with them; a request behind a parked one waits; a parked request beyond PARK_LIMIT ends and its context faults.
Readings of the model's own that it uses: assumption log 56 and 63. -/
def Obligations.InboundRequests : Prop :=
  (∀ (s : State) (r : PcieReq), s.linkUp r.port = true → (s.pport r.port).parked = [] → s.bar0Hit r.port r.addr.toNat r.op.len = none →
      s.dtEntry r.port r.bdf.toNat = none →
      ∃ t, exec (.pcieInboundRequest r) s = .next t
        ∧ (t.pport r.port).sent = (s.pport r.port).sent ++ (if r.op.posted then [] else [(1, [])])
        ∧ (t.pport r.port).parked = [] ∧ t.fld (R.irqSts .pcie r.port) ⟨3, 3⟩ = 1
        ∧ s.changesOnly t [R.pcieInReject r.port, R.irqSts .pcie r.port])
  ∧ (∀ (s : State) (r : PcieReq) (bs : List Byte) (va ctx pa : Nat), inboundBound s r va ctx → r.op = .write bs → bs ≠ [] →
      Reaches s (portTlb r.port) ctx va bs.length .write pa →
      ∃ t, exec (.pcieInboundRequest r) s = .next t ∧ stored s t pa bs ∧ (t.pport r.port).sent = (s.pport r.port).sent
        ∧ (t.pport r.port).parked = [] ∧ s.onlyRegs t [])
  ∧ (∀ (s : State) (r : PcieReq) (n : Fin 4097) (va ctx pa : Nat), inboundBound s r va ctx → r.op = .read n → n.val ≠ 0 →
      Reaches s (portTlb r.port) ctx va n .read pa →
      ∃ t, exec (.pcieInboundRequest r) s = .next t ∧ (t.pport r.port).sent = (s.pport r.port).sent ++ [(0, s.memBytes pa n)]
        ∧ (t.pport r.port).parked = [] ∧ s.changesOnly t [])
  ∧ (∀ (s : State) (r : PcieReq) (k : InPark) (rest : List InPark), s.linkUp r.port = true → (s.pport r.port).parked = k :: rest →
      k.parked = true →
      ∃ t, exec (.pcieInboundRequest r) s = .next t
        ∧ t.pport r.port = { s.pport r.port with parked := k :: rest ++ [⟨r, 0, 0, [], false, s.now⟩] } ∧ s.changesOnly t [])
  ∧ (∀ (s : State) (q : Fin 4) (k : InPark) (i : Nat), (s.pport q).parked[i]? = some k → k.parked = true →
      s.fld (R.pcieParkLimit q) F.pcieParkLimit_US * 1000 < s.elapsedNs k.since →
      exec (.pcieParkTimeout q i) s = .next ((s.endParked q k).raise .pcie q 4))
  ∧ (∀ (s : State) (q : Fin 4) (k : InPark), (s.pport q).parked = [k] → k.parked = true →
      s.fld (R.pcieParkLimit q) F.pcieParkLimit_US * 1000 < s.elapsedNs k.since → s.ctxAlive k.ctx = true →
      ∃ t, exec (.pcieParkTimeout q 0) s = .next t ∧ (t.pport q).parked = [] ∧ (t.ctxSt k.ctx).state = 5
        ∧ (t.ctxSt k.ctx).cause = Status.translation.code ∧ t.fld (R.irqSts .pcie q) ⟨4, 4⟩ = 1)

/-- PCIE_CONFIG_REQUEST, ECAM_ACCESS and MBOX_WRITE: an outside host reads the function's space, the identity in it, and writes
it, Bus Master Enable among it; a Root Port shows its own space at bus 0 and takes writes there, a function's answer is read
through, and one that does not answer reads as all ones; a mailbox register
takes the host's word and raises MBOX.
Readings of the model's own that it uses: assumption log 61 and 65. -/
def Obligations.ConfigurationSpace : Prop :=
  (∀ (s : State) (q : Fin 4) (o : BitVec 12), s.linkUp q = true → s.pcieEndpoint q = true →
      ∃ t, exec (.pcieConfigRequest q ⟨o, none⟩) s = .next t ∧ s.changesOnly t []
        ∧ (t.pport q).sent = (s.pport q).sent ++ [(0, natToBytes 4 (s.epConfig q (o.toNat / 4 * 4)))])
  ∧ (∀ (s : State) (q : Fin 4) (o : BitVec 12) (v : BitVec 32), s.linkUp q = true → s.pcieEndpoint q = true → o.toNat / 4 ≠ 1 →
      ∃ t, exec (.pcieConfigRequest q ⟨o, some v⟩) s = .next t ∧ (t.pport q).cfgWord (o.toNat / 4 * 4) = v.toNat
        ∧ (0, []) ∈ (t.pport q).sent)
  ∧ (∀ (s : State) (q : Fin 4), s.linkUp q = true → s.pcieEndpoint q = true →
      ∃ t, exec (.pcieConfigRequest q ⟨0, none⟩) s = .next t ∧ s.changesOnly t []
        ∧ (t.pport q).sent = (s.pport q).sent
            ++ [(0, natToBytes 4 ((s.storeRead 0x24).toNat % 65536 + (0x100 + s.fld R.pkgCap F.pkgCap_PART_CODE) * 65536))])
  ∧ (∀ (s : State) (q : Fin 4), s.linkUp q = true → s.pcieEndpoint q = true → (s.pport q).pba = 0 →
      ∃ t, exec (.pcieConfigRequest q ⟨4, some 6⟩) s = .next t ∧ t.outOpen q = true
        ∧ t.fld (R.pcieLinkSts q) F.pcieLinkSts_BME = 1 ∧ s.changesOnly t [R.pcieLinkSts q])
  ∧ (∀ (s : State) (a : Agent) (q : Fin 4), s.running = true → s.pcieEndpoint q = false →
      ∃ t, exec (.ecamAccess ⟨a, q, 0, 4, none, []⟩) s = .next t ∧ s.changesOnly t []
        ∧ lookupKey t.host.results (agentLoc a).toNat
            = some (.data (natToBytes 4 ((s.storeRead 0x24).toNat % 65536 + (0x110 + q) * 65536))))
  ∧ (∀ (s : State) (a : Agent) (q : Fin 4) (o : BitVec 28) (v : Word), s.running = true → s.pcieEndpoint q = false → o.toNat % 4 = 0 →
      o.toNat < 4096 →
      ∃ t, exec (.ecamAccess ⟨a, q, o, 4, some v, []⟩) s = .next t ∧ s.changesOnly t []
        ∧ (t.pport q).cfgWord o.toNat = v.toNat % 2 ^ 32 ∧ lookupKey t.host.results (agentLoc a).toNat = some .done)
  ∧ (∀ (s : State) (a : Agent) (q : Fin 4) (o : BitVec 28) (x y : BitVec 32), s.linkUp q = true → s.pcieEndpoint q = false →
      o.toNat % 8 = 0 → 4096 ≤ o.toNat →
      ∃ t, exec (.ecamAccess ⟨a, q, o, 8, none, [x, y]⟩) s = .next t ∧ s.changesOnly t []
        ∧ lookupKey t.host.results (agentLoc a).toNat = some (.data (natToBytes 4 x.toNat ++ natToBytes 4 y.toNat)))
  ∧ (∀ (s : State) (a : Agent) (q : Fin 4) (o : BitVec 28), s.running = true → o.toNat % 4 = 0 → 4096 ≤ o.toNat →
      ∃ t, exec (.ecamAccess ⟨a, q, o, 4, none, []⟩) s = .next t ∧ s.changesOnly t []
        ∧ lookupKey t.host.results (agentLoc a).toNat = some (.data (List.replicate 4 0xFF)))
  ∧ (∀ (s : State) (q : Fin 4) (k : Fin 32) (v : Word), s.linkUp q = true → s.pcieEndpoint q = true → s.pageDead .host 0 = false →
      ∃ t, exec (.mboxWrite q k v) s = .next t ∧ t.reg (R.hostMbox k) = v ∧ t.fld (R.irqSts .host 0) ⟨1, 1⟩ = 1
        ∧ s.changesOnly t [R.hostMbox k, R.irqSts .host 0])


/-! ## Optical ports and the Zenwald link (11) -/

/-- Every field of a frame is within its width of R439 to R442. -/
def frameInRange : Frame → Prop
  | .msg m => m.destPkg < 4096 ∧ m.destQ < 131072 ∧ m.srcPkg < 4096 ∧ m.srcUnit < 1024 ∧ m.srcLine < 32 ∧ m.hops < 64
      ∧ m.opcode < 256 ∧ m.seq < 2 ^ 20 ∧ m.ctx < 4096 ∧ m.srcLq < 128
  | .credit c => c.destPkg < 4096 ∧ c.unit < 1024 ∧ c.line < 32 ∧ c.srcPkg < 4096 ∧ c.hops < 64 ∧ c.count < 2 ^ 17
      ∧ c.status < 256 ∧ c.lq < 128
  | .hello h => h.fabric < 65536 ∧ h.pkg < 4096 ∧ h.port < 8 ∧ h.size < 8192 ∧ h.licMax < 8192 ∧ h.candPkg < 4096
      ∧ h.candHops < 64 ∧ h.reason < 16
  | .cadReq x => x < 65536
  | .cadRsp x _ _ _ => x < 65536

/-- The words of a frame spell that frame: no field of R439 to R442 is dropped or overlaps another.
Readings of the model's own that it uses: assumption log 68. -/
def Obligations.FrameWordsRoundTrip : Prop := ∀ f : Frame, frameInRange f → frameOfWords f.kind f.words = some f

/-- TRAINING_DONE and OPT_EN: a training whose active wavelengths suffice ends in LINKED, full or degraded, and the port asks for
the cadence; one that receives no light keeps training with NO_LIGHT. Enabling a port that is OFF starts training; disabling
it brings it DOWN.
Readings of the model's own that it uses: assumption log 67 and 69. -/
def Obligations.PortTraining : Prop :=
  (∀ (s : State) (p : Fin 8) (lt lr : BitVec 16) (cs : List (BitVec 16)) (m : Word) (tx rx : Nat), s.optLive p = true →
      s.optState p = 1 → cs.length = 32 → (∀ e ∈ cs.zipIdx, s.codeAllowed p e.2 e.1.toNat = true) →
      activeLanes lt (s.bit (R.optCtl p) F.optCtl_DEGRADE_OK) = some tx →
      activeLanes (marginLanes lr m) (s.bit (R.optCtl p) F.optCtl_DEGRADE_OK) = some rx →
      ∃ t, exec (.trainingDone p lt lr cs m) s = .next t ∧ t.optState p = 2 ∧ t.fld (R.optSts p) F.optSts_REASON = 0
        ∧ t.reg (R.optLambda p) = BitVec.ofNat 64 (tx + rx * 65536)
        ∧ (t.fld (R.optSts p) F.optSts_DEGRADED = 1 ↔ tx ≠ 0xFFFF ∨ rx ≠ 0xFFFF)
        ∧ (∃ n, Frame.cadReq n ∈ (t.port p).ready) ∧ t.fld (R.irqSts .opt p) ⟨0, 0⟩ = 1
        ∧ s.changesOnly t ([R.optSts p, R.optLambda p, R.optMargin p, R.irqSts .opt p] ++ (List.range 8).map (R.optHcal p)))
  ∧ (∀ (s : State) (p : Fin 8) (lt : BitVec 16) (cs : List (BitVec 16)) (m : Word), s.optLive p = true →
      s.optState p = 1 → cs.length = 32 → (∀ e ∈ cs.zipIdx, s.codeAllowed p e.2 e.1.toNat = true) →
      ∃ t, exec (.trainingDone p lt 0 cs m) s = .next t ∧ t.optState p = 1 ∧ t.fld (R.optSts p) F.optSts_REASON = 1
        ∧ s.changesOnly t [R.optSts p])
  ∧ (∀ (s : State) (a : Agent) (p : Fin 8), s.pageDead .opt p = false → fwAllowed a .opt = true → s.optState p = 0 →
      ∃ t, exec (.optEn a p true) s = .next t ∧ t.fld (R.optCtl p) F.optCtl_EN = 1 ∧ t.optState p = 1
        ∧ (t.port p).ready = [] ∧ (t.port p).unacked = [] ∧ (t.port p).txSeq = 0 ∧ (t.port p).rxSeq = 0
        ∧ s.changesOnly t [R.optCtl p, R.optSts p, R.optLambda p, R.optMargin p, R.optPeer p])
  ∧ (∀ (s : State) (a : Agent) (p : Fin 8), s.pageDead .opt p = false → fwAllowed a .opt = true → s.optState p ≠ 0 →
      s.optState p ≠ 6 →
      ∃ t, exec (.optEn a p false) s = .next t ∧ t.optState p = 6 ∧ (t.port p).unacked = []
        ∧ t.fld (R.irqSts .opt p) ⟨1, 1⟩ = 1 ∧ s.memKept t)

/-- HEATER_ADJUST, LOCK_LOSS, RETRAIN, LINK_RECOVERED and RECOVERY_TIMEOUT: a ring that needs a code above HEATER_MAX, a lost
lock and a requested retraining put a port into RECOVERY; back within 1 ms it sends its unacknowledged frames again, in
DATA where R456 lets it; after 1 ms it goes DOWN and trains again while enabled.
Readings of the model's own that it uses: assumption log 67 and 69. -/
def Obligations.PortRecovery : Prop :=
  (∀ (s : State) (p : Fin 8) (cs : List (BitVec 16)), s.optLive p = true → s.optState p ≠ 0 → cs.length = 32 →
      (∀ c ∈ cs, c.toNat ≤ s.fld (R.optSafe p) F.optSafe_HEATER_MAX) →
      ∃ t, exec (.heaterAdjust p cs) s = .next t ∧ (t.port p).heaters = cs.map (·.toNat) ∧ s.changesOnly t [])
  ∧ (∀ (s : State) (p : Fin 8) (cs : List (BitVec 16)) (c : BitVec 16), s.optLive p = true → s.optUp p = true → cs.length = 32 →
      c ∈ cs → s.fld (R.optSafe p) F.optSafe_HEATER_MAX < c.toNat →
      ∃ t, exec (.heaterAdjust p cs) s = .next t ∧ t.optState p = 4 ∧ t.fld (R.irqSts .opt p) ⟨2, 2⟩ = 1
        ∧ (∀ h ∈ (t.port p).heaters, h ≤ s.fld (R.optSafe p) F.optSafe_HEATER_MAX)
        ∧ s.changesOnly t [R.optSts p, R.irqSts .opt p])
  ∧ (∀ (s : State) (p : Fin 8) (ring : Fin 32), s.optLive p = true → s.optUp p = true →
      ∃ t, exec (.lockLoss p ring) s = .next t ∧ t.optState p = 4 ∧ (t.port p).since = s.now
        ∧ t.fld (R.irqSts .opt p) ⟨2, 2⟩ = 1 ∧ s.changesOnly t [R.optSts p, R.irqSts .opt p])
  ∧ (∀ (s : State) (a : Agent) (p : Fin 8), s.pageDead .opt p = false → s.optState p = 3 →
      ∃ t, exec (.retrain a p) s = .next t ∧ t.optState p = 4 ∧ (t.port p).since = s.now
        ∧ t.fld (R.irqSts .opt p) ⟨2, 2⟩ = 1 ∧ s.changesOnly t [R.optSts p, R.irqSts .opt p])
  ∧ (∀ (s : State) (p : Fin 8) (ack : Option (BitVec 14)) (x : OptPort), s.optLive p = true → s.optState p = 4 →
      s.elapsedNs (s.port p).since ≤ 1000000 → x = ((ack.map (fun a => (s.port p).acked a.toNat)).getD (s.port p)) →
      ∃ t, exec (.linkRecovered p ack) s = .next t ∧ (t.port p).unacked = x.unacked
        ∧ (x.unacked ≠ [] → (t.port p).wire.length = x.unacked.length)
        ∧ (s.peerHello p = none → t.optState p = 2)
        ∧ (∀ h, s.peerHello p = some h → h.ready = true → s.sendsReady p = true → t.optState p = 3)
        ∧ s.changesOnly t [R.optSts p, R.optLinkCnt p, R.irqSts .opt p])
  ∧ (∀ (s : State) (p : Fin 8), s.optLive p = true → s.optState p = 4 → 1000000 < s.elapsedNs (s.port p).since →
      ∃ t, exec (.recoveryTimeout p) s = .next t ∧ t.optState p = (if s.fld (R.optCtl p) F.optCtl_EN = 1 then 1 else 6)
        ∧ (t.port p).unacked = [] ∧ t.fld (R.irqSts .opt p) ⟨1, 1⟩ = 1 ∧ s.memKept t)

/-- FRAME_SEND, ACK_TIMER, HELLO_TIMER, CAD_REQ_TIMER and CANDIDATE_EXPIRY: a ready frame takes the next FSEQ and a buffer
credit and is kept for replay; what is due leaves in an IDLE frame; a HELLO and a cadence request become ready; the election
names the best candidate as source.
Readings of the model's own that it uses: assumption log 68 and 69. -/
def Obligations.FramesLeave : Prop :=
  (∀ (s : State) (p : Fin 8) (vc : Fin 3) (who : Option CtxId) (f : Frame), s.optLive p = true → s.maySend p vc = true →
      s.higherReady p vc = false → (s.port p).ready.find? (fun f => s.frameOf vc who f) = some f →
      ∃ t, exec (.frameSend p vc who) s = .next t
        ∧ (t.port p).unacked = (s.port p).unacked ++ [((s.port p).txSeq, s.departing p f)]
        ∧ (t.port p).txSeq = ((s.port p).txSeq + 1) % 16384
        ∧ (t.port p).ready = (s.port p).ready.eraseP (fun f => s.frameOf vc who f)
        ∧ (∃ w, (t.port p).wire = [w :: (s.departing p f).words] ∧ wbits w 3 0 = f.kind)
        ∧ s.changesOnly t [R.optFrameCnt p])
  ∧ (∀ (s : State) (p : Fin 8), s.optLive p = true → s.optUp p = true → (s.port p).nakDue = true →
      ∃ (t : State) (w : Word), exec (.ackTimer p) s = .next t ∧ (t.port p).wire = [[w]] ∧ wbits w 3 0 = 0 ∧ wbits w 35 35 = 1
        ∧ (t.port p).nakDue = false ∧ (t.port p).txSeq = (s.port p).txSeq ∧ s.changesOnly t [])
  ∧ (∀ (s : State) (p : Fin 8), s.optLive p = true → s.optUp p = true →
      ∃ t, exec (.helloTimer p) s = .next t ∧ Frame.hello (s.helloFrame p) ∈ (t.port p).ready ∧ s.changesOnly t [])
  ∧ (∀ (s : State) (p : Nat), s.upstream = some p → s.optLive p = true → s.optUp p = true →
      ∃ t, exec .cadReqTimer s = .next t ∧ Frame.cadReq (((s.port p).xchg + 1) % 65536) ∈ (t.port p).ready ∧ s.changesOnly t [])
  ∧ (∀ (s : State) (p : Fin 8), s.running = true → 1000000 < s.elapsedNs (s.port p).heard →
      ∃ t, exec (.candidateExpiry p) s = .next t
        ∧ (s.bestCandidate = none → t.fld R.timeSts F.timeSts_IS_SOURCE = 0)
        ∧ (∀ pkg hops up, s.bestCandidate = some (pkg, hops, up) → t.fld R.timeSts F.timeSts_SOURCE_PKG = pkg % 4096
            ∧ (t.fld R.timeSts F.timeSts_IS_SOURCE = 1 ↔ up = none)
            ∧ ∀ k < 8, (t.fld (R.optSts k) F.optSts_UPSTREAM = 1 ↔ up = some k))
        ∧ s.changesOnly t ([R.timeSts, R.timeAlignOfs, R.irqSts .time 0] ++ (List.range 8).map R.optSts))

/-- A frame of the six received rows, by its row. -/
def frameCmd (row : Fin 6) (p : Fin 8) (f : FrameIn) : Instr :=
  match row.val with
  | 0 => .idle p f
  | 1 => .msg p f
  | 2 => .credit p f
  | 3 => .hello p f
  | 4 => .cadReq p f
  | _ => .cadRsp p f

/-- A frame arrives undamaged, in sequence, and its link word asks for no replay. -/
def inOrder (s : State) (p : Fin 8) (f : FrameIn) (w : Word) (vc : Nat) (g : Frame) : Prop :=
  s.optLive p = true ∧ s.optUp p = true ∧ f.arrival = .frame w vc (some g) ∧ f.count correctable = 0
    ∧ wbits w 19 6 = (s.port p).rxSeq ∧ wbits w 35 35 = 0

/-- IDLE, MSG, CREDIT, HELLO, CAD_REQ and CAD_RSP as they arrive: a damaged frame asks for one replay and changes nothing else;
an IDLE returns credits; a MSG and a CREDIT for another package are forwarded with one more hop, a CREDIT for this one is
added to its line; a HELLO is kept and a package with this one's ID is HELD; a CAD_REQ is answered and a CAD_RSP completes the
exchange.
Readings of the model's own that it uses: assumption log 68. -/
def Obligations.FramesArrive : Prop :=
  (∀ (s : State) (p : Fin 8) (row : Fin 6) (f : FrameIn), s.optLive p = true → s.optUp p = true → f.arrival = .damaged →
      ∃ t, exec (frameCmd row p f) s = .next t ∧ (t.port p).nakSent = true ∧ (t.port p).rxSeq = (s.port p).rxSeq
        ∧ ((s.port p).nakSent = false → (t.port p).nakDue = true) ∧ s.changesOnly t [R.optLinkCnt p])
  ∧ (∀ (s : State) (p : Fin 8) (f : FrameIn) (w : Word) (v : Nat), s.optLive p = true → s.optUp p = true →
      f.arrival = .idle w → f.count correctable = 0 → wbits w 34 34 = 0 → wbits w 35 35 = 0 → wbits w 37 36 = v → v < 3 →
      (s.port p).credits.length = 3 →
      ∃ t, exec (.idle p f) s = .next t ∧ (t.port p).credits.getD v 0 = (s.port p).credits.getD v 0 + wbits w 49 38
        ∧ (t.port p).rxSeq = (s.port p).rxSeq ∧ s.changesOnly t [])
  ∧ (∀ (s : State) (p : Fin 8) (f : FrameIn) (w : Word) (m : MsgFrame) (out : Nat), inOrder s p f w 0 (.msg m) →
      m.destPkg ≠ s.pkgId → s.route m.destPkg = some out → s.portOpen out = true → m.hops ≠ 63 →
      ∃ t, exec (.msg p f) s = .next t ∧ Frame.msg { m with hops := m.hops + 1 } ∈ (t.port out).ready
        ∧ (t.port p).rxSeq = ((s.port p).rxSeq + 1) % 16384 ∧ s.changesOnly t [R.optFrameCnt p])
  ∧ (∀ (s : State) (p : Fin 8) (f : FrameIn) (w : Word) (c : CreditFrame) (out : Nat), inOrder s p f w 1 (.credit c) →
      c.destPkg ≠ s.pkgId → s.route c.destPkg = some out → s.portOpen out = true → c.hops ≠ 63 →
      ∃ t, exec (.credit p f) s = .next t ∧ Frame.credit { c with hops := c.hops + 1 } ∈ (t.port out).ready
        ∧ (t.port p).rxSeq = ((s.port p).rxSeq + 1) % 16384 ∧ s.changesOnly t [])
  ∧ (∀ (s : State) (p : Fin 8) (f : FrameIn) (w : Word) (c : CreditFrame), inOrder s p f w 1 (.credit c) →
      c.destPkg = s.pkgId → c.status = 0 → s.pathHeld (p / 2) (unitDie c.unit) true = false → s.unitInReset c.unit = false →
      s.crlValid c.unit c.line = true →
      ∃ t, exec (.credit p f) s = .next t
        ∧ t.fld (R.unitCrl c.unit c.line) F.unitCrl_CREDITS = min (s.fld (R.unitCrl c.unit c.line) F.unitCrl_CREDITS + c.count) 65536
        ∧ s.changesOnly t [R.unitCrl c.unit c.line, R.irqSts .unit c.unit])
  ∧ (∀ (s : State) (p : Fin 8) (f : FrameIn) (w : Word) (h : Hello), inOrder s p f w 2 (.hello h) →
      ∃ t, exec (.hello p f) s = .next t ∧ (t.port p).peer = some h ∧ (t.port p).heard = s.now
        ∧ t.reg (R.optPeer p) = BitVec.ofNat 64 (h.pkg + h.port * 2 ^ 12 + 2 ^ 15) ∧ s.memKept t
        ∧ (s.optState p = 2 → h.fabric = s.fld (R.optFabCfg 0) F.optFabCfg_FABRIC_ID → h.pkg = s.pkgId → h.pkg < 4096 → h.port < 8 →
            t.optState p = 5 ∧ t.fld (R.optSts p) F.optSts_REASON = 4 ∧ t.fld (R.irqSts .opt p) ⟨4, 4⟩ = 1))
  ∧ (∀ (s : State) (p : Fin 8) (f : FrameIn) (w : Word) (n : Nat), inOrder s p f w 2 (.cadReq n) →
      ∃ t, exec (.cadReq p f) s = .next t ∧ Frame.cadRsp n s.upOfs (stamp (s.nowAt (p / 2))) 0 ∈ (t.port p).ready ∧ s.changesOnly t [])
  ∧ (∀ (s : State) (p : Fin 8) (f : FrameIn) (w t1 : Word) (up : BitVec 32) (t2 t3 : Word),
      inOrder s p f w 2 (.cadRsp (s.port p).xchg up t2 t3) → (s.port p).t1 = some t1 →
      ∃ t, exec (.cadRsp p f) s = .next t ∧ (t.port p).exchanged = true ∧ (t.port p).t1 = none
        ∧ (t.port p).rtt = (cadenceDiff (stamp (s.nowAt (p / 2))) t1 - cadenceDiff t3 t2).toNat ∧ s.memKept t)


/-! ## Gradient reduction: ring slots (12) -/

/-- The package number of a slot of a die. -/
def slotNo (d : Fin 4) (n : Fin 8) : Nat := 8 * d.val + n.val

/-- An armed slot works, and the entry at the head of its control queue is an anchor token; `s2` is the state once it is read. -/
def anchorAt (s s2 : State) (k : Nat) (a : AnchorIn) : Prop :=
  s.slotActs k = true ∧ s.qCount (s.hopUnit k) (s.ctrlLq k) ≠ 0 ∧ (s.slot k).verdict = 0
    ∧ ∃ (e : BitVec 512) (s1 : State), s.slotEntry k (s.ctrlLq k) 0 = (.ok e, s1) ∧ anchorIn e = some a
        ∧ s2 = s1.setSlotSt k { s1.slot k with fetched := [] }

/-- SLOT_ARM, SLOT_DISARM, STEP_START, READY_POLL, WINDOW_OPEN and WINDOW_CLOSE: arming succeeds into WAIT_STEP or names the
condition it breaks (R465); disarming takes effect in WAIT_STEP (R469); a step begins at the first transfer of its table with the
KEY of its token (R488); a matching ready word makes the transfer ready (R481); a window opens its phase; one that closes
early counts LATE, and at the leader decides REPEAT (R490).
Readings of the model's own that it uses: assumption log 70 and 73. -/
def Obligations.SlotsArmedAndStarted : Prop :=
  (∀ (s s1 : State) (a : Agent) (d : Fin 4) (n : Fin 8) (cfg : Word), s.pageDead .die d = false → s.slotArmed (slotNo d n) = false →
      s1 = s.setReg (R.dieSlotCfg d n) (BitVec.ofNat 64 (cfg.toNat % 2 ^ 47)) →
      ∃ t, exec (.slotArm a d n cfg) s = .next t
        ∧ (s1.armRefused (slotNo d n) = 0 → t.slotArmed (slotNo d n) = true ∧ t.slotState (slotNo d n) = 1
            ∧ t.fld (R.dieSlotSts d n) F.dieSlotSts_ERR = 0 ∧ (t.slot (slotNo d n)).out = [] ∧ (t.slot (slotNo d n)).xfer = none
            ∧ s.changesOnly t [R.dieSlotCfg d n, R.dieSlotSts d n])
        ∧ (s1.armRefused (slotNo d n) ≠ 0 → t.slotArmed (slotNo d n) = false
            ∧ t.fld (R.dieSlotSts d n) F.dieSlotSts_ERR = s1.armRefused (slotNo d n) ∧ t.fld (R.irqSts .die d) ⟨1, 1⟩ = 1
            ∧ s.changesOnly t [R.dieSlotCfg d n, R.dieSlotSts d n, R.irqSts .die d]))
  ∧ (∀ (s : State) (a : Agent) (d : Fin 4) (n : Fin 8), s.pageDead .die d = false → s.slotArmed (slotNo d n) = true →
      ∃ t, exec (.slotDisarm a d n) s = .next t
        ∧ (s.slotState (slotNo d n) = 1 → t.slotArmed (slotNo d n) = false ∧ t.slotState (slotNo d n) = 0
            ∧ (t.slot (slotNo d n)).snap = none)
        ∧ (s.slotState (slotNo d n) ≠ 1 → t.slotArmed (slotNo d n) = true ∧ (t.slot (slotNo d n)).disarm = true
            ∧ s.changesOnly t []))
  ∧ (∀ (s s2 s3 s4 s5 : State) (d : Fin 4) (n : Fin 8) (k : Nat) (a : AnchorIn) (count : Nat) (e : BitVec 512), k = slotNo d n →
      anchorAt s s2 k a → a.action = 1 → s.slotState k = 1 → s3 = (s2.startStep k a.key).slotFree k (s.ctrlLq k) →
      s3.stepCount k = (.ok count, s4) → 0 < count → s4.stepEntry k 0 = (.ok e, s5) → Step.ag e = false →
      s5.stepCheck k e false = none → Step.elems e ≠ 0 → s5.stepBufCheck (s5.slotCtx k) e = none →
      ∃ (t : State) (f : Xfer), exec (.stepStart d n) s = .next t ∧ t.slotState k = 2 ∧ t.ringKey k = a.key ∧ t.slotCur k = 0
        ∧ (t.slot k).xfer = some f ∧ f.entry = e ∧ f.ready = false ∧ s5.changesOnly t [R.dieSlotSts d n])
  ∧ (∀ (s s2 : State) (d : Fin 4) (n : Fin 8) (k : Nat) (f : Xfer) (bs : List Byte), k = slotNo d n → s.slotActs k = true →
      (s.slot k).xfer = some f → f.ready = false → s.slotRead k (Step.readyVa f.entry) 8 = (.ok bs, s2) →
      ∃ t, exec (.readyPoll d n) s = .next t ∧ s2.changesOnly t []
        ∧ (bytesToNat bs = s.ringKey k → (t.slot k).xfer = some { f with ready := true })
        ∧ (bytesToNat bs ≠ s.ringKey k → (t.slot k).xfer = some f))
  ∧ (∀ (s s2 : State) (d : Fin 4) (n : Fin 8) (k : Nat) (a : AnchorIn), k = slotNo d n → anchorAt s s2 k a → a.action = 2 →
      s.slotState k ≠ 1 → a.key = s.ringKey k →
      ∃ t, exec (.windowOpen d n) s = .next t ∧ (a.param0.getLsbD 0 = false → (t.slot k).rsOpen = true)
        ∧ (a.param0.getLsbD 0 = true → (t.slot k).agOpen = true)
        ∧ t.qHead (s.hopUnit k) (s.ctrlLq k) = (s.qHead (s.hopUnit k) (s.ctrlLq k) + 1) % 65536)
  ∧ (∀ (s s2 : State) (d : Fin 4) (n : Fin 8) (k : Nat) (a : AnchorIn), k = slotNo d n → anchorAt s s2 k a → a.action = 3 →
      a.key = s.ringKey k → a.param0.getLsbD 0 = false → (s.slot k).sealSent = false → (s.slot k).sealBack = false →
      ∃ t, exec (.windowClose d n) s = .next t
        ∧ (s.slotState k = 2 → s.isLeader k = false →
            t.fld (R.dieSlotCnt d n) F.dieSlotCnt_LATE = min (s.fld (R.dieSlotCnt d n) F.dieSlotCnt_LATE + 1) 65535
              ∧ t.fld (R.irqSts .die d) ⟨2, 2⟩ = 1 ∧ (t.slot k).verdict = 0)
        ∧ ((s.slotState k = 2 ∨ s.slotState k = 3) → s.isLeader k = true → (t.slot k).verdict = 2))

/-- CHUNK_RECEIVE, CHUNK_SEND, SEAL_REQ, VERDICT_SEAL and VERDICT_REPEAT: an entry from another package is discarded as stale,
the header the slot waits for is taken (R483, R484); the next entry to be sent enters the send buffer, and a BROKEN slot
sends nothing (R468); the leader sends one SEAL_REQ; SEAL turns the sillage over and ends REDUCE, and REPEAT leads
back to WAIT_STEP (R490 to R492).
Readings of the model's own that it uses: assumption log 72 and 73. -/
def Obligations.ChunksAndVerdicts : Prop :=
  (∀ (s s2 : State) (d : Fin 4) (n : Fin 8) (k : Nat) (e : BitVec 512), k = slotNo d n → s.slotActs k = true →
      s.qCount (s.hopUnit k) (s.chunkLq k) ≠ 0 → (s.slot k).verdict = 0 → s.slotEntry k (s.chunkLq k) 0 = (.ok e, s2) →
      s.fromUp k e = false →
      ∃ t, exec (.chunkReceive d n) s = .next t
        ∧ t.fld (R.dieSlotCnt d n) F.dieSlotCnt_STALE = min (s.fld (R.dieSlotCnt d n) F.dieSlotCnt_STALE + 1) (2 ^ 24 - 1)
        ∧ t.qHead (s.hopUnit k) (s.chunkLq k) = (s.qHead (s.hopUnit k) (s.chunkLq k) + 1) % 65536 ∧ s2.memKept t)
  ∧ (∀ (s s2 : State) (d : Fin 4) (n : Fin 8) (k : Nat) (e : BitVec 512) (f : Xfer), k = slotNo d n → s.slotActs k = true →
      s.qCount (s.hopUnit k) (s.chunkLq k) ≠ 0 → (s.slot k).verdict = 0 → s.slotEntry k (s.chunkLq k) 0 = (.ok e, s2) →
      s.fromUp k e = true → (s.slot k).rx = none → (s.slot k).xfer = some f → f.ready = true → f.round ≠ 0 →
      (s.slot k).out = [] → s.slotState k = 2 → chunkHdr e = s.chunkHdrOf k f f.round → Step.ag f.entry = false →
      Step.enc f.entry = 0 →
      ∃ t, exec (.chunkReceive d n) s = .next t
        ∧ (t.slot k).rx = some ⟨e, ceilDiv' (chunkHdr e).nelem 24, [], false⟩
        ∧ t.qHead (s.hopUnit k) (s.chunkLq k) = (s.qHead (s.hopUnit k) (s.chunkLq k) + 1) % 65536 ∧ s2.memKept t)
  ∧ (∀ (s : State) (d : Fin 4) (n : Fin 8) (k : Nat) (o : SlotOut) (os : List SlotOut), k = slotNo d n → s.slotActs k = true →
      s.fld (R.dieSlotSts d n) F.dieSlotSts_BROKEN = 0 → (s.slot k).out = o :: os → os ≠ [] → o.isMsg = true →
      (o.gated = true → (if s.slotState k = 4 then (s.slot k).agOpen else (s.slot k).rsOpen) = true) →
      s.sendRoom (s.hopUnit k) = true →
      ∃ t, exec (.chunkSend d n) s = .next t ∧ (t.slot k).out = os ∧ (t.slot k).sent = (s.slot k).sent + 1
        ∧ t.sch.sendBuf = s.sch.sendBuf ++ [⟨s.hopUnit k, o.line, s.chunkLq k, (s.slot k).sent % 2 ^ 20, s.slotCtx k, true,
            mkEntry 0 0 o.body.toNat, s.now⟩]
        ∧ s.changesOnly t [])
  ∧ (∀ (s : State) (d : Fin 4) (n : Fin 8), s.slotActs (slotNo d n) = true → s.fld (R.dieSlotSts d n) F.dieSlotSts_BROKEN = 1 →
      exec (.chunkSend d n) s = .next s)
  ∧ (∀ (s : State) (d : Fin 4) (n : Fin 8) (k : Nat), k = slotNo d n → s.slotActs k = true → s.isLeader k = true →
      s.reduceDone k = true → (s.slot k).verdict = 0 → (s.slot k).sealSent = false →
      ∃ (t : State) (o : SlotOut), exec (.sealReq d n) s = .next t ∧ (t.slot k).sealSent = true
        ∧ (t.slot k).out = (s.slot k).out ++ [o] ∧ o.line = s.sendLine k ∧ (chunkHdr (mkEntry 0 0 o.body.toNat)).ckind = 2
        ∧ (chunkHdr (mkEntry 0 0 o.body.toNat)).key = s.ringKey k ∧ s.changesOnly t [])
  ∧ (∀ (s s2 : State) (d : Fin 4) (n : Fin 8) (k : Nat), k = slotNo d n → s.slotActs k = true → s.isLeader k = true →
      s.slotState k = 3 → (s.slot k).sealBack = true → (s.slot k).verdict = 0 → s.verdictRecords k 1 = (.ok (), s2) →
      ∃ t, exec (.verdictSeal d n) s = .next t ∧ t.fld (R.dieSlotSts d n) F.dieSlotSts_VERDICT = 1
        ∧ t.slotPar k = 1 - s.slotPar k ∧ (t.slot k).verdict = 0 ∧ t.slotState k ≠ 3)
  ∧ (∀ (s s2 : State) (d : Fin 4) (n : Fin 8) (k : Nat), k = slotNo d n → s.slotActs k = true → s.isLeader k = true →
      (s.slotState k = 2 ∨ s.slotState k = 3) → (s.slot k).verdict = 2 → (s.slot k).disarm = false →
      s.verdictRecords k 2 = (.ok (), s2) →
      ∃ t, exec (.verdictRepeat d n) s = .next t ∧ t.fld (R.dieSlotSts d n) F.dieSlotSts_VERDICT = 2 ∧ t.slotState k = 1
        ∧ (t.slot k).xfer = none ∧ (t.slot k).verdict = 0 ∧ t.slotPar k = s.slotPar k ∧ t.fld (R.irqSts .die d) ⟨0, 0⟩ = 1)

/-! ## Training survival: snapshots (13) -/

/-- SNAPSHOT_OPEN, SNAPSHOT_CLOSE, TRICKLE_SEND, SNAP_ENTRY_RECEIVE and IMAGE_COMPLETE: a snapshot opens with its table checked and
its markers zeroed, or is counted as skipped (R509); closing abandons it (R514); the next trickle entry is written and sent to
the buddies (R511), an entry from a shard's owner is written into its image (R512), and an image that is whole takes its
marker (R513).
Readings of the model's own that it uses: assumption log 74. -/
def Obligations.Snapshots : Prop :=
  (∀ (s s2 s3 s4 s5 : State) (d : Fin 4) (n : Fin 8) (k : Nat) (a : AnchorIn) (tb : SnapTbl) (fs : List (BitVec 512 × Nat) × Nat),
      k = slotNo d n → anchorAt s s2 k a → a.action = 4 → s.fld (R.dieSnapCfg d n) F.dieSnapCfg_EN = 1 →
      s.snapSkips k (a.param0.toNat % 2 ^ 32) = false →
      (∃ e s1, s.slotEntry k (s.ctrlLq k) 0 = (.ok e, s1) ∧ s1.snapTbl k = (.ok tb, s3)) → s3.captureFields k = (.ok fs, s4) →
      s4.snapCheck k tb fs.2 = none →
      s4.slotWrites k ((List.range 3).map (fun i => (s4.imageVa k tb (a.param0.toNat % 2 ^ 32 % 2) i + tb.img - 64, List.replicate 64 (0 : Byte))))
        = (.ok (), s5) →
      ∃ (t : State) (x : SnapSt), exec (.snapshotOpen d n) s = .next t ∧ (t.slot k).snap = some x
        ∧ x.step = a.param1.toNat % 2 ^ 32 ∧ x.base = s4.imageBase k tb ∧ x.capturing = false ∧ x.captured = false
        ∧ t.snapSts k F.dieSnapSts_LAST_N = a.param0.toNat % 2 ^ 32 ∧ t.snapSts k F.dieSnapSts_OPEN = 1
        ∧ t.snapSts k F.dieSnapSts_DONE = 0 ∧ s5.memKept t)
  ∧ (∀ (s s2 : State) (d : Fin 4) (n : Fin 8) (k : Nat) (a : AnchorIn), k = slotNo d n → anchorAt s s2 k a → a.action = 4 →
      s.fld (R.dieSnapCfg d n) F.dieSnapCfg_EN = 1 → s.snapSkips k (a.param0.toNat % 2 ^ 32) = true →
      ∃ t, exec (.snapshotOpen d n) s = .next t
        ∧ t.snapSts k F.dieSnapSts_SKIPPED = min (s.snapSts k F.dieSnapSts_SKIPPED + 1) 255 ∧ t.fld (R.irqSts .die d) ⟨3, 3⟩ = 1
        ∧ (t.slot k).snap = (s.slot k).snap ∧ s2.memKept t)
  ∧ (∀ (s s2 : State) (d : Fin 4) (n : Fin 8) (k : Nat) (a : AnchorIn) (x : SnapSt), k = slotNo d n → anchorAt s s2 k a →
      a.action = 5 → (s.slot k).snap = some x → a.param0.toNat % 2 ^ 32 = s.snapSts k F.dieSnapSts_LAST_N →
      ∃ t, exec (.snapshotClose d n) s = .next t ∧ (t.slot k).snap = none ∧ t.snapSts k F.dieSnapSts_OPEN = 0 ∧ s2.memKept t)
  ∧ (∀ (s s2 s3 : State) (d : Fin 4) (n : Fin 8) (k i : Nat) (x : SnapSt) (bs : List Byte), k = slotNo d n → s.slotActs k = true →
      s.fld (R.dieSlotSts d n) F.dieSlotSts_BROKEN = 0 → (s.slot k).op = none → (s.slot k).snap = some x → x.captured = true →
      i = x.next.getD 0 0 → i < x.count 0 → (s.trickleLines k).length ≤ s.sendFree (s.hopUnit k) →
      s.readRanges k (sliceRanges x.regions (40 * i) (Nat.min 40 (x.bytes.getD 0 0 - 40 * i))) = (.ok bs, s2) →
      s2.slotWrite k (x.image (s2.snapHalf k) 0 + x.stateOfs + 40 * i) bs = (.ok (), s3) →
      ∃ t, exec (.trickleSend d n) s = .next t ∧ (t.slot k).snap = some { x with next := x.next.set 0 (i + 1) }
        ∧ t.sch.sendBuf.length = s3.sch.sendBuf.length + (s.trickleLines k).length ∧ s3.changesOnly t [])
  ∧ (∀ (s s2 : State) (d : Fin 4) (n : Fin 8) (k : Nat) (e : BitVec 512), k = slotNo d n → s.slotActs k = true →
      s.qCount (s.hopUnit k) (s.snapLq k) ≠ 0 → (s.slot k).op = none → s.fld (R.dieSnapCfg d n) F.dieSnapCfg_EN = 1 →
      s.slotEntry k (s.snapLq k) 0 = (.ok e, s2) → (s.slot k).snap = none →
      ∃ t, exec (.snapEntryReceive d n) s = .next t
        ∧ t.snapSts k F.dieSnapSts_STALE = min (s.snapSts k F.dieSnapSts_STALE + 1) 4095
        ∧ t.qHead (s.hopUnit k) (s.snapLq k) = (s.qHead (s.hopUnit k) (s.snapLq k) + 1) % 65536 ∧ s2.memKept t)
  ∧ (∀ (s s2 s3 : State) (d : Fin 4) (n : Fin 8) (k : Nat) (e : BitVec 512) (x : SnapSt), k = slotNo d n → s.slotActs k = true →
      s.qCount (s.hopUnit k) (s.snapLq k) ≠ 0 → (s.slot k).op = none → s.fld (R.dieSnapCfg d n) F.dieSnapCfg_EN = 1 →
      s.slotEntry k (s.snapLq k) 0 = (.ok e, s2) → (s2.slot k).snap = some x → (s2.imagesUsed k).contains 1 = true →
      Ent.opcode e = 2 → Ent.srcPkg e = s2.imageOwner k 1 → (snapFields e).1 = s2.snapSts k F.dieSnapSts_LAST_N →
      (snapFields e).2.1 = x.next.getD 1 0 → (snapFields e).2.1 < x.count 1 →
      s2.slotWrite k (x.image (s2.snapHalf k) 1 + x.stateOfs + 40 * (snapFields e).2.1)
        ((snapFields e).2.2.take (x.bytes.getD 1 0 - 40 * (snapFields e).2.1)) = (.ok (), s3) →
      ∃ t, exec (.snapEntryReceive d n) s = .next t
        ∧ (t.slot k).snap = some { x with next := x.next.set 1 ((snapFields e).2.1 + 1) } ∧ s3.memKept t)
  ∧ (∀ (s s2 : State) (d : Fin 4) (n : Fin 8) (k : Nat) (im : Fin 3) (x : SnapSt), k = slotNo d n → s.slotActs k = true →
      (s.slot k).snap = some x → x.captured = true → (s.imagesUsed k).contains im.val = true →
      natBit (s.snapSts k F.dieSnapSts_DONE) im = false → x.count im ≤ x.next.getD im 0 → s.slotPosted k = false →
      s.slotWrite k (x.image (s.snapHalf k) im + x.stride - 64) (markerBytes (s.snapSts k F.dieSnapSts_LAST_N) x.step (s.imageOwner k im)
        (s.imagePos k im) im x.par (s.nowAt (k / 8))) = (.ok (), s2) →
      ∃ t, exec (.imageComplete d n im) s = .next t ∧ natBit (t.snapSts k F.dieSnapSts_DONE) im = true
        ∧ ((∀ j ∈ s.imagesUsed k, j ≠ im.val → natBit (s.snapSts k F.dieSnapSts_DONE) j = true) →
            (t.slot k).snap = none ∧ t.snapSts k F.dieSnapSts_OPEN = 0)
        ∧ s2.changesOnly t [R.dieSnapSts d n])

/-- The write of SNAPn_OP with one of the codes 1 to 5. -/
def snapCmd (code : Fin 6) (a : Agent) (d : Fin 4) (n : Fin 8) (op : Word) : Instr :=
  match code.val with
  | 1 => .digest a d n op
  | 2 => .fillSend a d n op
  | 3 => .fillRecv a d n op
  | 4 => .restore a d n op
  | _ => .store a d n op

/-- The operation that a written word starts. -/
def startedOp (s : State) (w : Word) : SnapOp := { word := w, next := 0, since := s.now, marker := none, ready := false, lost := false }

/-- DIGEST, FILL_SEND, FILL_RECV, RESTORE, STORE, ABORT, SNAP_OP_DONE and SNAP_OP_TIMEOUT: a refused operation answers REFUSED; one
that needs a VALID marker and finds it is BUSY (R518 to R522); an unlicensed store answers NOT_LICENSED (R524); ABORT ends an
operation with ABORTED (R523); a digest ends with the SHA-512 of the image's content; a fill that receives nothing for
SNAPn_LIMIT ends with TIMEOUT.
Readings of the model's own that it uses: assumption log 74. -/
def Obligations.SnapshotOperations : Prop :=
  (∀ (s : State) (a : Agent) (d : Fin 4) (n : Fin 8) (code : Fin 6) (op : Word), s.pageDead .die d = false → code.val ≠ 0 →
      s.opRefused (slotNo d n) (F.dieSnapOp_OP.put op code) = true →
      ∃ t, exec (snapCmd code a d n op) s = .next t ∧ t.fld (R.dieSnapOpsts d n) F.dieSnapOpsts_RESULT = 1
        ∧ (t.slot (slotNo d n)).op = (s.slot (slotNo d n)).op ∧ s.changesOnly t [R.dieSnapOpsts d n])
  ∧ (∀ (s s1 s2 : State) (a : Agent) (d : Fin 4) (n : Fin 8) (k : Nat) (code : Fin 6) (w op : Word) (m : List Byte × Nat),
      s.pageDead .die d = false → k = slotNo d n → code.val ∈ [1, 2, 4] → w = F.dieSnapOp_OP.put op code →
      s.opRefused k w = false → s1 = (s.setOp k (startedOp s w)).setReg (R.dieSnapOpsts d n) (BitVec.ofNat 64 (1 + code.val * 32)) →
      s1.opMarker k (startedOp s w) = (.ok m, s2) → markerValid m.1 (F.dieSnapOp_N.get w) = true →
      (code.val = 4 → natBits (quadOf m.1 1) 24 12 = s2.slotPos k) →
      ∃ t, exec (snapCmd code a d n op) s = .next t ∧ t.fld (R.dieSnapOpsts d n) F.dieSnapOpsts_BUSY = 1
        ∧ (t.slot k).op = some { startedOp s w with ready := true } ∧ s2.changesOnly t [])
  ∧ (∀ (s s1 s2 s3 : State) (a : Agent) (d : Fin 4) (n : Fin 8) (k : Nat) (w op : Word) (m : List Byte × Nat),
      s.pageDead .die d = false → k = slotNo d n → w = F.dieSnapOp_OP.put op 3 → s.opRefused k w = false →
      s1 = (s.setOp k (startedOp s w)).setReg (R.dieSnapOpsts d n) (BitVec.ofNat 64 97) →
      s1.opMarker k (startedOp s w) = (.ok m, s2) → s2.slotWrite k m.2 (List.replicate 64 0) = (.ok (), s3) →
      ∃ t, exec (.fillRecv a d n op) s = .next t ∧ t.fld (R.dieSnapOpsts d n) F.dieSnapOpsts_BUSY = 1
        ∧ (∃ o, (t.slot k).op = some o ∧ o.word = w ∧ o.ready = true ∧ o.next = 0) ∧ s3.changesOnly t [])
  ∧ (∀ (s : State) (a : Agent) (d : Fin 4) (n : Fin 8) (k : Nat) (op : Word), s.pageDead .die d = false → k = slotNo d n →
      s.opRefused k (F.dieSnapOp_OP.put op 5) = false →
      ∃ t, exec (.store a d n op) s = .next t
        ∧ (s.fld R.secLicSts F.secLicSts_STORE_EFF = 1 → t.fld (R.dieSnapOpsts d n) F.dieSnapOpsts_BUSY = 1
            ∧ (∃ o, (t.slot k).op = some o ∧ o.ready = true) ∧ s.changesOnly t [R.dieSnapOpsts d n])
        ∧ (s.fld R.secLicSts F.secLicSts_STORE_EFF = 0 → t.fld (R.dieSnapOpsts d n) F.dieSnapOpsts_RESULT = 6
            ∧ t.fld (R.dieSnapOpsts d n) F.dieSnapOpsts_BUSY = 0 ∧ (t.slot k).op = none
            ∧ s.changesOnly t [R.dieSnapOpsts d n, R.irqSts .die d]))
  ∧ (∀ (s : State) (a : Agent) (d : Fin 4) (n : Fin 8) (op : Word) (o : SnapOp), s.pageDead .die d = false →
      (s.slot (slotNo d n)).op = some o →
      ∃ t, exec (.abort a d n op) s = .next t ∧ (t.slot (slotNo d n)).op = none
        ∧ t.fld (R.dieSnapOpsts d n) F.dieSnapOpsts_RESULT = 7 ∧ t.fld (R.dieSnapOpsts d n) F.dieSnapOpsts_BUSY = 0
        ∧ t.fld (R.irqSts .die d) ⟨4, 4⟩ = 1 ∧ s.changesOnly t [R.dieSnapOpsts d n, R.irqSts .die d])
  ∧ (∀ (s s2 s3 : State) (d : Fin 4) (n : Fin 8) (k : Nat) (o : SnapOp) (rs : List (Nat × Nat)) (bs : List Byte), k = slotNo d n →
      (s.slot k).op = some o → s.opActs k = true → o.ready = true → o.code = 1 → s.opRanges k o = (.ok rs, s2) →
      s2.readRanges k rs = (.ok bs, s3) →
      ∃ t, exec (.snapOpDone d n) s = .next t ∧ (t.slot k).op = none ∧ t.fld (R.dieSnapOpsts d n) F.dieSnapOpsts_RESULT = 0
        ∧ t.fld (R.dieSnapOpsts d n) F.dieSnapOpsts_BUSY = 0
        ∧ (∀ i < 8, t.reg (R.dieSnapDig d (n * 8 + i)) = BitVec.ofNat 64 (bytesToNat (((sha512 bs).drop (8 * i)).take 8)))
        ∧ t.fld (R.irqSts .die d) ⟨4, 4⟩ = 1
        ∧ s3.changesOnly t ([R.dieSnapOpsts d n, R.irqSts .die d] ++ (List.range 8).map (fun i => R.dieSnapDig d (n * 8 + i))))
  ∧ (∀ (s : State) (d : Fin 4) (n : Fin 8) (o : SnapOp), (s.slot (slotNo d n)).op = some o → o.code = 3 →
      s.fld (R.dieSnapLimit d n) F.dieSnapLimit_US * 1000 < s.elapsedNs o.since →
      ∃ t, exec (.snapOpTimeout d n) s = .next t ∧ (t.slot (slotNo d n)).op = none
        ∧ t.fld (R.dieSnapOpsts d n) F.dieSnapOpsts_RESULT = 5 ∧ t.fld (R.irqSts .die d) ⟨4, 4⟩ = 1
        ∧ s.changesOnly t [R.dieSnapOpsts d n, R.irqSts .die d])


/-! ## The store, errors and die-to-die links (14, 15) -/

/-- FIX_STORE_WRITE and FIX_PROGRAM_DONE: a write that changes a register its agent may write occupies the register's bank;
an unchanged value does nothing; a write that R550 does not allow leaves the register; the end of programming gives the
register its value and counts one write of wear, and a counter that reaches FIX.CTL.WARN sets WEAR_HIGH (R561).
Readings of the model's own that it uses: assumption log 12 and 75. -/
def Obligations.StoreCommands : Prop :=
  (∀ (s : State) (a : Agent) (i : Fin 4096) (v : Word), s.pageDead .fix 0 = false → (storeRule i).allows a = true →
      (storeRule i = .floor → (s.storeRead i).toNat ≤ v.toNat) → s.bit (R.fixWear i) F.fixWear_WORN = false →
      s.broken (locHost 3 0) = false → s.storeValue i v ≠ s.storeRead i → s.hourRoll.storeRateHit i = false →
      lookupKey s.rep.jobs (i.val / 256) = none →
      ∃ t, exec (.fixStoreWrite a i v) s = .next t ∧ lookupKey t.rep.jobs (i.val / 256) = some ⟨i, s.storeValue i v⟩
        ∧ t.regBit R.fixSts (i.val / 256) = true ∧ t.storeRead i = s.storeRead i ∧ s.changesOnly t [R.fixSts, R.fixHourCnt])
  ∧ (∀ (s : State) (a : Agent) (i : Fin 4096) (v : Word), s.pageDead .fix 0 = false → (storeRule i).allows a = true →
      (storeRule i = .floor → (s.storeRead i).toNat ≤ v.toNat) → s.bit (R.fixWear i) F.fixWear_WORN = false →
      s.storeValue i v = s.storeRead i → s.storeUE i = false → exec (.fixStoreWrite a i v) s = .next s)
  ∧ (∀ (s : State) (a : Agent) (i : Fin 4096) (v : Word), s.pageDead .fix 0 = false → (storeRule i).allows a = false →
      ∃ t, exec (.fixStoreWrite a i v) s = .next t ∧ t.rep = s.rep ∧ t.reg (R.fixStore i) = s.reg (R.fixStore i)
        ∧ t.fld (R.errRec .fix 0 0) F.errQ0_VALID = 1)
  ∧ (∀ (s : State) (b : Fin 16) (j : StoreJob), lookupKey s.rep.jobs b.val = some j → s.rep.waits = [] → s.plat.offPrep = false →
      s.broken (locHost 3 0) = false → s.fld (R.inj .fix 0) F.inj_ARM = 0 →
      ∃ t, exec (.fixProgramDone b) s = .next t ∧ t.storeRead j.idx = j.value
        ∧ t.fld (R.fixWear j.idx) F.fixWear_COUNT = (s.fld (R.fixWear j.idx) F.fixWear_COUNT + 1) % 2 ^ 18
        ∧ (s.fld (R.fixWear j.idx) F.fixWear_COUNT + 1 = 200000 → t.fld (R.fixWear j.idx) F.fixWear_WORN = 1)
        ∧ (t.fld (R.fixWear j.idx) F.fixWear_COUNT = s.fld R.fixCtl F.fixCtl_WARN → t.fld (R.irqSts .fix 0) ⟨1, 1⟩ = 1)
        ∧ t.reg R.fixWrites = s.reg R.fixWrites + 1 ∧ lookupKey t.rep.jobs b.val = none ∧ t.regBit R.fixSts b = false
        ∧ s.changesOnly t [R.fixStore j.idx, R.fixWear j.idx, R.fixSts, R.fixWrites, R.fixHourCnt, R.irqSts .fix 0])

/-- SCRUB_READ, D2D_FLIT_RECEIVE, LINK_RETRAIN, D2D_RETRAIN_DONE, LINK_DEAD, ERR_REC_CLEAR and INJ_WRITE: the scrub passes
over a clean word and writes a correctable one back corrected, with the bytes as they read (R583); a flit that arrives
whole is delivered and a damaged one is not; after eight replays a link retrains, and it is in service again or dead after the third
failure (R584, R585); the window clears and an injection arms (R586, R593).
Readings of the model's own that it uses: assumption log 36, 37, 40, 41 and 42. -/
def Obligations.ErrorCommands : Prop :=
  (∀ (s : State) (k : Fin 16) (pa : Nat), s.running = true → s.stackAvail k = true →
      s.fld (R.hbmScrubCfg k) F.hbmScrubCfg_EN = 1 → pa = ofStack k (8 * s.scrubPos k) → s.lineBusy (pa / 128) = false →
      s.fld (R.inj .hbm k) F.inj_ARM = 0 → s.scrubPos k + 1 < stackWords →
      ∃ t, exec (.scrubRead k) s = .next t ∧ t.scrubPos k = s.scrubPos k + 1
        ∧ (Sparse.get 0 s.errs (pa / 8) = 0 → s.changesOnly t [])
        ∧ (∀ b, s.coh.lines = [] → s.fld R.pkgElogCfg F.pkgElogCfg_EN = 0 →
            eccClass (Sparse.get 0 s.errs (pa / 8)) = .correctable b →
            Sparse.get 0 t.errs (pa / 8) = 0 ∧ (∀ a, t.memByte a = s.memByte a)
              ∧ t.fld (R.hbmScrubSts k) F.hbmScrubSts_CORRECTED = min (s.fld (R.hbmScrubSts k) F.hbmScrubSts_CORRECTED + 1) (2 ^ 32 - 1)))
  ∧ (∀ (s : State) (l : Fin 8) (far : Bool) (c : Option CtxId) (m : BitVec 72), s.running = true → (s.d2d l).retraining = false →
      (s.d2d l).dead = false → (s.d2d l).bad far < 9 → (∀ i, s.fld (R.inj .die i) F.inj_ARM = 0) →
      ∃ t, exec (.d2dFlitReceive l far c m) s = .next t
        ∧ (m = 0 → (t.d2d l).delivered = (s.d2d l).delivered + 1 ∧ (t.d2d l).bad far = 0 ∧ s.changesOnly t [])
        ∧ (eccClass m = .uncorrectable → (t.d2d l).delivered = (s.d2d l).delivered ∧ (t.d2d l).bad far = (s.d2d l).bad far + 1
            ∧ s.changesOnly t [])
        ∧ (∀ b, eccClass m = .correctable b → (t.d2d l).delivered = (s.d2d l).delivered + 1))
  ∧ (∀ (s : State) (l : Fin 8), s.running = true → (s.d2d l).dead = false → (s.d2d l).retraining = false →
      (9 ≤ (s.d2d l).toFar ∨ 9 ≤ (s.d2d l).toNear) →
      ∃ t, exec (.linkRetrain l) s = .next t ∧ (t.d2d l).retraining = true ∧ (t.d2d l).fails = 0
        ∧ t.fld (R.errRec .die (d2dNear l) 0) F.errQ0_VALID = 1)
  ∧ (∀ (s : State) (l : Fin 8), s.running = true → (s.d2d l).retraining = true →
      ∃ t, exec (.d2dRetrainDone l) s = .next t ∧ (t.d2d l).retraining = false ∧ (t.d2d l).toFar = 0 ∧ (t.d2d l).toNear = 0
        ∧ (t.d2d l).delivered = (s.d2d l).delivered ∧ s.changesOnly t [])
  ∧ (∀ (s : State) (l : Fin 8), s.running = true → (s.d2d l).retraining = true → (s.d2d l).fails = 2 →
      ∃ t, exec (.linkDead l) s = .next t ∧ (t.d2d l).dead = true ∧ t.linkIsDead l = true
        ∧ t.fld R.pkgSts F.pkgSts_D2D_DEAD = 1 ∧ t.fld (R.irqSts .pkg 0) ⟨18, 18⟩ = 1)
  ∧ (∀ (s : State) (a : Agent) (p : Page) (i : Fin 1024), s.regReaches a p i = true →
      s.fld (R.errRec p i 0) F.errQ0_VALID = 1 →
      ∃ t, exec (.errRecClear a p i) s = .next t ∧ (∀ k < 4, t.reg (R.errRec p i k) = 0)
        ∧ s.changesOnly t ((List.range 4).map (R.errRec p i)))
  ∧ (∀ (s : State) (a : Agent) (p : Page) (i : Fin 1024) (w : Word), s.regReaches a p i = true → p.hasInj i = true →
      fwAllowed a p = true →
      ∃ t, exec (.injWrite a p i w) s = .next t ∧ s.changesOnly t [R.inj p i]
        ∧ (injWordOk p i w = true → t.fld (R.inj p i) F.inj_ARM = F.inj_ARM.get w ∧ t.fld (R.inj p i) F.inj_MODE = F.inj_MODE.get w
            ∧ t.fld (R.inj p i) F.inj_BIT_A = F.inj_BIT_A.get w)
        ∧ (injWordOk p i w = false → t.reg (R.inj p i) = s.reg (R.inj p i)))

/-! ## Security, attestation and the test access port (16, 18) -/

/-- IMAGE_VERIFY, VERIFY_DONE, KEY_SLOT_WRITE and WARDEN_RUN: a verification begins with BUSY and ends with its result; an
accepted warden image is named by WARDEN_OK and measured; a rejected one changes nothing else (R604, R606); a key slot is
written while VALID is 0, and locked but for VALID while it is 1 (R135); a warden is released only at the verified image (R607).
Readings of the model's own that it uses: assumption log 76, 77 and 78. -/
def Obligations.SecurityCommands : Prop :=
  (∀ (s : State) (a : Agent) (v : Word), s.pageDead .sec 0 = false → fwAllowed a .sec = true → 2 ≤ F.secVerifyCmd_TYPE.get v →
      s.fld R.secVerifySts F.secVerifySts_BUSY = 0 → F.secVerifyCmd_GO.get v = 1 →
      ∃ t, exec (.imageVerify a v) s = .next t ∧ t.fld R.secVerifySts F.secVerifySts_BUSY = 1
        ∧ t.sec.verify = some ⟨F.secVerifyCmd_TYPE.get v, s.fld R.secVerifyHdr F.secVerifyHdr_ADDR * 256,
            s.fld R.secVerifyPay F.secVerifyPay_ADDR * 256⟩
        ∧ s.changesOnly t [R.secVerifyCmd, R.secVerifySts])
  ∧ (∀ (s : State) (j : VerifyJob), s.sec.verify = some j → j.type < 4 → s.broken (locHost 4 0) = false →
      ∃ t, exec .verifyDone s = .next t ∧ t.sec.verify = none ∧ t.fld R.secVerifySts F.secVerifySts_BUSY = 0
        ∧ t.fld R.secVerifySts F.secVerifySts_RESULT = (s.imageResult j.type j.hdr j.pay).1.code
        ∧ t.fld (R.irqSts .sec 0) ⟨0, 0⟩ = 1
        ∧ ((s.imageResult j.type j.hdr j.pay).1 ≠ .ok → t.sec.meas = s.sec.meas
            ∧ s.changesOnly t [R.secVerifySts, R.irqSts .sec 0])
        ∧ (j.type = 2 → (s.imageResult j.type j.hdr j.pay).1 = .ok → t.fld R.secWardenOk F.secWardenOk_VALID = 1
            ∧ (t.meas 6).2 = (s.meas 6).2 + 1 ∧ s.changesOnly t [R.secVerifySts, R.irqSts .sec 0, R.secWardenOk])
        ∧ (j.type = 3 → (s.imageResult j.type j.hdr j.pay).1 = .ok → t.fld R.secSts F.secSts_SE_RUN = 1
            ∧ (t.meas 5).2 = (s.meas 5).2 + 1 ∧ s.changesOnly t [R.secVerifySts, R.irqSts .sec 0, R.secSts]))
  ∧ (∀ (s : State) (a : Agent) (k : Fin 64) (i : Fin 4) (v : Word), s.pageDead .sec 0 = false →
      ∃ t, exec (.keySlotWrite a k (.key i v)) s = .next t
        ∧ (s.fld (R.secRkeyCfg k) F.secRkeyCfg_VALID = 0 → t.reg (R.secRkeyK (k.val * 4 + i.val)) = v
            ∧ s.changesOnly t [R.secRkeyK (k.val * 4 + i.val)])
        ∧ (s.fld (R.secRkeyCfg k) F.secRkeyCfg_VALID = 1 →
            t.reg (R.secRkeyK (k.val * 4 + i.val)) = s.reg (R.secRkeyK (k.val * 4 + i.val))
              ∧ t.fld (R.errRec .sec 0 0) F.errQ0_VALID = 1))
  ∧ (∀ (s : State) (a : Agent) (k : Fin 64) (v : Word), s.pageDead .sec 0 = false → s.fld (R.secRkeyCfg k) F.secRkeyCfg_VALID = 0 →
      ∃ t, exec (.keySlotWrite a k (.cfg v)) s = .next t ∧ s.changesOnly t [R.secRkeyCfg k]
        ∧ t.fld (R.secRkeyCfg k) F.secRkeyCfg_CTX = F.secRkeyCfg_CTX.get v
        ∧ t.fld (R.secRkeyCfg k) F.secRkeyCfg_VALID = F.secRkeyCfg_VALID.get v)
  ∧ (∀ (s : State) (a : Agent) (k : Fin 64) (v : Word), s.pageDead .sec 0 = false → s.fld (R.secRkeyCfg k) F.secRkeyCfg_VALID = 1 →
      ∃ t, exec (.keySlotWrite a k (.cfg v)) s = .next t
        ∧ t.fld (R.secRkeyCfg k) F.secRkeyCfg_CTX = s.fld (R.secRkeyCfg k) F.secRkeyCfg_CTX
        ∧ t.fld (R.secRkeyCfg k) F.secRkeyCfg_VALID = F.secRkeyCfg_VALID.get v ∧ t.fld (R.errRec .sec 0 0) F.errQ0_VALID = 1)
  ∧ (∀ (s : State) (a : Agent) (r : Fin 32), s.regReaches a .rgn r = true → fwAllowed a .rgn = true →
      ∃ t, exec (.wardenRun a r) s = .next t ∧ s.changesOnly t [R.rgnCtl r]
        ∧ (s.fld (R.rgnCtl r) F.rgnCtl_WARDEN_RUN = 0 → s.fld R.secWardenOk F.secWardenOk_VALID = 1 →
            s.fld R.secWardenOk F.secWardenOk_ADDR = s.fld (R.rgnFwBase r) F.rgnFwBase_ADDR →
            s.systemGranule (s.fld (R.rgnFwBase r) F.rgnFwBase_ADDR * 65536) = true → s.fld R.pkgSts F.pkgSts_BOOT_FAIL = 0 →
            t.fld (R.rgnCtl r) F.rgnCtl_WARDEN_RUN = 1
              ∧ lookupKey t.host.starts (64 + r) = some (s.fld (R.rgnFwBase r) F.rgnFwBase_ADDR * 65536))
        ∧ (¬(s.fld R.secWardenOk F.secWardenOk_VALID = 1
              ∧ s.fld R.secWardenOk F.secWardenOk_ADDR = s.fld (R.rgnFwBase r) F.rgnFwBase_ADDR) → t = s))

/-- The responder takes requests: the package runs, no package reset is in progress, keeper firmware and the security engine
image run (R618, R619), and the blocks it needs have not failed (R64). -/
def responds (s : State) : Prop :=
  s.works (locHost 7 0) = true ∧ s.broken (locHost 4 0) = false ∧ s.plat.warmRun = [] ∧ s.plat.keepersRun = true
    ∧ s.plat.offPrep = false ∧ s.fld R.secSts F.secSts_SE_RUN = 1

/-- The SPDM requests: each gets one answer as R618 and R619 give it, Busy while no security engine image runs, and changes nothing
else. The instructions of the test access port select what R668 gives them.
Readings of the model's own that it uses: assumption log 79 and 80. -/
def Obligations.AttestationAndTestPort : Prop :=
  (∀ s : State, responds s →
      (∃ t, exec .getVersion s = .next t ∧ t.sec.answers = s.sec.answers ++ [.version 1 2] ∧ s.changesOnly t [])
      ∧ (∃ t, exec .getCapabilities s = .next t ∧ t.sec.answers = s.sec.answers ++ [.capabilities true true 2 11] ∧ s.changesOnly t [])
      ∧ (∀ e h, ∃ t, exec (.negotiateAlgorithms e h) s = .next t ∧ t.sec.answers = s.sec.answers ++ [.algorithms e h]
          ∧ s.changesOnly t [])
      ∧ (∃ t, exec .getDigests s = .next t ∧ t.sec.answers = s.sec.answers ++ [.digests 1 s.chainDigest] ∧ s.changesOnly t [])
      ∧ (∀ o n, ∃ (t : State) (x : SpdmAnswer), exec (.getCertificate 0 o n) s = .next t ∧ t.sec.answers = s.sec.answers ++ [x]
          ∧ s.changesOnly t [] ∧ (s.fld R.secSts F.secSts_ID = 2 → x = .unspecified)
          ∧ (s.fld R.secSts F.secSts_ID ≠ 2 → o.toNat < s.chainBytes.length →
              ∃ rem, x = .certificate ((s.chainBytes.drop o.toNat).take n.toNat) rem))
      ∧ (∀ c, ∃ (t : State) (x : SpdmAnswer), exec (.challenge 0 c) s = .next t ∧ t.sec.answers = s.sec.answers ++ [x]
          ∧ s.changesOnly t [] ∧ (s.fld R.secSts F.secSts_ID = 2 → x = .unspecified)
          ∧ (s.fld R.secSts F.secSts_ID ≠ 2 → x = .challengeAuth s.chainDigest c s.publicKey))
      ∧ (∀ i : BitVec 8, 1 ≤ i.toNat → i.toNat ≤ 7 → ∃ t, exec (.getMeasurements i false) s = .next t
          ∧ t.sec.answers = s.sec.answers ++ [.measurements 1 [s.measBlock i.toNat] none] ∧ s.changesOnly t [])
      ∧ (∃ t, exec .spdmUnsupportedRequest s = .next t ∧ t.sec.answers = s.sec.answers ++ [.unsupportedRequest] ∧ s.changesOnly t []))
  ∧ (∀ s : State, s.works (locHost 7 0) = true → s.broken (locHost 4 0) = false → s.plat.warmRun = [] → s.plat.keepersRun = true →
      s.plat.offPrep = false →
      s.fld R.secSts F.secSts_SE_RUN = 0 → ∀ c ∈ [Instr.getVersion, .getCapabilities, .getDigests, .spdmUnsupportedRequest],
      ∃ t, exec c s = .next t ∧ t.sec.answers = s.sec.answers ++ [.busy] ∧ s.changesOnly t [])
  ∧ (∀ (s : State) (pins pre : List Bool),
      (∃ t, exec .bypass s = .next t ∧ t.sec.tap.instr = .bypass ∧ s.changesOnly t [])
      ∧ (∃ t, exec .idcode s = .next t ∧ t.sec.tap.instr = .idcode ∧ t.tapDr = 0x10101C3D ∧ s.changesOnly t [])
      ∧ (∃ t, exec (.samplePreload pins pre) s = .next t ∧ t.sec.tap = ⟨.samplePreload, pre, pins⟩ ∧ s.changesOnly t [])
      ∧ (∃ t, exec .extest s = .next t ∧ t.sec.tap.instr = .extest ∧ t.sec.tap.boundary = s.sec.tap.boundary ∧ s.changesOnly t [])
      ∧ (∃ t, exec .highz s = .next t ∧ t.sec.tap.instr = .highz ∧ s.changesOnly t [])
      ∧ (∃ t, exec .clamp s = .next t ∧ t.sec.tap.instr = .clamp ∧ t.sec.tap.boundary = s.sec.tap.boundary ∧ s.changesOnly t []))
end

