-- ==== Sys2Proof/Laws/Field.lean ====
section
/-! SUPPORT. The laws of a register word's fields: a field reads as it was put, modulo its range, and putting one field
leaves a disjoint one alone. -/

namespace Sys2Proof

/-- A field that lies in a register word. -/
def Fld.ok (f : Fld) : Bool := decide (f.lo ≤ f.hi) && decide (f.hi < 64)

/-- Two fields that share no bit. -/
def Fld.apart (f g : Fld) : Bool := decide (f.hi < g.lo) || decide (g.hi < f.lo)

theorem Fld.split_word (f : Fld) (h : f.ok = true) (w : Word) :
    w.toNat = w.toNat % 2 ^ f.lo + 2 ^ f.lo * (f.get w) + 2 ^ (f.hi + 1) * (w.toNat / 2 ^ (f.hi + 1)) := by
  simp only [Fld.ok, Bool.and_eq_true, decide_eq_true_eq] at h
  have hp : 2 ^ (f.hi + 1) = 2 ^ f.lo * 2 ^ f.width := by
    rw [← pow_add]; congr 1; simp only [Fld.width]; omega
  unfold Fld.get
  rw [hp, ← Nat.div_div_eq_div_mul]
  have h1 := Nat.div_add_mod w.toNat (2 ^ f.lo)
  have h2 := Nat.div_add_mod (w.toNat / 2 ^ f.lo) (2 ^ f.width)
  calc w.toNat = 2 ^ f.lo * (w.toNat / 2 ^ f.lo) + w.toNat % 2 ^ f.lo := h1.symm
    _ = 2 ^ f.lo * (2 ^ f.width * (w.toNat / 2 ^ f.lo / 2 ^ f.width) + w.toNat / 2 ^ f.lo % 2 ^ f.width) + w.toNat % 2 ^ f.lo := by
        rw [h2]
    _ = _ := by ring

theorem Fld.put_toNat (f : Fld) (h : f.ok = true) (w : Word) (n : Nat) :
    (f.put w n).toNat = w.toNat % 2 ^ f.lo + 2 ^ f.lo * (n % 2 ^ f.width) + 2 ^ (f.hi + 1) * (w.toNat / 2 ^ (f.hi + 1)) := by
  have hs := Fld.split_word f h w
  have hlt : w.toNat < 2 ^ 64 := w.isLt
  simp only [Fld.ok, Bool.and_eq_true, decide_eq_true_eq] at h
  have hp : 2 ^ (f.hi + 1) = 2 ^ f.lo * 2 ^ f.width := by
    rw [← pow_add]; congr 1; simp only [Fld.width]; omega
  have hlow : w.toNat % 2 ^ f.lo < 2 ^ f.lo := Nat.mod_lt _ (by positivity)
  have hn : n % 2 ^ f.width < 2 ^ f.width := Nat.mod_lt _ (by positivity)
  have hmid : w.toNat % 2 ^ f.lo + 2 ^ f.lo * (n % 2 ^ f.width) < 2 ^ (f.hi + 1) := by
    rw [hp]
    calc _ < 2 ^ f.lo + 2 ^ f.lo * (n % 2 ^ f.width) := by omega
      _ = 2 ^ f.lo * (n % 2 ^ f.width + 1) := by ring
      _ ≤ _ := Nat.mul_le_mul_left _ hn
  have hdvd : 2 ^ (f.hi + 1) * 2 ^ (63 - f.hi) = 2 ^ 64 := by rw [← pow_add]; congr 1; omega
  have hq : w.toNat / 2 ^ (f.hi + 1) < 2 ^ (63 - f.hi) := by
    rw [Nat.div_lt_iff_lt_mul (by positivity), Nat.mul_comm, hdvd]; exact hlt
  have hbound : w.toNat % 2 ^ f.lo + 2 ^ f.lo * (n % 2 ^ f.width) + 2 ^ (f.hi + 1) * (w.toNat / 2 ^ (f.hi + 1)) < 2 ^ 64 := by
    rw [← hdvd]
    calc _ < 2 ^ (f.hi + 1) + 2 ^ (f.hi + 1) * (w.toNat / 2 ^ (f.hi + 1)) := by omega
      _ = 2 ^ (f.hi + 1) * (w.toNat / 2 ^ (f.hi + 1) + 1) := by ring
      _ ≤ _ := Nat.mul_le_mul_left _ hq
  have e : w.toNat - f.get w * 2 ^ f.lo + n % 2 ^ f.width * 2 ^ f.lo
      = w.toNat % 2 ^ f.lo + 2 ^ f.lo * (n % 2 ^ f.width) + 2 ^ (f.hi + 1) * (w.toNat / 2 ^ (f.hi + 1)) := by
    rw [Nat.mul_comm (f.get w), Nat.mul_comm (n % 2 ^ f.width)]; omega
  unfold Fld.put
  rw [e, BitVec.toNat_ofNat, Nat.mod_eq_of_lt hbound]

/-- A field reads as it was put, modulo its range. -/
@[simp] theorem Fld.get_put (f : Fld) (h : f.ok = true) (w : Word) (n : Nat) : f.get (f.put w n) = n % 2 ^ f.width := by
  have hp := Fld.put_toNat f h w n
  simp only [Fld.ok, Bool.and_eq_true, decide_eq_true_eq] at h
  have hpw : 2 ^ (f.hi + 1) = 2 ^ f.lo * 2 ^ f.width := by
    rw [← pow_add]; congr 1; simp only [Fld.width]; omega
  unfold Fld.get
  rw [hp, hpw, Nat.mul_assoc, Nat.add_assoc, ← Nat.mul_add, Nat.add_mul_div_left _ _ (by positivity),
    Nat.div_eq_of_lt (Nat.mod_lt _ (by positivity)), Nat.zero_add, Nat.add_mul_mod_self_left, Nat.mod_mod]

/-- Putting a field leaves a field that shares no bit with it alone. -/
theorem Fld.get_put_apart (f g : Fld) (hf : f.ok = true) (hg : g.ok = true) (h : f.apart g = true) (w : Word) (n : Nat) :
    g.get (f.put w n) = g.get w := by
  have hp := Fld.put_toNat f hf w n
  have hs := Fld.split_word f hf w
  simp only [Fld.ok, Bool.and_eq_true, decide_eq_true_eq] at hf hg
  simp only [Fld.apart, Bool.or_eq_true, decide_eq_true_eq] at h
  have hpw : 2 ^ (f.hi + 1) = 2 ^ f.lo * 2 ^ f.width := by
    rw [← pow_add]; congr 1; simp only [Fld.width]; omega
  have hm : w.toNat % 2 ^ f.lo + 2 ^ f.lo * (n % 2 ^ f.width) < 2 ^ (f.hi + 1) := by
    have hlow : w.toNat % 2 ^ f.lo < 2 ^ f.lo := Nat.mod_lt _ (by positivity)
    have hn : n % 2 ^ f.width < 2 ^ f.width := Nat.mod_lt _ (by positivity)
    rw [hpw]
    calc _ < 2 ^ f.lo + 2 ^ f.lo * (n % 2 ^ f.width) := by omega
      _ = 2 ^ f.lo * (n % 2 ^ f.width + 1) := by ring
      _ ≤ _ := Nat.mul_le_mul_left _ hn
  rcases h with h | h
  · -- g lies above f
    have hd : (f.put w n).toNat / 2 ^ (f.hi + 1) = w.toNat / 2 ^ (f.hi + 1) := by
      rw [hp, Nat.add_mul_div_left _ _ (by positivity), Nat.div_eq_of_lt hm, Nat.zero_add]
    have hg' : 2 ^ g.lo = 2 ^ (f.hi + 1) * 2 ^ (g.lo - (f.hi + 1)) := by rw [← pow_add]; congr 1; omega
    unfold Fld.get
    rw [hg', ← Nat.div_div_eq_div_mul, ← Nat.div_div_eq_div_mul, hd]
  · -- g lies below f
    have hmod : ∀ x : Nat, x / 2 ^ g.lo % 2 ^ g.width = (x % 2 ^ f.lo) / 2 ^ g.lo % 2 ^ g.width := by
      intro x
      have e : 2 ^ f.lo = 2 ^ g.lo * (2 ^ g.width * 2 ^ (f.lo - (g.hi + 1))) := by
        rw [← pow_add, ← pow_add]; congr 1; simp only [Fld.width]; omega
      rw [e, Nat.mod_mul_right_div_self, Nat.mod_mul_right_mod]
    have hlo : (f.put w n).toNat % 2 ^ f.lo = w.toNat % 2 ^ f.lo := by
      rw [hp, hpw, Nat.mul_assoc, Nat.add_assoc, ← Nat.mul_add, Nat.add_mul_mod_self_left, Nat.mod_mod]
    unfold Fld.get
    rw [hmod, hlo, ← hmod]

end Sys2Proof
end

