-- ==== Sys2Proof/Laws/Sparse.lean ====
section
/-! SUPPORT. The laws of sparse data: a read after a write, and that every operation keeps the canonical form. -/

namespace Sys2Proof.Machine

variable {κ α : Type}

theorem Sparse.get_drop [DecidableEq κ] (d : α) (m : List (κ × α)) (q k : κ) :
    Sparse.get d (Sparse.drop m q) k = if k = q then d else Sparse.get d m k := by
  induction m with
  | nil => simp [Sparse.drop, Sparse.get]
  | cons e m ih =>
    obtain ⟨a, v⟩ := e
    by_cases ha : q = a
    · subst ha
      by_cases hk : k = q
      · subst hk; simpa [Sparse.drop, Sparse.get] using ih
      · simp [Sparse.drop, Sparse.get, ih, hk]
    · by_cases hk : k = q
      · subst hk; simp [Sparse.drop, Sparse.get, ih, ha]
      · simp [Sparse.drop, Sparse.get, ih, ha, hk]

theorem Sparse.get_insert [DecidableEq κ] (ord : κ → Nat) (d : α) (m : List (κ × α)) (q k : κ) (x : α)
    (h : ∀ e ∈ m, e.1 ≠ q) :
    Sparse.get d (Sparse.insert ord m q x) k = if k = q then x else Sparse.get d m k := by
  induction m with
  | nil => simp [Sparse.insert, Sparse.get]
  | cons e m ih =>
    obtain ⟨a, v⟩ := e
    have ha : a ≠ q := h (a, v) (by simp)
    have ih := ih (fun e he => h e (by simp [he]))
    by_cases ho : ord q < ord a
    · simp [Sparse.insert, Sparse.get, ho]
    · by_cases hk : k = a
      · subst hk; simp [Sparse.insert, Sparse.get, ho, ha]
      · simp [Sparse.insert, Sparse.get, ho, hk, ih]

theorem Sparse.mem_drop [DecidableEq κ] (m : List (κ × α)) (q : κ) (e : κ × α) :
    e ∈ Sparse.drop m q ↔ e ∈ m ∧ e.1 ≠ q := by
  induction m with
  | nil => simp [Sparse.drop]
  | cons a m ih =>
    by_cases h : q = a.1
    · simp only [Sparse.drop, h, if_true] at ih ⊢
      rw [ih]; constructor
      · rintro ⟨h1, h2⟩; exact ⟨List.mem_cons_of_mem _ h1, h2⟩
      · rintro ⟨h1, h2⟩
        rcases List.mem_cons.mp h1 with rfl | h1
        · exact absurd rfl h2
        · exact ⟨h1, h2⟩
    · simp only [Sparse.drop, if_neg h, List.mem_cons, ih]
      constructor
      · rintro (rfl | ⟨h1, h2⟩)
        · exact ⟨.inl rfl, fun hh => h hh.symm⟩
        · exact ⟨.inr h1, h2⟩
      · rintro ⟨rfl | h1, h2⟩
        · exact .inl rfl
        · exact .inr ⟨h1, h2⟩

/-- A read after a write: the written key reads the value, every other key as before. -/
@[simp] theorem Sparse.get_set [DecidableEq κ] [DecidableEq α] (ord : κ → Nat) (d : α) (m : List (κ × α)) (q k : κ) (x : α) :
    Sparse.get d (Sparse.set ord d m q x) k = if k = q then x else Sparse.get d m k := by
  unfold Sparse.set
  split
  · rename_i h; rw [Sparse.get_drop]; split
    · exact h.symm
    · rfl
  · rw [Sparse.get_insert ord d _ q k x (fun e he => ((Sparse.mem_drop m q e).mp he).2), Sparse.get_drop]
    split <;> simp_all

/-- A read of another key with another default. -/
theorem Sparse.get_set_ne [DecidableEq κ] [DecidableEq α] (ord : κ → Nat) (d d' : α) (m : List (κ × α)) (q k : κ) (x : α)
    (h : k ≠ q) : Sparse.get d' (Sparse.set ord d m q x) k = Sparse.get d' m k := by
  unfold Sparse.set
  split
  · rw [Sparse.get_drop, if_neg h]
  · rw [Sparse.get_insert ord d' _ q k x (fun e he => ((Sparse.mem_drop m q e).mp he).2), if_neg h, Sparse.get_drop, if_neg h]

theorem Sparse.wf_filter [DecidableEq α] (ord : κ → Nat) (d : κ → α) (m : List (κ × α)) (p : κ × α → Bool)
    (h : Sparse.wf ord d m = true) : Sparse.wf ord d (m.filter p) = true := by
  induction m with
  | nil => simp [Sparse.wf]
  | cons e m ih =>
    obtain ⟨a, v⟩ := e
    simp only [Sparse.wf, Bool.and_eq_true, List.all_eq_true, decide_eq_true_eq] at h
    rw [List.filter_cons]
    split
    · simp only [Sparse.wf, Bool.and_eq_true, List.all_eq_true, decide_eq_true_eq]
      exact ⟨⟨h.1.1, fun x hx => h.1.2 x (List.mem_of_mem_filter hx)⟩, ih h.2⟩
    · exact ih h.2

theorem Sparse.drop_eq_filter [DecidableEq κ] (m : List (κ × α)) (q : κ) :
    Sparse.drop m q = m.filter (fun e => decide (q ≠ e.1)) := by
  induction m with
  | nil => rfl
  | cons e m ih =>
    by_cases h : q = e.1
    · subst h; simpa [Sparse.drop] using ih
    · simp [Sparse.drop, h, ih]

theorem Sparse.wf_insert [DecidableEq α] (ord : κ → Nat) (hinj : Function.Injective ord) (d : κ → α)
    (m : List (κ × α)) (q : κ) (x : α) (hx : x ≠ d q) (hq : ∀ e ∈ m, e.1 ≠ q) (h : Sparse.wf ord d m = true) :
    Sparse.wf ord d (Sparse.insert ord m q x) = true := by
  have hmem : ∀ (m : List (κ × α)) (e : κ × α), e ∈ Sparse.insert ord m q x → e = (q, x) ∨ e ∈ m := by
    intro m
    induction m with
    | nil => intro e he; simpa [Sparse.insert] using he
    | cons a m ih =>
      intro e he
      simp only [Sparse.insert] at he
      split at he
      · rcases List.mem_cons.mp he with h | h
        · exact .inl h
        · exact .inr h
      · rcases List.mem_cons.mp he with h | h
        · exact .inr (by rw [h]; exact List.mem_cons_self)
        · rcases ih e h with h | h
          · exact .inl h
          · exact .inr (List.mem_cons_of_mem _ h)
  induction m with
  | nil => simp [Sparse.insert, Sparse.wf, hx]
  | cons a m ih =>
    obtain ⟨k, v⟩ := a
    have h0 := h
    simp only [Sparse.wf, Bool.and_eq_true, List.all_eq_true, decide_eq_true_eq] at h
    simp only [Sparse.insert]
    split
    · rename_i ho
      simp only [Sparse.wf, Bool.and_eq_true, List.all_eq_true, decide_eq_true_eq]
      refine ⟨⟨by simpa using hx, fun e he => ?_⟩, h⟩
      rcases List.mem_cons.mp he with h' | h'
      · rw [h']; exact ho
      · exact lt_trans ho (h.1.2 e h')
    · rename_i ho
      have hne : ord k ≠ ord q := fun hh => hq (k, v) (by simp) (hinj hh)
      have hlt : ord k < ord q := by omega
      simp only [Sparse.wf, Bool.and_eq_true, List.all_eq_true, decide_eq_true_eq]
      refine ⟨⟨h.1.1, fun e he => ?_⟩, ih (fun e he => hq e (by simp [he])) h.2⟩
      rcases hmem m e he with h' | h'
      · rw [h']; exact hlt
      · exact h.1.2 e h'

/-- A write keeps the canonical form. -/
theorem Sparse.wf_set [DecidableEq κ] [DecidableEq α] (ord : κ → Nat) (hinj : Function.Injective ord) (d : κ → α)
    (m : List (κ × α)) (q : κ) (x : α) (h : Sparse.wf ord d m = true) :
    Sparse.wf ord d (Sparse.set ord (d q) m q x) = true := by
  unfold Sparse.set
  have hd : Sparse.wf ord d (Sparse.drop m q) = true := by
    rw [Sparse.drop_eq_filter]; exact Sparse.wf_filter ord d m _ h
  split
  · exact hd
  · rename_i hx
    exact Sparse.wf_insert ord hinj d _ q x hx (fun e he => ((Sparse.mem_drop m q e).mp he).2) hd

end Sys2Proof.Machine
end

