-- ==== Sys2Proof/Laws/State.lean ====
section
/-! SUPPORT. The laws of the state's plainest operations: what each leaves alone, field by field, and what a register or a
field reads after it. -/

namespace Sys2Proof.Machine

/-! ## Register operations leave the rest of the state alone -/

@[simp] theorem State.setReg_pending (s : State) (r : Reg) (v : Word) : (s.setReg r v).pending = s.pending := rfl
@[simp] theorem State.setReg_mem (s : State) (r : Reg) (v : Word) : (s.setReg r v).mem = s.mem := rfl
@[simp] theorem State.setReg_errs (s : State) (r : Reg) (v : Word) : (s.setReg r v).errs = s.errs := rfl
@[simp] theorem State.setReg_spad (s : State) (r : Reg) (v : Word) : (s.setReg r v).spad = s.spad := rfl
@[simp] theorem State.setReg_acc (s : State) (r : Reg) (v : Word) : (s.setReg r v).acc = s.acc := rfl
@[simp] theorem State.setReg_coh (s : State) (r : Reg) (v : Word) : (s.setReg r v).coh = s.coh := rfl
@[simp] theorem State.setReg_xl (s : State) (r : Reg) (v : Word) : (s.setReg r v).xl = s.xl := rfl
@[simp] theorem State.setReg_sch (s : State) (r : Reg) (v : Word) : (s.setReg r v).sch = s.sch := rfl
@[simp] theorem State.setReg_eng (s : State) (r : Reg) (v : Word) : (s.setReg r v).eng = s.eng := rfl
@[simp] theorem State.setReg_plat (s : State) (r : Reg) (v : Word) : (s.setReg r v).plat = s.plat := rfl
@[simp] theorem State.setReg_rep (s : State) (r : Reg) (v : Word) : (s.setReg r v).rep = s.rep := rfl
@[simp] theorem State.setReg_sec (s : State) (r : Reg) (v : Word) : (s.setReg r v).sec = s.sec := rfl
@[simp] theorem State.setReg_host (s : State) (r : Reg) (v : Word) : (s.setReg r v).host = s.host := rfl
@[simp] theorem State.setReg_pcie (s : State) (r : Reg) (v : Word) : (s.setReg r v).pcie = s.pcie := rfl
@[simp] theorem State.setReg_time (s : State) (r : Reg) (v : Word) : (s.setReg r v).time = s.time := rfl
@[simp] theorem State.setReg_opt (s : State) (r : Reg) (v : Word) : (s.setReg r v).opt = s.opt := rfl
@[simp] theorem State.setReg_slots (s : State) (r : Reg) (v : Word) : (s.setReg r v).slots = s.slots := rfl
@[simp] theorem State.setReg_fresh (s : State) (r : Reg) (v : Word) : (s.setReg r v).fresh = s.fresh := rfl

@[simp] theorem State.setFld_pending (s : State) (r : Reg) (f : Fld) (n : Nat) : (s.setFld r f n).pending = s.pending := rfl
@[simp] theorem State.setFld_mem (s : State) (r : Reg) (f : Fld) (n : Nat) : (s.setFld r f n).mem = s.mem := rfl
@[simp] theorem State.setFld_errs (s : State) (r : Reg) (f : Fld) (n : Nat) : (s.setFld r f n).errs = s.errs := rfl
@[simp] theorem State.setFld_spad (s : State) (r : Reg) (f : Fld) (n : Nat) : (s.setFld r f n).spad = s.spad := rfl
@[simp] theorem State.setFld_acc (s : State) (r : Reg) (f : Fld) (n : Nat) : (s.setFld r f n).acc = s.acc := rfl
@[simp] theorem State.setFld_coh (s : State) (r : Reg) (f : Fld) (n : Nat) : (s.setFld r f n).coh = s.coh := rfl
@[simp] theorem State.setFld_xl (s : State) (r : Reg) (f : Fld) (n : Nat) : (s.setFld r f n).xl = s.xl := rfl
@[simp] theorem State.setFld_sch (s : State) (r : Reg) (f : Fld) (n : Nat) : (s.setFld r f n).sch = s.sch := rfl
@[simp] theorem State.setFld_eng (s : State) (r : Reg) (f : Fld) (n : Nat) : (s.setFld r f n).eng = s.eng := rfl
@[simp] theorem State.setFld_plat (s : State) (r : Reg) (f : Fld) (n : Nat) : (s.setFld r f n).plat = s.plat := rfl
@[simp] theorem State.setFld_rep (s : State) (r : Reg) (f : Fld) (n : Nat) : (s.setFld r f n).rep = s.rep := rfl
@[simp] theorem State.setFld_sec (s : State) (r : Reg) (f : Fld) (n : Nat) : (s.setFld r f n).sec = s.sec := rfl
@[simp] theorem State.setFld_host (s : State) (r : Reg) (f : Fld) (n : Nat) : (s.setFld r f n).host = s.host := rfl
@[simp] theorem State.setFld_pcie (s : State) (r : Reg) (f : Fld) (n : Nat) : (s.setFld r f n).pcie = s.pcie := rfl
@[simp] theorem State.setFld_time (s : State) (r : Reg) (f : Fld) (n : Nat) : (s.setFld r f n).time = s.time := rfl
@[simp] theorem State.setFld_opt (s : State) (r : Reg) (f : Fld) (n : Nat) : (s.setFld r f n).opt = s.opt := rfl
@[simp] theorem State.setFld_slots (s : State) (r : Reg) (f : Fld) (n : Nat) : (s.setFld r f n).slots = s.slots := rfl
@[simp] theorem State.setFld_fresh (s : State) (r : Reg) (f : Fld) (n : Nat) : (s.setFld r f n).fresh = s.fresh := rfl

@[simp] theorem State.addFld_pending (s : State) (r : Reg) (f : Fld) (n : Nat) : (s.addFld r f n).pending = s.pending := rfl
@[simp] theorem State.addFld_mem (s : State) (r : Reg) (f : Fld) (n : Nat) : (s.addFld r f n).mem = s.mem := rfl
@[simp] theorem State.addFld_errs (s : State) (r : Reg) (f : Fld) (n : Nat) : (s.addFld r f n).errs = s.errs := rfl
@[simp] theorem State.addFld_spad (s : State) (r : Reg) (f : Fld) (n : Nat) : (s.addFld r f n).spad = s.spad := rfl
@[simp] theorem State.addFld_acc (s : State) (r : Reg) (f : Fld) (n : Nat) : (s.addFld r f n).acc = s.acc := rfl
@[simp] theorem State.addFld_coh (s : State) (r : Reg) (f : Fld) (n : Nat) : (s.addFld r f n).coh = s.coh := rfl
@[simp] theorem State.addFld_xl (s : State) (r : Reg) (f : Fld) (n : Nat) : (s.addFld r f n).xl = s.xl := rfl
@[simp] theorem State.addFld_sch (s : State) (r : Reg) (f : Fld) (n : Nat) : (s.addFld r f n).sch = s.sch := rfl
@[simp] theorem State.addFld_eng (s : State) (r : Reg) (f : Fld) (n : Nat) : (s.addFld r f n).eng = s.eng := rfl
@[simp] theorem State.addFld_plat (s : State) (r : Reg) (f : Fld) (n : Nat) : (s.addFld r f n).plat = s.plat := rfl
@[simp] theorem State.addFld_rep (s : State) (r : Reg) (f : Fld) (n : Nat) : (s.addFld r f n).rep = s.rep := rfl
@[simp] theorem State.addFld_sec (s : State) (r : Reg) (f : Fld) (n : Nat) : (s.addFld r f n).sec = s.sec := rfl
@[simp] theorem State.addFld_host (s : State) (r : Reg) (f : Fld) (n : Nat) : (s.addFld r f n).host = s.host := rfl
@[simp] theorem State.addFld_pcie (s : State) (r : Reg) (f : Fld) (n : Nat) : (s.addFld r f n).pcie = s.pcie := rfl
@[simp] theorem State.addFld_time (s : State) (r : Reg) (f : Fld) (n : Nat) : (s.addFld r f n).time = s.time := rfl
@[simp] theorem State.addFld_opt (s : State) (r : Reg) (f : Fld) (n : Nat) : (s.addFld r f n).opt = s.opt := rfl
@[simp] theorem State.addFld_slots (s : State) (r : Reg) (f : Fld) (n : Nat) : (s.addFld r f n).slots = s.slots := rfl
@[simp] theorem State.addFld_fresh (s : State) (r : Reg) (f : Fld) (n : Nat) : (s.addFld r f n).fresh = s.fresh := rfl

@[simp] theorem State.satFld_pending (s : State) (r : Reg) (f : Fld) (n : Nat) : (s.satFld r f n).pending = s.pending := rfl
@[simp] theorem State.satFld_mem (s : State) (r : Reg) (f : Fld) (n : Nat) : (s.satFld r f n).mem = s.mem := rfl
@[simp] theorem State.satFld_errs (s : State) (r : Reg) (f : Fld) (n : Nat) : (s.satFld r f n).errs = s.errs := rfl
@[simp] theorem State.satFld_spad (s : State) (r : Reg) (f : Fld) (n : Nat) : (s.satFld r f n).spad = s.spad := rfl
@[simp] theorem State.satFld_acc (s : State) (r : Reg) (f : Fld) (n : Nat) : (s.satFld r f n).acc = s.acc := rfl
@[simp] theorem State.satFld_coh (s : State) (r : Reg) (f : Fld) (n : Nat) : (s.satFld r f n).coh = s.coh := rfl
@[simp] theorem State.satFld_xl (s : State) (r : Reg) (f : Fld) (n : Nat) : (s.satFld r f n).xl = s.xl := rfl
@[simp] theorem State.satFld_sch (s : State) (r : Reg) (f : Fld) (n : Nat) : (s.satFld r f n).sch = s.sch := rfl
@[simp] theorem State.satFld_eng (s : State) (r : Reg) (f : Fld) (n : Nat) : (s.satFld r f n).eng = s.eng := rfl
@[simp] theorem State.satFld_plat (s : State) (r : Reg) (f : Fld) (n : Nat) : (s.satFld r f n).plat = s.plat := rfl
@[simp] theorem State.satFld_rep (s : State) (r : Reg) (f : Fld) (n : Nat) : (s.satFld r f n).rep = s.rep := rfl
@[simp] theorem State.satFld_sec (s : State) (r : Reg) (f : Fld) (n : Nat) : (s.satFld r f n).sec = s.sec := rfl
@[simp] theorem State.satFld_host (s : State) (r : Reg) (f : Fld) (n : Nat) : (s.satFld r f n).host = s.host := rfl
@[simp] theorem State.satFld_pcie (s : State) (r : Reg) (f : Fld) (n : Nat) : (s.satFld r f n).pcie = s.pcie := rfl
@[simp] theorem State.satFld_time (s : State) (r : Reg) (f : Fld) (n : Nat) : (s.satFld r f n).time = s.time := rfl
@[simp] theorem State.satFld_opt (s : State) (r : Reg) (f : Fld) (n : Nat) : (s.satFld r f n).opt = s.opt := rfl
@[simp] theorem State.satFld_slots (s : State) (r : Reg) (f : Fld) (n : Nat) : (s.satFld r f n).slots = s.slots := rfl
@[simp] theorem State.satFld_fresh (s : State) (r : Reg) (f : Fld) (n : Nat) : (s.satFld r f n).fresh = s.fresh := rfl

@[simp] theorem State.setBit_pending (s : State) (r : Reg) (i : Nat) (b : Bool) : (s.setBit r i b).pending = s.pending := rfl
@[simp] theorem State.setBit_mem (s : State) (r : Reg) (i : Nat) (b : Bool) : (s.setBit r i b).mem = s.mem := rfl
@[simp] theorem State.setBit_errs (s : State) (r : Reg) (i : Nat) (b : Bool) : (s.setBit r i b).errs = s.errs := rfl
@[simp] theorem State.setBit_spad (s : State) (r : Reg) (i : Nat) (b : Bool) : (s.setBit r i b).spad = s.spad := rfl
@[simp] theorem State.setBit_acc (s : State) (r : Reg) (i : Nat) (b : Bool) : (s.setBit r i b).acc = s.acc := rfl
@[simp] theorem State.setBit_coh (s : State) (r : Reg) (i : Nat) (b : Bool) : (s.setBit r i b).coh = s.coh := rfl
@[simp] theorem State.setBit_xl (s : State) (r : Reg) (i : Nat) (b : Bool) : (s.setBit r i b).xl = s.xl := rfl
@[simp] theorem State.setBit_sch (s : State) (r : Reg) (i : Nat) (b : Bool) : (s.setBit r i b).sch = s.sch := rfl
@[simp] theorem State.setBit_eng (s : State) (r : Reg) (i : Nat) (b : Bool) : (s.setBit r i b).eng = s.eng := rfl
@[simp] theorem State.setBit_plat (s : State) (r : Reg) (i : Nat) (b : Bool) : (s.setBit r i b).plat = s.plat := rfl
@[simp] theorem State.setBit_rep (s : State) (r : Reg) (i : Nat) (b : Bool) : (s.setBit r i b).rep = s.rep := rfl
@[simp] theorem State.setBit_sec (s : State) (r : Reg) (i : Nat) (b : Bool) : (s.setBit r i b).sec = s.sec := rfl
@[simp] theorem State.setBit_host (s : State) (r : Reg) (i : Nat) (b : Bool) : (s.setBit r i b).host = s.host := rfl
@[simp] theorem State.setBit_pcie (s : State) (r : Reg) (i : Nat) (b : Bool) : (s.setBit r i b).pcie = s.pcie := rfl
@[simp] theorem State.setBit_time (s : State) (r : Reg) (i : Nat) (b : Bool) : (s.setBit r i b).time = s.time := rfl
@[simp] theorem State.setBit_opt (s : State) (r : Reg) (i : Nat) (b : Bool) : (s.setBit r i b).opt = s.opt := rfl
@[simp] theorem State.setBit_slots (s : State) (r : Reg) (i : Nat) (b : Bool) : (s.setBit r i b).slots = s.slots := rfl
@[simp] theorem State.setBit_fresh (s : State) (r : Reg) (i : Nat) (b : Bool) : (s.setBit r i b).fresh = s.fresh := rfl

@[simp] theorem State.resetPages_pending (s : State) (p : Reg → Bool) : (s.resetPages p).pending = s.pending := rfl
@[simp] theorem State.resetPages_mem (s : State) (p : Reg → Bool) : (s.resetPages p).mem = s.mem := rfl
@[simp] theorem State.resetPages_errs (s : State) (p : Reg → Bool) : (s.resetPages p).errs = s.errs := rfl
@[simp] theorem State.resetPages_spad (s : State) (p : Reg → Bool) : (s.resetPages p).spad = s.spad := rfl
@[simp] theorem State.resetPages_acc (s : State) (p : Reg → Bool) : (s.resetPages p).acc = s.acc := rfl
@[simp] theorem State.resetPages_coh (s : State) (p : Reg → Bool) : (s.resetPages p).coh = s.coh := rfl
@[simp] theorem State.resetPages_xl (s : State) (p : Reg → Bool) : (s.resetPages p).xl = s.xl := rfl
@[simp] theorem State.resetPages_sch (s : State) (p : Reg → Bool) : (s.resetPages p).sch = s.sch := rfl
@[simp] theorem State.resetPages_eng (s : State) (p : Reg → Bool) : (s.resetPages p).eng = s.eng := rfl
@[simp] theorem State.resetPages_plat (s : State) (p : Reg → Bool) : (s.resetPages p).plat = s.plat := rfl
@[simp] theorem State.resetPages_rep (s : State) (p : Reg → Bool) : (s.resetPages p).rep = s.rep := rfl
@[simp] theorem State.resetPages_sec (s : State) (p : Reg → Bool) : (s.resetPages p).sec = s.sec := rfl
@[simp] theorem State.resetPages_host (s : State) (p : Reg → Bool) : (s.resetPages p).host = s.host := rfl
@[simp] theorem State.resetPages_pcie (s : State) (p : Reg → Bool) : (s.resetPages p).pcie = s.pcie := rfl
@[simp] theorem State.resetPages_time (s : State) (p : Reg → Bool) : (s.resetPages p).time = s.time := rfl
@[simp] theorem State.resetPages_opt (s : State) (p : Reg → Bool) : (s.resetPages p).opt = s.opt := rfl
@[simp] theorem State.resetPages_slots (s : State) (p : Reg → Bool) : (s.resetPages p).slots = s.slots := rfl
@[simp] theorem State.resetPages_fresh (s : State) (p : Reg → Bool) : (s.resetPages p).fresh = s.fresh := rfl

/-! ## Raising an interrupt bit leaves all but the register and the messages due alone -/

@[simp] theorem State.raise_pending (s : State) (p : Page) (i b : Nat) : (s.raise p i b).pending = s.pending := by
  simp only [State.raise, State.irqChange]; split <;> rfl
@[simp] theorem State.raise_mem (s : State) (p : Page) (i b : Nat) : (s.raise p i b).mem = s.mem := by
  simp only [State.raise, State.irqChange]; split <;> rfl
@[simp] theorem State.raise_errs (s : State) (p : Page) (i b : Nat) : (s.raise p i b).errs = s.errs := by
  simp only [State.raise, State.irqChange]; split <;> rfl
@[simp] theorem State.raise_spad (s : State) (p : Page) (i b : Nat) : (s.raise p i b).spad = s.spad := by
  simp only [State.raise, State.irqChange]; split <;> rfl
@[simp] theorem State.raise_acc (s : State) (p : Page) (i b : Nat) : (s.raise p i b).acc = s.acc := by
  simp only [State.raise, State.irqChange]; split <;> rfl
@[simp] theorem State.raise_coh (s : State) (p : Page) (i b : Nat) : (s.raise p i b).coh = s.coh := by
  simp only [State.raise, State.irqChange]; split <;> rfl
@[simp] theorem State.raise_xl (s : State) (p : Page) (i b : Nat) : (s.raise p i b).xl = s.xl := by
  simp only [State.raise, State.irqChange]; split <;> rfl
@[simp] theorem State.raise_sch (s : State) (p : Page) (i b : Nat) : (s.raise p i b).sch = s.sch := by
  simp only [State.raise, State.irqChange]; split <;> rfl
@[simp] theorem State.raise_eng (s : State) (p : Page) (i b : Nat) : (s.raise p i b).eng = s.eng := by
  simp only [State.raise, State.irqChange]; split <;> rfl
@[simp] theorem State.raise_plat (s : State) (p : Page) (i b : Nat) : (s.raise p i b).plat = s.plat := by
  simp only [State.raise, State.irqChange]; split <;> rfl
@[simp] theorem State.raise_rep (s : State) (p : Page) (i b : Nat) : (s.raise p i b).rep = s.rep := by
  simp only [State.raise, State.irqChange]; split <;> rfl
@[simp] theorem State.raise_sec (s : State) (p : Page) (i b : Nat) : (s.raise p i b).sec = s.sec := by
  simp only [State.raise, State.irqChange]; split <;> rfl
@[simp] theorem State.raise_pcie (s : State) (p : Page) (i b : Nat) : (s.raise p i b).pcie = s.pcie := by
  simp only [State.raise, State.irqChange]; split <;> rfl
@[simp] theorem State.raise_time (s : State) (p : Page) (i b : Nat) : (s.raise p i b).time = s.time := by
  simp only [State.raise, State.irqChange]; split <;> rfl
@[simp] theorem State.raise_opt (s : State) (p : Page) (i b : Nat) : (s.raise p i b).opt = s.opt := by
  simp only [State.raise, State.irqChange]; split <;> rfl
@[simp] theorem State.raise_slots (s : State) (p : Page) (i b : Nat) : (s.raise p i b).slots = s.slots := by
  simp only [State.raise, State.irqChange]; split <;> rfl
@[simp] theorem State.raise_fresh (s : State) (p : Page) (i b : Nat) : (s.raise p i b).fresh = s.fresh := by
  simp only [State.raise, State.irqChange]; split <;> rfl

/-! ## What registers read -/

/-- A register reads what was written; every other register reads as before. -/
theorem State.reg_setReg (s : State) (r q : Reg) (v : Word) : (s.setReg r v).reg q = if q = r then v else s.reg q := by
  unfold State.reg State.setReg
  by_cases h : q = r
  · subst h; simp
  · simp only [if_neg h]; exact Sparse.get_set_ne _ _ _ _ _ _ _ h

@[simp] theorem State.reg_setReg_same (s : State) (r : Reg) (v : Word) : (s.setReg r v).reg r = v := by
  simp [State.reg_setReg]

theorem State.reg_setReg_ne (s : State) (r q : Reg) (v : Word) (h : q ≠ r) : (s.setReg r v).reg q = s.reg q := by
  simp [State.reg_setReg, h]

@[simp] theorem State.reg_setFld_same (s : State) (r : Reg) (f : Fld) (n : Nat) :
    (s.setFld r f n).reg r = f.put (s.reg r) n := by simp [State.setFld]

theorem State.reg_setFld_ne (s : State) (r q : Reg) (f : Fld) (n : Nat) (h : q ≠ r) :
    (s.setFld r f n).reg q = s.reg q := State.reg_setReg_ne _ _ _ _ h

/-- A field reads as it was set, modulo its range. -/
theorem State.fld_setFld_same (s : State) (r : Reg) (f : Fld) (n : Nat) (h : f.ok = true) :
    (s.setFld r f n).fld r f = n % 2 ^ f.width := by simp [State.fld, h]

theorem State.fld_setFld_ne (s : State) (r q : Reg) (f g : Fld) (n : Nat) (h : q ≠ r) :
    (s.setFld r f n).fld q g = s.fld q g := by simp [State.fld, State.reg_setFld_ne _ _ _ _ _ h]

theorem State.fld_setFld_apart (s : State) (r : Reg) (f g : Fld) (n : Nat) (hf : f.ok = true) (hg : g.ok = true)
    (h : f.apart g = true) : (s.setFld r f n).fld r g = s.fld r g := by
  simp [State.fld, Fld.get_put_apart f g hf hg h]

theorem State.reg_raise (s : State) (p : Page) (i b : Nat) (q : Reg) :
    (s.raise p i b).reg q = (s.setBit (R.irqSts p i) b true).reg q := by
  simp only [State.raise, State.irqChange]; split <;> rfl

theorem State.reg_raise_ne (s : State) (p : Page) (i b : Nat) (q : Reg) (h : q ≠ R.irqSts p i) :
    (s.raise p i b).reg q = s.reg q := by
  rw [State.reg_raise, State.setBit, State.reg_setFld_ne _ _ _ _ _ h]

/-- A raised bit of IRQ_STS reads 1. -/
theorem State.irq_raise (s : State) (p : Page) (i b : Nat) (h : b < 64) :
    (s.raise p i b).fld (R.irqSts p i) ⟨b, b⟩ = 1 := by
  have hok : Fld.ok ⟨b, b⟩ = true := by simp [Fld.ok, h]
  simp [State.fld, State.reg_raise, State.setBit, hok, Fld.width, bitNat]

/-- A register reads the same in a state with the same register file. -/
theorem State.reg_congr (s t : State) (r : Reg) (h : t.regs = s.regs) : t.reg r = s.reg r := by
  simp [State.reg, h]

theorem State.reg_filter (s : State) (p : Reg × Word → Bool) (r : Reg) (h : ∀ v, p (r, v) = true) :
    Sparse.get r.reset (s.regs.filter p) r = s.reg r := by
  unfold State.reg
  induction s.regs with
  | nil => rfl
  | cons e m ih =>
    obtain ⟨k, v⟩ := e
    by_cases hk : r = k
    · subst hk; simp [h, Sparse.get]
    · rw [List.filter_cons]; split <;> simp [Sparse.get, hk, ih]

end Sys2Proof.Machine
end

