-- ==== Sys2Proof/Laws/Engines.lean ====
section
/-! SUPPORT. The laws of lists with one value a key, and of the plainest operations on a unit's engines, on issued commands
and on cached lines: what each leaves alone, and what is read after it. -/

namespace Sys2Proof.Machine

/-! ## Lists with one value a key -/

theorem lookupKey_cons {α : Type} (e : Nat × α) (m : List (Nat × α)) (q : Nat) :
    lookupKey (e :: m) q = if e.1 = q then some e.2 else lookupKey m q := by
  by_cases h : e.1 = q <;> simp [lookupKey, h]

@[simp] theorem lookupKey_eraseKey {α : Type} (m : List (Nat × α)) (k q : Nat) :
    lookupKey (eraseKey m k) q = if q = k then none else lookupKey m q := by
  induction m with
  | nil => simp [lookupKey, eraseKey, Sparse.drop]
  | cons e m ih =>
    obtain ⟨a, v⟩ := e
    by_cases h : k = a <;> simp_all [eraseKey, Sparse.drop, lookupKey_cons] <;> split <;> simp_all <;> omega

theorem lookupKey_place {α : Type} (m : List (Nat × α)) (k q : Nat) (v : α) (h : ∀ e ∈ m, e.1 ≠ k) :
    lookupKey (Sparse.insert id m k v) q = if q = k then some v else lookupKey m q := by
  induction m with
  | nil => by_cases hq : q = k <;> simp_all [lookupKey, Sparse.insert, eq_comm]
  | cons e m ih =>
    have hk : e.1 ≠ k := h e (by simp)
    have ih := ih (fun x hx => h x (by simp [hx]))
    by_cases ho : k < e.1
    · by_cases hq : q = k <;> simp_all [Sparse.insert, lookupKey_cons, eq_comm]
    · have hi : Sparse.insert id (e :: m) k v = e :: Sparse.insert id m k v := by simp [Sparse.insert, ho]
      by_cases hq : q = k <;> simp_all [lookupKey_cons]

@[simp] theorem lookupKey_insertKey {α : Type} (m : List (Nat × α)) (k q : Nat) (v : α) :
    lookupKey (insertKey m k v) q = if q = k then some v else lookupKey m q := by
  rw [insertKey, lookupKey_place _ _ _ _ (fun e he => ((Sparse.mem_drop m k e).mp he).2), ← eraseKey, lookupKey_eraseKey]
  split <;> rfl

/-! ## A unit's engines -/

@[simp] theorem State.unitEng_setEng (s : State) (u v : Nat) (e : UnitEng) :
    (s.setEng u e).unitEng v = if v = u then e else s.unitEng v := by
  simp [State.setEng, State.unitEng]

@[simp] theorem State.unitCyc_setEng (s : State) (u v : Nat) (e : UnitEng) :
    (s.setEng u e).unitCyc v = if v = u then e.cyc else s.unitCyc v := by
  by_cases h : v = u <;> simp [State.unitCyc, h]

@[simp] theorem State.setEng_pending (s : State) (u : Nat) (e : UnitEng) : (s.setEng u e).pending = s.pending := rfl
@[simp] theorem State.setEng_regs (s : State) (u : Nat) (e : UnitEng) : (s.setEng u e).regs = s.regs := rfl
@[simp] theorem State.setEng_mem (s : State) (u : Nat) (e : UnitEng) : (s.setEng u e).mem = s.mem := rfl
@[simp] theorem State.setEng_errs (s : State) (u : Nat) (e : UnitEng) : (s.setEng u e).errs = s.errs := rfl
@[simp] theorem State.setEng_spad (s : State) (u : Nat) (e : UnitEng) : (s.setEng u e).spad = s.spad := rfl
@[simp] theorem State.setEng_acc (s : State) (u : Nat) (e : UnitEng) : (s.setEng u e).acc = s.acc := rfl
@[simp] theorem State.setEng_coh (s : State) (u : Nat) (e : UnitEng) : (s.setEng u e).coh = s.coh := rfl
@[simp] theorem State.setEng_xl (s : State) (u : Nat) (e : UnitEng) : (s.setEng u e).xl = s.xl := rfl
@[simp] theorem State.setEng_sch (s : State) (u : Nat) (e : UnitEng) : (s.setEng u e).sch = s.sch := rfl
@[simp] theorem State.setEng_plat (s : State) (u : Nat) (e : UnitEng) : (s.setEng u e).plat = s.plat := rfl
@[simp] theorem State.setEng_rep (s : State) (u : Nat) (e : UnitEng) : (s.setEng u e).rep = s.rep := rfl
@[simp] theorem State.setEng_sec (s : State) (u : Nat) (e : UnitEng) : (s.setEng u e).sec = s.sec := rfl
@[simp] theorem State.setEng_host (s : State) (u : Nat) (e : UnitEng) : (s.setEng u e).host = s.host := rfl
@[simp] theorem State.setEng_pcie (s : State) (u : Nat) (e : UnitEng) : (s.setEng u e).pcie = s.pcie := rfl
@[simp] theorem State.setEng_time (s : State) (u : Nat) (e : UnitEng) : (s.setEng u e).time = s.time := rfl
@[simp] theorem State.setEng_opt (s : State) (u : Nat) (e : UnitEng) : (s.setEng u e).opt = s.opt := rfl
@[simp] theorem State.setEng_slots (s : State) (u : Nat) (e : UnitEng) : (s.setEng u e).slots = s.slots := rfl
@[simp] theorem State.setEng_fresh (s : State) (u : Nat) (e : UnitEng) : (s.setEng u e).fresh = s.fresh := rfl

/-- The cycles of a unit with nothing to do pass without an effect but the count. -/
theorem State.cycles_idle (s : State) (u n : Nat) (h : s.unitIdle u = true) :
    s.cycles u (n + 1) = s.setEng u { s.unitEng u with cyc := s.unitCyc u + (n + 1) } := by
  simp [State.cycles, h]

/-- A unit with something to do goes on by one cycle. -/
theorem State.cycles_busy (s : State) (u n : Nat) (h : s.unitIdle u = false) :
    s.cycles u (n + 1) = (s.cycle u).cycles u n := by
  simp [State.cycles, h]

/-- A row that names a cycle already passed changes no cycle of the unit. -/
theorem State.atCycle_past (s : State) (u c : Nat) (h : c ≤ s.unitCyc u) : s.atCycle u c = s.syncOwn u := by
  simp [State.atCycle, Nat.sub_eq_zero_of_le h, State.cycles]

/-! ## Issued commands -/

@[simp] theorem State.setFlight_pending (s : State) (u q n : Nat) (g : Flight → Flight) :
    (s.setFlight u q n g).pending = s.pending := rfl
@[simp] theorem State.setFlight_regs (s : State) (u q n : Nat) (g : Flight → Flight) :
    (s.setFlight u q n g).regs = s.regs := rfl
@[simp] theorem State.setFlight_mem (s : State) (u q n : Nat) (g : Flight → Flight) :
    (s.setFlight u q n g).mem = s.mem := rfl
@[simp] theorem State.setFlight_errs (s : State) (u q n : Nat) (g : Flight → Flight) :
    (s.setFlight u q n g).errs = s.errs := rfl
@[simp] theorem State.setFlight_spad (s : State) (u q n : Nat) (g : Flight → Flight) :
    (s.setFlight u q n g).spad = s.spad := rfl
@[simp] theorem State.setFlight_acc (s : State) (u q n : Nat) (g : Flight → Flight) :
    (s.setFlight u q n g).acc = s.acc := rfl
@[simp] theorem State.setFlight_coh (s : State) (u q n : Nat) (g : Flight → Flight) :
    (s.setFlight u q n g).coh = s.coh := rfl
@[simp] theorem State.setFlight_xl (s : State) (u q n : Nat) (g : Flight → Flight) :
    (s.setFlight u q n g).xl = s.xl := rfl
@[simp] theorem State.setFlight_eng (s : State) (u q n : Nat) (g : Flight → Flight) :
    (s.setFlight u q n g).eng = s.eng := rfl
@[simp] theorem State.setFlight_plat (s : State) (u q n : Nat) (g : Flight → Flight) :
    (s.setFlight u q n g).plat = s.plat := rfl
@[simp] theorem State.setFlight_rep (s : State) (u q n : Nat) (g : Flight → Flight) :
    (s.setFlight u q n g).rep = s.rep := rfl
@[simp] theorem State.setFlight_sec (s : State) (u q n : Nat) (g : Flight → Flight) :
    (s.setFlight u q n g).sec = s.sec := rfl
@[simp] theorem State.setFlight_host (s : State) (u q n : Nat) (g : Flight → Flight) :
    (s.setFlight u q n g).host = s.host := rfl
@[simp] theorem State.setFlight_pcie (s : State) (u q n : Nat) (g : Flight → Flight) :
    (s.setFlight u q n g).pcie = s.pcie := rfl
@[simp] theorem State.setFlight_time (s : State) (u q n : Nat) (g : Flight → Flight) :
    (s.setFlight u q n g).time = s.time := rfl
@[simp] theorem State.setFlight_opt (s : State) (u q n : Nat) (g : Flight → Flight) :
    (s.setFlight u q n g).opt = s.opt := rfl
@[simp] theorem State.setFlight_slots (s : State) (u q n : Nat) (g : Flight → Flight) :
    (s.setFlight u q n g).slots = s.slots := rfl
@[simp] theorem State.setFlight_fresh (s : State) (u q n : Nat) (g : Flight → Flight) :
    (s.setFlight u q n g).fresh = s.fresh := rfl

/-! ## Cached lines -/

@[simp] theorem State.copy_setCopy (s : State) (a l b k : Nat) (c : Option CacheLine) :
    (s.setCopy a l c).copy b k = if lineKey b k = lineKey a l then c else s.copy b k := by
  cases c <;> simp [State.setCopy, State.copy]

@[simp] theorem State.setCopy_pending (s : State) (a l : Nat) (c : Option CacheLine) :
    (s.setCopy a l c).pending = s.pending := rfl
@[simp] theorem State.setCopy_regs (s : State) (a l : Nat) (c : Option CacheLine) : (s.setCopy a l c).regs = s.regs := rfl
@[simp] theorem State.setCopy_mem (s : State) (a l : Nat) (c : Option CacheLine) : (s.setCopy a l c).mem = s.mem := rfl
@[simp] theorem State.setCopy_errs (s : State) (a l : Nat) (c : Option CacheLine) : (s.setCopy a l c).errs = s.errs := rfl
@[simp] theorem State.setCopy_spad (s : State) (a l : Nat) (c : Option CacheLine) : (s.setCopy a l c).spad = s.spad := rfl
@[simp] theorem State.setCopy_acc (s : State) (a l : Nat) (c : Option CacheLine) : (s.setCopy a l c).acc = s.acc := rfl
@[simp] theorem State.setCopy_xl (s : State) (a l : Nat) (c : Option CacheLine) : (s.setCopy a l c).xl = s.xl := rfl
@[simp] theorem State.setCopy_sch (s : State) (a l : Nat) (c : Option CacheLine) : (s.setCopy a l c).sch = s.sch := rfl
@[simp] theorem State.setCopy_eng (s : State) (a l : Nat) (c : Option CacheLine) : (s.setCopy a l c).eng = s.eng := rfl
@[simp] theorem State.setCopy_plat (s : State) (a l : Nat) (c : Option CacheLine) : (s.setCopy a l c).plat = s.plat := rfl
@[simp] theorem State.setCopy_rep (s : State) (a l : Nat) (c : Option CacheLine) : (s.setCopy a l c).rep = s.rep := rfl
@[simp] theorem State.setCopy_sec (s : State) (a l : Nat) (c : Option CacheLine) : (s.setCopy a l c).sec = s.sec := rfl
@[simp] theorem State.setCopy_host (s : State) (a l : Nat) (c : Option CacheLine) : (s.setCopy a l c).host = s.host := rfl
@[simp] theorem State.setCopy_pcie (s : State) (a l : Nat) (c : Option CacheLine) : (s.setCopy a l c).pcie = s.pcie := rfl
@[simp] theorem State.setCopy_time (s : State) (a l : Nat) (c : Option CacheLine) : (s.setCopy a l c).time = s.time := rfl
@[simp] theorem State.setCopy_opt (s : State) (a l : Nat) (c : Option CacheLine) : (s.setCopy a l c).opt = s.opt := rfl
@[simp] theorem State.setCopy_slots (s : State) (a l : Nat) (c : Option CacheLine) : (s.setCopy a l c).slots = s.slots := rfl
@[simp] theorem State.setCopy_fresh (s : State) (a l : Nat) (c : Option CacheLine) : (s.setCopy a l c).fresh = s.fresh := rfl

end Sys2Proof.Machine
end

