-- ==== Sys2Proof/Laws/Regs.lean ====
section
/-! SUPPORT. The order of the register file: no two registers have one key, so every register operation keeps the file's
canonical form. -/

namespace Sys2Proof.Machine

theorem page_ctorIdx_inj (a b : Page) (h : a.ctorIdx = b.ctorIdx) : a = b := by
  cases a <;> cases b <;> first | rfl | (exact absurd h (by decide))

theorem regName_ctorIdx_inj (a b : RegName) (h : a.ctorIdx = b.ctorIdx) : a = b := by
  rw [← RegName.ofNat_ctorIdx a, ← RegName.ofNat_ctorIdx b, h]

/-- No two registers have one key. -/
theorem reg_key_inj : Function.Injective Reg.key := by
  intro a b h
  simp only [Reg.key, Nat.pair_eq_pair] at h
  obtain ⟨⟨h1, h2⟩, h3, h4⟩ := h
  have h1 := page_ctorIdx_inj _ _ h1
  have h3 := regName_ctorIdx_inj _ _ h3
  cases a; cases b; simp_all

/-- A register write keeps the register file's canonical form. -/
theorem State.setReg_regs_wf (s : State) (r : Reg) (v : Word) (h : Sparse.wf Reg.key Reg.reset s.regs = true) :
    Sparse.wf Reg.key Reg.reset (s.setReg r v).regs = true :=
  Sparse.wf_set Reg.key reg_key_inj Reg.reset s.regs r v h

/-- A reset of registers keeps it. -/
theorem State.resetPages_regs_wf (s : State) (p : Reg → Bool) (h : Sparse.wf Reg.key Reg.reset s.regs = true) :
    Sparse.wf Reg.key Reg.reset (s.resetPages p).regs = true :=
  Sparse.wf_filter Reg.key Reg.reset s.regs _ h

end Sys2Proof.Machine
end

