-- ==== Sys2Proof/Laws/Memory.lean ====
section
/-! SUPPORT. The laws of package memory and of the memories at the units: a read after a write, and that every memory
operation keeps the canonical form. -/

namespace Sys2Proof.Machine

theorem id_inj : Function.Injective (id : Nat → Nat) := fun _ _ h => h

theorem foldl_canonical {α : Type} (f : State → α → State) (l : List α) (s : State) (h : s.canonical)
    (hf : ∀ s a, State.canonical s → (f s a).canonical) : (l.foldl f s).canonical := by
  induction l generalizing s with
  | nil => exact h
  | cons a l ih => exact ih (f s a) (hf s a h)

/-- Reset memory is in canonical form. -/
theorem reset_mem_wf : Memory.wf State.reset.mem = true := rfl

/-! ## A read after a write -/

@[simp] theorem State.putByte_mem (s : State) (pa : Nat) (b : Byte) :
    (s.putByte pa b).mem = Sparse.set id 0 s.mem pa b := rfl
@[simp] theorem State.putByte_coh (s : State) (pa : Nat) (b : Byte) : (s.putByte pa b).coh = s.coh := rfl
@[simp] theorem State.putByte_errs (s : State) (pa : Nat) (b : Byte) : (s.putByte pa b).errs = s.errs := rfl
@[simp] theorem State.setErr_mem (s : State) (w : Nat) (m : BitVec 72) : (s.setErr w m).mem = s.mem := rfl
@[simp] theorem State.setErr_coh (s : State) (w : Nat) (m : BitVec 72) : (s.setErr w m).coh = s.coh := rfl
@[simp] theorem State.clearErrs_mem (s : State) (pa len : Nat) : (s.clearErrs pa len).mem = s.mem := rfl
@[simp] theorem State.clearErrs_coh (s : State) (pa len : Nat) : (s.clearErrs pa len).coh = s.coh := rfl

@[simp] theorem State.putBytes_coh (s : State) (pa : Nat) (bs : List Byte) : (s.putBytes pa bs).coh = s.coh := by
  induction bs generalizing s pa with
  | nil => rfl
  | cons b bs ih => simp [State.putBytes, ih]

@[simp] theorem State.putBytes_errs (s : State) (pa : Nat) (bs : List Byte) : (s.putBytes pa bs).errs = s.errs := by
  induction bs generalizing s pa with
  | nil => rfl
  | cons b bs ih => simp [State.putBytes, ih]

@[simp] theorem State.putBytes_regs (s : State) (pa : Nat) (bs : List Byte) : (s.putBytes pa bs).regs = s.regs := by
  induction bs generalizing s pa with
  | nil => rfl
  | cons b bs ih => simp [State.putBytes, ih, State.putByte]

/-- Bytes put into memory: an address among them reads its byte, every other address what it read before. -/
theorem State.putBytes_get (s : State) (pa a : Nat) (bs : List Byte) :
    Sparse.get 0 (s.putBytes pa bs).mem a
      = if pa ≤ a ∧ a < pa + bs.length then bs.getD (a - pa) 0 else Sparse.get 0 s.mem a := by
  induction bs generalizing s pa with
  | nil => simp only [State.putBytes, List.length_nil]; rw [if_neg (by omega)]
  | cons b bs ih =>
    simp only [State.putBytes, ih, State.putByte_mem, Sparse.get_set, List.length_cons]
    by_cases h1 : a = pa
    · subst h1
      rw [if_neg (by omega), if_pos rfl, if_pos ⟨le_refl _, by omega⟩]; simp
    · rw [if_neg h1]
      by_cases h2 : pa + 1 ≤ a ∧ a < pa + 1 + bs.length
      · rw [if_pos h2, if_pos ⟨by omega, by omega⟩]
        have : a - pa = (a - (pa + 1)) + 1 := by omega
        rw [this]; rfl
      · rw [if_neg h2, if_neg (by omega)]

/-- A stored byte of a line whose data is nowhere but at its home reads as memory holds it. -/
theorem State.rawByte_clean (s : State) (a : Nat) (h : s.liveLine (a / 128) = none) : s.rawByte a = Sparse.get 0 s.mem a := by
  unfold State.rawByte; rw [h]

theorem foldl_setErr_coh {α : Type} (g : α → Nat) (m : State → α → BitVec 72) (es : List α) (t : State) :
    (es.foldl (fun s e => s.setErr (g e) (m s e)) t).coh = t.coh := by
  induction es generalizing t with
  | nil => rfl
  | cons e es ih => simp only [List.foldl_cons]; rw [ih]; rfl

@[simp] theorem State.injFired_coh (s : State) (p : Page) (i : Nat) : (s.injFired p i).coh = s.coh := by
  unfold State.injFired
  split <;> rfl

@[simp] theorem State.strikeWords_coh (s : State) (p : Page) (i : Nat) (ws : List Nat) : (s.strikeWords p i ws).coh = s.coh := by
  unfold State.strikeWords
  simp only [State.injFired_coh]
  exact foldl_setErr_coh (fun w => w) (fun s w => Sparse.get 0 s.errs w ^^^ injMask _) _ _

theorem State.writeLineBack_coh (s : State) (l : Nat) (d : LineData) : (s.writeLineBack l d).coh = s.coh := by
  have h := foldl_setErr_coh (fun (e : Nat × BitVec 72) => l * 16 + e.1) (fun _ e => e.2) d.err
    { s.putBytes (l * 128) (natToBytes 128 d.bits.toNat) with
      errs := (s.putBytes (l * 128) (natToBytes 128 d.bits.toNat)).errs.filter (fun e => e.1 / 16 != l) }
  have hp := State.putBytes_coh s (l * 128) (natToBytes 128 d.bits.toNat)
  unfold State.writeLineBack
  split
  · rfl
  extract_lets s1 s2 s3
  have h3 : s3.coh = s.coh := h.trans hp
  split
  · rw [State.strikeWords_coh]; exact h3
  · exact h3

/-- After a line is recalled no cache holds it. -/
theorem State.recallLine_gone (s : State) (l : Nat) (e : Nat × CacheLine) (h : e ∈ (s.recallLine l).coh.lines) : e.1 / 64 ≠ l := by
  unfold State.recallLine at h
  simp only [List.mem_filter, bne_iff_ne] at h
  exact h.2

theorem State.recallLine_dirtyCopy (s : State) (l : Nat) : (s.recallLine l).dirtyCopy l = none := by
  unfold State.dirtyCopy
  simp only [Option.map_eq_none_iff, List.find?_eq_none]
  intro e he
  simp [State.recallLine_gone s l e he]

/-! ## The canonical form -/

theorem State.canonical_congr {s t : State} (h1 : t.regs = s.regs) (h2 : t.mem = s.mem) (h3 : t.errs = s.errs)
    (h4 : t.spad = s.spad) (h5 : t.acc = s.acc) (h : s.canonical) : t.canonical := by
  unfold State.canonical at *; rw [h1, h2, h3, h4, h5]; exact h

theorem State.setReg_canonical (s : State) (r : Reg) (v : Word) (h : s.canonical) : (s.setReg r v).canonical :=
  ⟨State.setReg_regs_wf s r v h.1, h.2⟩

theorem State.setFld_canonical (s : State) (r : Reg) (f : Fld) (n : Nat) (h : s.canonical) : (s.setFld r f n).canonical :=
  State.setReg_canonical s r _ h

theorem State.addFld_canonical (s : State) (r : Reg) (f : Fld) (n : Nat) (h : s.canonical) : (s.addFld r f n).canonical :=
  State.setFld_canonical s r f _ h

theorem State.satFld_canonical (s : State) (r : Reg) (f : Fld) (n : Nat) (h : s.canonical) : (s.satFld r f n).canonical :=
  State.setFld_canonical s r f _ h

theorem State.resetPages_canonical (s : State) (p : Reg → Bool) (h : s.canonical) : (s.resetPages p).canonical :=
  ⟨State.resetPages_regs_wf s p h.1, h.2⟩

theorem State.putByte_canonical (s : State) (pa : Nat) (b : Byte) (h : s.canonical) : (s.putByte pa b).canonical :=
  ⟨h.1, Sparse.wf_set id id_inj (fun _ => (0 : Byte)) s.mem pa b h.2.1, h.2.2⟩

theorem State.putBytes_canonical (s : State) (pa : Nat) (bs : List Byte) (h : s.canonical) : (s.putBytes pa bs).canonical := by
  induction bs generalizing s pa with
  | nil => exact h
  | cons b bs ih => exact ih _ _ (State.putByte_canonical s pa b h)

theorem State.setErr_canonical (s : State) (w : Nat) (m : BitVec 72) (h : s.canonical) : (s.setErr w m).canonical :=
  ⟨h.1, h.2.1, Sparse.wf_set id id_inj (fun _ => (0 : BitVec 72)) s.errs w m h.2.2.1, h.2.2.2⟩

/-- Any inverted bits may be taken away. -/
theorem State.filterErrs_canonical (s : State) (p : Nat × BitVec 72 → Bool) (h : s.canonical) :
    ({ s with errs := s.errs.filter p } : State).canonical :=
  ⟨h.1, h.2.1, Sparse.wf_filter id _ s.errs p h.2.2.1, h.2.2.2⟩

theorem State.clearErrs_canonical (s : State) (pa len : Nat) (h : s.canonical) : (s.clearErrs pa len).canonical :=
  State.filterErrs_canonical s _ h

theorem State.injFired_canonical (s : State) (p : Page) (i : Nat) (h : s.canonical) : (s.injFired p i).canonical := by
  unfold State.injFired
  split
  · exact h
  · exact State.setFld_canonical _ _ _ _ h

theorem State.strikeWords_canonical (s : State) (p : Page) (i : Nat) (ws : List Nat) (h : s.canonical) :
    (s.strikeWords p i ws).canonical :=
  State.injFired_canonical _ _ _ (foldl_canonical _ _ _ h (fun s _ hs => State.setErr_canonical s _ _ hs))

theorem State.writeLineBack_canonical (s : State) (l : Nat) (d : LineData) (h : s.canonical) :
    (s.writeLineBack l d).canonical := by
  unfold State.writeLineBack
  split
  · exact h
  extract_lets s1 s2 s3
  have h3 : s3.canonical := foldl_canonical _ _ _ (State.filterErrs_canonical _ _ (State.putBytes_canonical s _ _ h))
    (fun s _ hs => State.setErr_canonical s _ _ hs)
  split
  · exact State.strikeWords_canonical _ _ _ _ h3
  · exact h3

theorem State.cutTxn_canonical (s : State) (t : Txn) (h : s.canonical) : (s.cutTxn t).canonical := by
  unfold State.cutTxn
  extract_lets line out s1
  show s1.canonical
  show (match t.phase, out with
    | .granted, some o => s.writeLineBack line (o.written (s.homeData line))
    | _, _ => s).canonical
  split
  · exact State.writeLineBack_canonical s _ _ h
  · exact h

theorem State.recallLine_canonical (s : State) (l : Nat) (h : s.canonical) : (s.recallLine l).canonical := by
  unfold State.recallLine
  extract_lets s1 s2
  have h1 : s1.canonical := by
    show (match s.liveLine l with
      | some d => s.writeLineBack l d
      | none => s).canonical
    split
    · exact State.writeLineBack_canonical s l _ h
    · exact h
  show (match s1.coh.txns.find? (fun (t : Txn) => t.subject == l) with
    | some t => s1.cutTxn t
    | none => s1).canonical
  split
  · exact State.cutTxn_canonical s1 _ h1
  · exact h1

theorem State.mendWord_canonical (s : State) (w : Nat) (h : s.canonical) : (s.mendWord w).canonical := by
  unfold State.mendWord
  split
  · exact State.setErr_canonical _ _ _ (State.putBytes_canonical s _ _ h)
  · exact h

/-- A write performed at its home keeps the canonical form. -/
theorem State.homeWrite_canonical (s : State) (pa : Nat) (bs : List Byte) (h : s.canonical) :
    (s.homeWrite pa bs).canonical :=
  State.clearErrs_canonical _ _ _ (State.putBytes_canonical _ _ _
    (foldl_canonical _ _ _ (foldl_canonical _ _ _ h (fun s l hs => State.recallLine_canonical s l hs))
      (fun s w hs => State.mendWord_canonical s w hs)))

theorem State.homeWriteWord_canonical (s : State) (pa : Nat) (v : Word) (h : s.canonical) :
    (s.homeWriteWord pa v).canonical := State.homeWrite_canonical s pa _ h

theorem State.injectStore_canonical (s : State) (pa len : Nat) (ctx : Option Nat) (req : Loc) (h : s.canonical) :
    (s.injectStore pa len ctx req).canonical := by
  unfold State.injectStore
  split
  · exact h
  · split
    · exact h
    · split
      · exact State.strikeWords_canonical _ _ _ _ h
      · exact h

/-- A write at its home on behalf of a request keeps it. -/
theorem State.storeBytes_canonical (s : State) (pa : Nat) (bs : List Byte) (ctx : Option Nat) (req : Loc) (h : s.canonical) :
    (s.storeBytes pa bs ctx req).canonical := State.injectStore_canonical _ _ _ _ _ (State.homeWrite_canonical s pa bs h)

/-! ## Status bits and error records -/

theorem State.raise_canonical (s : State) (p : Page) (i b : Nat) (h : s.canonical) : (s.raise p i b).canonical := by
  unfold State.raise State.irqChange
  extract_lets t
  have ht : t.canonical := State.setFld_canonical _ _ _ _ h
  split
  · exact State.canonical_congr rfl rfl rfl rfl rfl ht
  · exact ht

theorem State.elogLose_canonical (s : State) (h : s.canonical) : s.elogLose.canonical :=
  State.raise_canonical _ _ _ _ (State.satFld_canonical _ _ _ _ h)

theorem State.elogAppend_canonical (s : State) (ws : List Word) (h : s.canonical) : (s.elogAppend ws).canonical := by
  unfold State.elogAppend
  extract_lets tail head a
  split
  · split
    · exact State.elogLose_canonical s h
    · split
      · exact State.elogLose_canonical s h
      · exact State.raise_canonical _ _ _ _ (State.setFld_canonical _ _ _ _
          (foldl_canonical _ _ _ h (fun s _ hs => State.homeWriteWord_canonical s _ _ hs)))
  · exact h

theorem State.windowPut_canonical (s : State) (r : ErrRec) (ws : List Word) (h : s.canonical) : (s.windowPut r ws).canonical := by
  unfold State.windowPut
  extract_lets q0
  split
  · exact State.raise_canonical _ _ _ _ (foldl_canonical _ _ _ h (fun s _ hs => State.setReg_canonical s _ _ hs))
  · split
    · exact State.satFld_canonical _ _ _ _ h
    · exact State.setFld_canonical _ _ _ _ h

/-- An error record keeps the canonical form. -/
theorem State.record_canonical (s : State) (r : ErrRec) (h : s.canonical) : (s.record r).canonical := by
  unfold State.record
  extract_lets ws entered s1 s2
  have h1 : s1.canonical := State.windowPut_canonical s r ws h
  have h2 : s2.canonical := by
    show (if _ then _ else _ : State).canonical
    split
    · exact State.elogAppend_canonical _ _ h1
    · exact h1
  split
  · exact State.raise_canonical _ _ _ _ h2
  · exact h2

theorem State.memRecord_canonical (s : State) (w : Nat) (m : BitVec 72) (ue : Bool) (ctx : Option Nat) (req : Loc) (inj : Bool)
    (h : s.canonical) : (s.memRecord w m ue ctx req inj).canonical := State.record_canonical s _ h

theorem State.memCE_canonical (s : State) (w : Nat) (m : BitVec 72) (ctx : Option Nat) (req : Loc) (inj : Bool)
    (h : s.canonical) : (s.memCE w m ctx req inj).canonical := by
  unfold State.memCE
  extract_lets pl s1
  refine State.memRecord_canonical _ _ _ _ _ _ _ ?_
  show (if _ then _ else _ : State).canonical
  split
  · exact State.satFld_canonical _ _ _ _ h
  · exact h

theorem State.readWord_canonical (s : State) (w : Nat) (ctx : Option Nat) (req : Loc) (h : s.canonical) :
    (s.readWord w ctx req).2.canonical := by
  unfold State.readWord
  extract_lets fire m s1
  have h1 : s1.canonical := by
    clear_value fire
    obtain _ | ⟨p, i⟩ := fire
    · exact h
    · exact State.injFired_canonical _ _ _ h
  split
  · exact h1
  · exact State.memCE_canonical _ _ _ _ _ _ h1
  · exact State.memRecord_canonical _ _ _ _ _ _ _ h1

/-- Reading words for a request keeps the canonical form. -/
theorem State.readWords_canonical (s : State) (ctx : Option Nat) (req : Loc) (ws : List Nat) (h : s.canonical) :
    (s.readWords ctx req ws).2.canonical := by
  induction ws generalizing s with
  | nil => exact h
  | cons w ws ih =>
    have hw := State.readWord_canonical s w ctx req h
    unfold State.readWords
    split
    · rename_i s' e; rw [e] at hw; exact hw
    · rename_i s' e; rw [e] at hw; exact ih s' hw

/-! ## The directory and the caches -/

theorem State.setDir_canonical (s : State) (l : Nat) (e : DirEntry) (ctx : Option CtxId) (h : s.canonical) :
    (s.setDir l e ctx).canonical := by
  unfold State.setDir
  extract_lets hm s1
  split
  · exact State.injFired_canonical _ _ _ h
  · exact h

theorem State.dirDrop_canonical (s : State) (agent l : Nat) (h : s.canonical) : (s.dirDrop agent l).canonical := by
  unfold State.dirDrop
  split
  · extract_lets
    split <;> exact h
  · split <;> exact h
  · exact h

theorem State.dirRoom_canonical (s : State) (l : Nat) (h : s.canonical) : (s.dirRoom l).canonical := by
  unfold State.dirRoom
  split
  · exact h
  · split
    · exact h
    · split
      · exact h
      · exact State.addFld_canonical _ _ _ _ (State.recallLine_canonical s _ h)

theorem State.setCopy_canonical (s : State) (agent l : Nat) (c : Option CacheLine) (h : s.canonical) :
    (s.setCopy agent l c).canonical := h

theorem State.giveUp_canonical (s : State) (agent l : Nat) (h : s.canonical) : (s.giveUp agent l).canonical := by
  unfold State.giveUp
  split
  · exact h
  · rename_i c _
    extract_lets s1 s2
    have h1 : s1.canonical := by
      show (if _ then _ else _ : State).canonical
      split
      · exact State.writeLineBack_canonical s l _ h
      · exact h
    show (if c.st = .s then s1 else s1.dirDrop agent l).canonical
    split
    · exact h1
    · exact State.dirDrop_canonical s1 _ _ h1

theorem State.evictLine_canonical (s : State) (agent l : Nat) (h : s.canonical) : (s.evictLine agent l).canonical := by
  unfold State.evictLine
  split
  · exact h
  · split
    · exact State.giveUp_canonical s agent l h
    · exact h

theorem State.victimOf_canonical (s : State) (ways : Nat) (set : Nat → Nat) (l : Nat) (held : List Nat) (h : s.canonical) :
    (s.victimOf ways set l held).2.canonical := by
  unfold State.victimOf
  split
  · exact h
  · extract_lets mine
    split
    · exact h
    · exact h

theorem State.makeRoom_canonical (s : State) (agent l : Nat) (h : s.canonical) : (s.makeRoom agent l).canonical := by
  unfold State.makeRoom
  extract_lets held
  have hv := State.victimOf_canonical s (agentWays agent) (cacheSetOf agent 2048) l held h
  generalize s.victimOf (agentWays agent) (cacheSetOf agent 2048) l held = x at hv
  obtain ⟨_ | v, s'⟩ := x
  · exact hv
  · exact State.evictLine_canonical s' agent v hv

theorem State.dirRead_canonical (s : State) (l : Nat) (ctx : Option CtxId) (h : s.canonical) : (s.dirRead l ctx).2.canonical := by
  unfold State.dirRead
  extract_lets hm nat fire held m s1
  have h1 : s1.canonical := by
    show (if _ then _ else _ : State).canonical
    split
    · exact State.injFired_canonical _ _ _ h
    · exact h
  split
  · exact h1
  · exact State.record_canonical _ _ h1

theorem State.dirMeet_canonical (s : State) (l : Nat) (ctx : Option CtxId) (h : s.canonical) : (s.dirMeet l ctx).canonical := by
  unfold State.dirMeet
  have hr := State.dirRead_canonical s l ctx h
  generalize s.dirRead l ctx = x at hr
  obtain ⟨_ | _, s'⟩ := x
  · exact hr
  · exact State.raise_canonical _ _ _ _ (State.addFld_canonical _ _ _ _ (State.recallLine_canonical s' l hr))

theorem State.shareDown_canonical (s : State) (agent l : Nat) (h : s.canonical) : (s.shareDown agent l).canonical := by
  unfold State.shareDown
  split
  · exact State.dirDrop_canonical s agent l h
  · extract_lets s1
    show (if _ then _ else _ : State).canonical
    split
    · exact State.writeLineBack_canonical s l _ h
    · exact h

theorem State.readMiss_canonical (s : State) (agent l : Nat) (ctx : Option CtxId) (h : s.canonical) :
    (s.readMiss agent l ctx).canonical := by
  unfold State.readMiss
  extract_lets s1 e ss d s2 st
  exact State.setDir_canonical _ _ _ _ (foldl_canonical _ _ _
    (State.makeRoom_canonical _ _ _ (State.dirRoom_canonical _ l (State.dirMeet_canonical s l ctx h)))
    (fun s a hs => State.shareDown_canonical s a l hs))

/-- A cacheable read of a line keeps the canonical form. -/
theorem State.cacheRead_canonical (s : State) (agent l : Nat) (ctx : Option CtxId) (h : s.canonical) :
    (s.cacheRead agent l ctx).canonical := by
  unfold State.cacheRead
  split
  · exact State.readMiss_canonical s agent l ctx h
  · split
    · exact h
    · exact State.readMiss_canonical _ agent l ctx (State.giveUp_canonical s agent l h)

theorem State.writeMiss_canonical (s : State) (agent l : Nat) (ctx : Option CtxId) (ofs : Nat) (bs : List Byte) (h : s.canonical) :
    (s.writeMiss agent l ctx ofs bs).canonical := by
  unfold State.writeMiss
  extract_lets s1 own s2 d c s3
  have h1 : s1.canonical := State.dirRoom_canonical _ l (State.dirMeet_canonical s l ctx h)
  refine State.setDir_canonical _ _ _ _ ?_
  show (if own.isNone then s1.makeRoom agent l else s1).canonical
  split
  · exact State.makeRoom_canonical s1 agent l h1
  · exact h1

/-- A cacheable write of bytes of a line keeps it. -/
theorem State.cacheWrite_canonical (s : State) (agent l : Nat) (ctx : Option CtxId) (ofs : Nat) (bs : List Byte)
    (h : s.canonical) : (s.cacheWrite agent l ctx ofs bs).canonical := by
  unfold State.cacheWrite
  split
  · exact State.writeMiss_canonical s agent l ctx ofs bs h
  · split
    · exact State.writeMiss_canonical _ agent l ctx ofs bs (State.giveUp_canonical s agent l h)
    · split
      · exact h
      · exact State.writeMiss_canonical s agent l ctx ofs bs h

theorem State.strikeCopy_canonical (s : State) (agent w : Nat) (m : BitVec 72) (h : s.canonical) :
    (s.strikeCopy agent w m).canonical := by
  unfold State.strikeCopy
  split
  · exact h
  · exact State.canonical_congr rfl rfl rfl rfl rfl h

theorem State.injectCache_canonical (s : State) (agent : Nat) (dets : List CacheDet) (ws : List Nat) (ctx : Option Nat)
    (h : s.canonical) : (s.injectCache agent dets ws ctx).canonical := by
  unfold State.injectCache
  split
  · exact h
  · exact State.injFired_canonical _ _ _ (foldl_canonical _ _ _ h (fun s _ hs => State.strikeCopy_canonical s agent _ _ hs))

theorem State.cacheFill_canonical (s : State) (agent : Nat) (dets : List CacheDet) (ctx : Option CtxId) (l : Nat)
    (h : s.canonical) : (s.cacheFill agent dets ctx l).canonical := by
  unfold State.cacheFill
  split
  · exact h
  · exact State.injectCache_canonical _ _ _ _ _ (State.cacheRead_canonical s agent l ctx h)

/-- A cacheable read of a range keeps the canonical form. -/
theorem State.cachedFill_canonical (s : State) (a : Nat → Nat) (d : Nat → List CacheDet) (ctx : Option CtxId) (pa len : Nat)
    (h : s.canonical) : (s.cachedFill a d ctx pa len).canonical :=
  foldl_canonical _ _ _ h (fun s l hs => State.cacheFill_canonical s (a l) _ ctx l hs)

/-- A cacheable write of a range keeps it. -/
theorem State.cachedStore_canonical (s : State) (a : Nat → Nat) (d : Nat → List CacheDet) (ctx : Option CtxId) (pa : Nat)
    (bs : List Byte) (h : s.canonical) : (s.cachedStore a d ctx pa bs).canonical :=
  foldl_canonical _ _ _ h (fun s _ hs =>
    State.injectCache_canonical _ _ _ _ _ (State.cacheWrite_canonical s _ _ ctx _ _ hs))

/-! ## The memories at the units -/

theorem State.spadPutBytes_canonical (s : State) (u o : Nat) (bs : List Byte) (h : s.canonical) :
    (s.spadPutBytes u o bs).canonical := by
  induction bs generalizing s o with
  | nil => exact h
  | cons b bs ih =>
    exact ih _ _ ⟨h.1, h.2.1, h.2.2.1, Sparse.wf_set id id_inj (fun _ => (0 : Byte)) s.spad (spadKey u o) b h.2.2.2.1, h.2.2.2.2⟩

theorem State.spadInject_canonical (s : State) (u o len ctx : Nat) (h : s.canonical) :
    (s.spadInject u o len ctx).canonical := by
  unfold State.spadInject
  split
  · exact State.injFired_canonical _ _ _ (foldl_canonical _ _ _ h (fun s w hs => State.setErr_canonical s _ _ hs))
  · exact h

/-- An accumulator entry stored keeps the canonical form. -/
theorem State.accPut_canonical (s : State) (u e : Nat) (v : Accord) (ctx : Nat) (h : s.canonical) :
    (s.accPut u e v ctx).canonical := by
  have h1 : ({ s with acc := Sparse.set id 0 s.acc (accKey u e) v.word
                      errs := s.errs.filter (fun d => !(decide (accErrKey u e 0 ≤ d.1)
                        && decide (d.1 < accErrKey u e 0 + 16))) } : State).canonical :=
    ⟨h.1, h.2.1, Sparse.wf_filter id _ s.errs _ h.2.2.1, h.2.2.2.1,
      Sparse.wf_set id id_inj (fun _ => (0 : AccWord)) s.acc (accKey u e) v.word h.2.2.2.2⟩
  unfold State.accPut
  extract_lets s1 l1
  split
  · exact State.injFired_canonical _ _ _ (State.setErr_canonical _ _ _ h1)
  · exact h1

theorem State.accPuts_canonical (s : State) (u ctx : Nat) (es : List (Nat × Accord)) (h : s.canonical) :
    (s.accPuts u ctx es).canonical :=
  foldl_canonical _ _ _ h (fun s _ hs => State.accPut_canonical s u _ _ ctx hs)

end Sys2Proof.Machine
end

