-- ==== Sys2Proof/WellFormed.lean ====
section
/-! DEFINITION. Which commands are well formed: what the types of the operands leave open. Lists name what they name once, a
cycle that is said to hold something holds it, and sizes are those the spec gives the accesses. -/

namespace Sys2Proof.Machine

/-- No entry occurs twice. -/
def distinct {α : Type} [DecidableEq α] : List α → Bool
  | [] => true
  | x :: xs => !xs.contains x && distinct xs

/-- The power manager's moves name a region at most once (R40). -/
def movesOk (ms : List ClkMove) : Bool := distinct (ms.map (·.region))

/-- The size of a core's access: 1 to 128 bytes, and the length of what it stores. -/
def CoreOp.sizeOk (op : CoreOp) (size : Nat) : Bool :=
  match op with
  | .store bs => bs.length == size && decide (1 ≤ size)
  | _ => decide (1 ≤ size)

/-- The length of an inbound PCIe request: 1 to 4,096 bytes; an atomic is one of 4 or 8 (R405). -/
def PcieOp.sizeOk : PcieOp → Bool
  | .read n => decide (1 ≤ n.val)
  | .write bs => decide (1 ≤ bs.length) && decide (bs.length ≤ 4096)
  | .atomic _ n _ _ => n.val == 4 || n.val == 8

/-- An aligned access of 4 or 8 bytes, with an answer for no more words than it reads (R407). -/
def EcamAccess.sizeOk (x : EcamAccess) : Bool :=
  (x.size.val == 4 || x.size.val == 8) && x.ofs.toNat % x.size.val == 0 && decide (x.answers.length ≤ x.size.val / 4)

/-- A frame of a number of words, with the inversions of each (R437, R444). -/
def FrameIn.shaped (f : FrameIn) (n : Nat) : Bool := f.words.length == n && f.flips.length == n

/-- An atomic's bytes lie in its line (R382). -/
def CohReq.inLine (r : CohReq) : Bool := decide (1 ≤ r.size.val) && decide (r.ofs.val + r.size.val ≤ 128)

/-- The requests of one cycle for one home come from different agents (R378). -/
def requestsOk (r : CohReq) (rs : List (CohKind × CohReq)) : Bool := distinct (r.agent :: rs.map (·.2.agent))

end Sys2Proof.Machine

namespace Sys2Proof

open Sys2Proof.Machine

/-- Whether a command is well formed. -/
def Instr.wf (c : Instr) : Bool :=
  match c with
  | .registerWrite ws => !ws.isEmpty && ws.all (fun w => w.ofs.toNat % 8 == 0)
  | .dvfsRequest ws => !ws.isEmpty
  | .dvfsDone _ => true
  | .powerSample p => distinct (p.rails.map (·.1)) && movesOk p.moves
  | .excursionExpiry ms => movesOk ms
  | .thermalLimit t => distinct (t.regions.map (·.1)) && distinct (t.hbm.map (·.1)) && movesOk t.moves
  | .thermalTrip _ _ => true
  | .powerFail _ _ => true
  | .vinInRange _ => true
  | .resetNAssert _ => true
  | .resetNRelease => true
  | .coldReset _ => true
  | .coldResetStepEnd _ => true
  | .rstCtlCold _ => true
  | .rstCtlPackage _ => true
  | .rstCtlPartition _ _ => true
  | .unitReset _ _ _ _ => true
  | .clusterReset _ _ _ => true
  | .packageReset _ => true
  | .packageResetStepEnd _ => true
  | .drydownEnd _ => true
  | .drydownTimeout _ => true
  | .resetComplete _ => true
  | .availabilityEvent ls => !ls.isEmpty && distinct ls
  | .availRetire _ _ => true
  | .blockFailed _ => true
  | .timeTick => true
  | .refLost => true
  | .refRelock => true
  | .ppsEdge => true
  | .ppsTimeout => true
  | .timeSet _ _ => true
  | .setTimeout => true
  | .anchorFire _ => true
  | .anchorTokenDeliver _ => true
  | .anchorArm _ _ _ => true
  | .anchorDisarm _ _ _ => true
  | .anchorTailWrite _ _ _ => true
  | .throttleAssert => true
  | .throttleRelease => true
  | .throttleHalfIssue => true
  | .throttleFullIssue => true
  | .keySlotWrite _ _ _ => true
  | .queueTailWrite _ _ _ _ => true
  | .ringFetch _ _ => true
  | .commandIssue _ _ => true
  | .waitTimeout _ _ => true
  | .commandComplete _ _ _ => true
  | .tokenSend _ _ => true
  | .messageDeliver ls => !ls.isEmpty && distinct ls
  | .creditArrive _ _ => true
  | .nop _ _ => true
  | .send _ _ => true
  | .mark _ _ => true
  | .grant _ _ => true
  | .flag _ _ => true
  | .reside _ _ => true
  | .mma _ _ _ => true
  | .slotTokenClaim _ _ _ => true
  | .accHazardTimeout _ _ _ => true
  | .arrayCommandComplete _ _ _ => true
  | .accClear _ _ _ => true
  | .accSpill _ _ _ => true
  | .accFill _ _ _ => true
  | .accMerge _ _ _ => true
  | .accEngineDone _ _ _ => true
  | .drain _ _ _ => true
  | .drainComplete _ _ _ => true
  | .vecRun _ _ => true
  | .softmax _ _ => true
  | .conv _ _ _ => true
  | .pool _ _ => true
  | .regroup _ _ => true
  | .vecCommandBegin _ _ _ => true
  | .vecCommandComplete _ _ _ => true
  | .arrCntClr _ _ => true
  | .accCntClr _ _ => true
  | .vecCntClr _ _ => true
  | .cluCntClr _ _ => true
  | .dmaCntClr _ _ => true
  | .start _ _ => true
  | .preempt _ _ => true
  | .resume _ _ => true
  | .kill _ _ => true
  | .release _ _ => true
  | .contextFault fs => !fs.isEmpty
  | .teardownComplete _ => true
  | .residencyChange _ => true
  | .unitAtRest _ => true
  | .preemptSave _ _ => true
  | .preemptSaveDone _ => true
  | .preemptTimeout _ => true
  | .resumeDone _ => true
  | .deadlineCheck _ _ _ => true
  | .dlmEnable _ _ _ => true
  | .decisionResume _ _ => true
  | .taskPlace _ _ => true
  | .tload _ _ _ => true
  | .dmaCopy _ _ => true
  | .prefetch _ _ => true
  | .dmaPiece _ _ => true
  | .walkComplete ws => !ws.isEmpty && distinct ws
  | .fqLatchDrain _ => true
  | .fqResolveRetry _ _ _ => true
  | .fqResolveFail _ _ _ => true
  | .gotSync _ _ => true
  | .gotSyncDone => true
  | .tlbInv _ _ => true
  | .tlbInvDone => true
  | .rdS r rs => requestsOk r rs
  | .rdX r rs => requestsOk r rs
  | .upg r rs => requestsOk r rs
  | .ownNodata r rs => requestsOk r rs
  | .rdCur r rs => requestsOk r rs
  | .wrLine r rs => requestsOk r rs
  | .wrPart r rs => requestsOk r rs
  | .atom r rs => r.inLine && requestsOk r rs
  | .wb _ _ => true
  | .cleanEvict _ _ => true
  | .snpS _ _ => true
  | .snpX _ _ => true
  | .snpInv _ _ => true
  | .snpCur _ _ => true
  | .snoopAnswer _ _ => true
  | .cohDataGrant _ _ => true
  | .cmpAck _ _ => true
  | .wbAck _ _ => true
  | .nack _ _ => true
  | .nackRetry _ _ => true
  | .arbiterForward => true
  | .cohModeWrite _ _ => true
  | .modeSwitchDone => true
  | .dirInit _ _ _ => true
  | .dirInitDone _ _ => true
  | .serverCoreAccess x => x.op.sizeOk x.size
  | .sctxbindWrite _ _ _ => true
  | .cgrpClk _ _ => true
  | .cgrpClkDone => true
  | .coreRun _ _ => true
  | .interruptMessage p i => decide (i.val < p.count)
  | .pcieInboundRequest r => r.op.sizeOk
  | .pcieParkTimeout _ _ => true
  | .pcieWriteAck _ => true
  | .pcieReadCompletion _ d => decide (d.length ≤ 4096)
  | .pcieCplTimeout _ => true
  | .pcieLinkDown _ _ => true
  | .pcieRecovery _ => true
  | .pcieLinkUp _ _ _ _ => true
  | .hlRelease _ _ => true
  | .sbr _ _ => true
  | .ecamAccess x => x.sizeOk
  | .mboxWrite _ _ _ => true
  | .heaterAdjust _ cs => cs.length == 32
  | .lockLoss _ _ => true
  | .trainingDone _ _ _ cs _ => cs.length == 32
  | .optEn _ _ _ => true
  | .retrain _ _ => true
  | .linkRecovered _ _ => true
  | .recoveryTimeout _ => true
  | .idle _ f => f.shaped 1
  | .msg _ f => f.shaped 9
  | .credit _ f => f.shaped 3
  | .hello _ f => f.shaped 4
  | .cadReq _ f => f.shaped 4
  | .cadRsp _ f => f.shaped 4
  | .frameSend _ _ _ => true
  | .ackTimer _ => true
  | .helloTimer _ => true
  | .candidateExpiry _ => true
  | .cadReqTimer => true
  | .slotArm _ _ _ _ => true
  | .slotDisarm _ _ _ => true
  | .readyPoll _ _ => true
  | .chunkReceive _ _ => true
  | .chunkSend _ _ => true
  | .stepStart _ _ => true
  | .windowOpen _ _ => true
  | .windowClose _ _ => true
  | .sealReq _ _ => true
  | .verdictSeal _ _ => true
  | .verdictRepeat _ _ => true
  | .snapshotOpen _ _ => true
  | .snapshotClose _ _ => true
  | .trickleSend _ _ => true
  | .snapEntryReceive _ _ => true
  | .imageComplete _ _ _ => true
  | .digest _ _ _ _ => true
  | .fillSend _ _ _ _ => true
  | .fillRecv _ _ _ _ => true
  | .restore _ _ _ _ => true
  | .store _ _ _ _ => true
  | .abort _ _ _ _ => true
  | .snapOpDone _ _ => true
  | .snapOpTimeout _ _ => true
  | .fixStoreWrite _ _ _ => true
  | .fixProgramDone _ => true
  | .wardenRun _ _ => true
  | .imageVerify _ _ => true
  | .verifyDone => true
  | .scrubRead _ => true
  | .errRecClear _ p i => decide (i.val < p.count)
  | .injWrite _ p i _ => decide (i.val < p.count)
  | .d2dFlitReceive _ _ _ _ => true
  | .linkRetrain _ => true
  | .linkDead _ => true
  | .cold => true
  | .warm => true
  | .offPrep => true
  | .capW _ ms => movesOk ms
  | .entdaa _ => true
  | .getVersion => true
  | .getCapabilities => true
  | .negotiateAlgorithms _ _ => true
  | .getDigests => true
  | .getCertificate _ _ _ => true
  | .challenge _ _ => true
  | .getMeasurements _ _ => true
  | .spdmUnsupportedRequest => true
  | .bypass => true
  | .idcode => true
  | .samplePreload a b => a.length == b.length
  | .extest => true
  | .highz => true
  | .clamp => true
  | .hbmHot _ _ => true
  | .imageOffer _ => true
  | .pcieConfigRequest _ r => r.ofs.toNat % 4 == 0
  | .perstHoldExpiry => true
  | .d2dRetrainDone _ => true
  | .keeperWardenAccess x => x.op.sizeOk x.size

end Sys2Proof
end

