-- ==== Sys2Proof/Tests/Slice0.lean ====
section
/-! SUPPORT. Tests: for every statement with hypotheses, a concrete state and operands that meet those of each of its clauses
together (test_hyps_<statement>); values that the spec works out; and an ill-formed command for each check of WellFormed. -/

namespace Sys2Proof.Tests

open Sys2Proof.Machine

set_option Elab.async false

/-! ## Statements of steps, power and resets -/

/-- A state reset but for some registers. -/
def with1 (rs : List (Reg × Fld × Nat)) : State := rs.foldl (fun s e => s.setFld e.1 e.2.1 e.2.2) State.reset

theorem test_hyps_StepRunsFront (h : Obligations.StepRunsFront) : step State.reset = .next State.reset := h.2.1 _ rfl

/-- Reset is canonical. -/
theorem test_reset_canonical : State.reset.canonical := by simp only [State.canonical]; decide

theorem test_hyps_StepKeepsCanonical (h : Obligations.StepKeepsCanonical) : State.reset.canonical :=
  h State.reset _ test_reset_canonical rfl

theorem test_hyps_StepPopsQueue (h : Obligations.StepPopsQueue) :
    ({ State.reset with pending := [.cold] }.setFld R.hostSts F.hostSts_CLK_BUSY 0).pending = [.cold] :=
  h { State.reset with pending := [.cgrpClkDone, .cold] } _ rfl

/-- The platform state changed. -/
def withPlat (f : Platform → Platform) : State := { State.reset with plat := f State.reset.plat }

/-- Region 0 with a clock change to code 3 in progress, its last part made. -/
def dvfsRunning : State :=
  (withPlat fun p => { p with dvfsRun := [(0, ⟨true, 3, false, 0, false⟩)], dvfsProg := [(0, ⟨[], 0⟩)] }).setFld (R.rgnDvfsCur 0) F.rgnDvfsCur_CLK_CODE 3 |>.setFld (R.rgnDvfsCur 0) F.rgnDvfsCur_VOLT_CODE 0

theorem test_hyps_DvfsRequestAndDone (h : Obligations.DvfsRequestAndDone) :
    (∃ t, exec (.dvfsRequest [⟨.keeper 0, 0, 0x5D⟩]) State.reset = .next t)
      ∧ (∃ t, exec (.dvfsRequest [⟨.keeper 0, 0, 0x7F⟩]) (State.reset.setFld R.pkgCap F.pkgCap_CLK_CAP_MHZ 1000) = .next t)
      ∧ (∃ t, exec (.dvfsDone 0) dvfsRunning = .next t)
      ∧ ∃ m t, exec (.dvfsRequest [⟨.keeper 0, 0, 0x5D⟩]) State.reset = .next m ∧ exec (.dvfsRequest [⟨.keeper 0, 1, 0x5D⟩]) m = .next t := by
  refine ⟨(h.1 State.reset (.keeper 0) 0 0x5D 0x1D 0x1E ?_ ?_ rfl ?_ ?_ ?_ ?_ ?_ ?_).imp fun _ h => h.1,
    (h.2.1 (State.reset.setFld R.pkgCap F.pkgCap_CLK_CAP_MHZ 1000) (.keeper 0) 0 0x7F 30 ?_ ?_ rfl ?_ ?_ ?_ ?_ ?_ ?_ ?_).imp fun _ h => h.1,
    (h.2.2.1 dvfsRunning 0 _ rfl rfl (fun p hp => by cases hp; exact ⟨fun _ => by decide +kernel, fun _ => by decide +kernel⟩)).imp fun _ h => h.1,
    (h.2.2.2 State.reset [⟨.keeper 0, 0, 0x5D⟩] ⟨.keeper 0, 1, 0x5D⟩ ?_).imp fun _ h => h.imp fun _ h => ⟨h.1, h.2.1⟩⟩ <;> decide +kernel

/-- A package whose excursion has lasted 1 ms. -/
def excursion : State := withPlat fun p => { p with runUs := 1000 }

/-- One sample: 100 °C at region 0's sensor. -/
def hotSample : TempSample := ⟨[(0, 100)], [], [], [], [⟨0, 29⟩]⟩

theorem test_hyps_PowerManagerActs (h : Obligations.PowerManagerActs) :
    (∃ t, exec (.powerSample ⟨36000, 0, 60000, 0, [(0, 0), (0, 1)], []⟩) State.reset = .next t ∧ lowered State.reset t (fun _ => true)
        ∧ t.reg (R.pkgRail 0) = 1)
      ∧ (∃ t, exec (.powerSample ⟨36000, 0, 900, 0, [], []⟩) State.reset = .next t ∧ returned State.reset t)
      ∧ (∃ t, exec (.excursionExpiry [⟨0, 28⟩]) excursion = .next t ∧ (t.setting 0).1 = 28)
      ∧ (∃ t, exec (.thermalLimit hotSample) (State.reset.setFld R.pkgThermSet F.pkgThermSet_LIMIT_C 90) = .next t ∧ t.plat.thermLimit = true)
      ∧ (∃ t, exec (.thermalLimit ⟨[(0, 88)], [], [], [], []⟩) (State.reset.setFld R.pkgThermSet F.pkgThermSet_LIMIT_C 90) = .next t
        ∧ t.plat.thermLimit = false)
      ∧ (∃ t, exec (.capW 500 []) State.reset = .next t)
      ∧ ∃ t, exec (.capW 1 []) (State.reset.setFld R.pkgPwr F.pkgPwr_NOW_W 501) = .next t := by
  refine ⟨(h.1 State.reset ⟨36000, 0, 60000, 0, [(0, 0), (0, 1)], []⟩ ?_).imp fun _ h => ⟨h.1, h.2.2.2.2.2.2.1 ?_, h.2.2.2.2.1 (0, 1) ?_⟩,
    (h.1 State.reset ⟨36000, 0, 900, 0, [], []⟩ ?_).imp fun _ h => ⟨h.1, h.2.2.2.2.2.2.2.1 ?_⟩,
    (h.2.1 excursion [⟨0, 28⟩] ?_ ?_).imp fun _ h => ⟨h.1, (h.2.2.2 _ rfl ?_).1⟩,
    (h.2.2.1 (State.reset.setFld R.pkgThermSet F.pkgThermSet_LIMIT_C 90) hotSample ?_).imp fun _ h => ⟨h.1, (h.2.2.2.2.2.2.1 ?_).1⟩,
    (h.2.2.1 (State.reset.setFld R.pkgThermSet F.pkgThermSet_LIMIT_C 90) ⟨[(0, 88)], [], [], [], []⟩ ?_).imp fun _ h =>
      ⟨h.1, (h.2.2.2.2.2.2.2 ?_).1⟩,
    (h.2.2.2 State.reset 500 [] ?_ ?_).imp fun _ h => h.1,
    (h.2.2.2 (State.reset.setFld R.pkgPwr F.pkgPwr_NOW_W 501) 1 [] ?_ ?_).imp fun _ h => h.1⟩ <;> decide +kernel

theorem test_hyps_StopsAndManagementTarget (h : Obligations.StopsAndManagementTarget) :
    (∃ t, exec (.thermalTrip .stack 110) State.reset = .next t)
      ∧ (∃ t, exec (.powerFail (.vin 5000) 11) State.reset = .next t)
      ∧ (∃ t, exec (.hbmHot 15 106) State.reset = .next t) ∧ ∃ t, exec (.entdaa 8) State.reset = .next t :=
  ⟨(h.1 State.reset .stack 110 rfl rfl (by decide)).imp fun _ h => h.1,
    (h.2.1 State.reset (.vin 5000) 11 1 (by decide) rfl rfl (by rintro _ ⟨⟩; decide)).imp fun _ h => h.1,
    (h.2.2.1 State.reset 15 106 (by decide) (by decide)).imp fun _ h => h.1,
    (h.2.2.2 State.reset 8 rfl).imp fun _ h => h.1⟩

/-- VIN_36 is out, as before power-on. -/
def unpowered : State := withPlat fun p => { p with vinOk := false }

/-- C1 is held. -/
def heldC1 : State := withPlat fun p => { p with coldWait := true, resetLow := true }

theorem test_hyps_ColdResetBegins (h : Obligations.ColdResetBegins) :
    (∃ t, exec (.vinInRange 3) unpowered = .next t) ∧ (∃ t, exec (.resetNAssert 1000) State.reset = .next t)
      ∧ (∃ t, exec .resetNRelease heldC1 = .next t) ∧ (∃ t, exec (.coldReset .i3c) State.reset = .next t)
      ∧ (∃ t, exec (.rstCtlCold (.keeper 1)) State.reset = .next t) ∧ ∃ t, exec .cold State.reset = .next t :=
  ⟨(h.1 unpowered 3 rfl rfl rfl).imp fun _ h => h.1, (h.2.1 State.reset 1000 (by decide) rfl rfl).imp fun _ h => h.1,
    (h.2.2.1 heldC1 rfl rfl).imp fun _ h => h.1, (h.2.2.2.1 State.reset .i3c rfl rfl rfl).imp fun _ h => h.1,
    (h.2.2.2.2.1 State.reset (.keeper 1) (by decide) (by decide) rfl rfl rfl).imp fun _ h => h.1,
    (h.2.2.2.2.2 State.reset rfl (by decide) (by decide) rfl rfl rfl).imp fun _ h => h.1⟩

/-- C9 in BOOT_FAIL. -/
def bootFailed : State := withPlat fun p => { p with st := .bootFail, coldRun := [.c9] }

/-- A cold reset at C7 and C11. -/
def atC11 : State := { State.reset with plat := { State.reset.plat with coldRun := [.c7, .c11] } }.setFld R.pkgCtl F.pkgCtl_READY 1

theorem test_hyps_BringUpStepsEnd (h : Obligations.BringUpStepsEnd) :
    (∃ t, exec (.coldResetStepEnd (.c7 [])) atC11 = .next t) ∧ (∃ t, exec (.coldResetStepEnd .c11) atC11 = .next t)
      ∧ (∃ t, exec (.imageOffer (some [])) bootFailed = .next t) ∧ ∃ t, exec .perstHoldExpiry State.reset = .next t :=
  ⟨(h.1 atC11 (.c7 []) (by decide) (by simp) (by decide)).imp fun _ h => h.1,
    (h.1 atC11 .c11 (by decide) (by simp) (by decide)).imp fun _ h => h.1,
    (h.2.1 bootFailed [] (by decide) rfl rfl (by decide)).imp fun _ h => h.1, (h.2.2 State.reset (by decide)).imp fun _ h => h.1⟩

/-- Ready for use. -/
def readyPkg : State := withPlat fun p => { p with st := .ready }

/-- A package reset whose drydown runs since the cadence value 0. -/
def dryPkg : State := { State.reset with plat := { State.reset.plat with resets := [⟨.package, 0, false⟩], warmRun := [.w1] } }.setReg
  R.timeNow 0x10000000000

theorem test_hyps_PackageResetBegins (h : Obligations.PackageResetBegins) :
    (∃ t, exec (.packageReset .i3c) State.reset = .next t) ∧ (∃ t, exec (.packageReset .i3c) dryPkg = .next t)
      ∧ (∃ t, exec (.rstCtlPackage (.keeper 0)) State.reset = .next t) ∧ (∃ t, exec .warm readyPkg = .next t)
      ∧ ∃ t, exec .offPrep readyPkg = .next t :=
  ⟨(h.1 State.reset .i3c (by decide) (by decide)).imp fun _ h => h.1, (h.2.1 dryPkg .i3c (by decide) (by decide)).imp fun _ h => h.1,
    (h.2.2.1 State.reset (.keeper 0) (by decide) (by decide) (by decide)).imp fun _ h => h.1,
    (h.2.2.2.1 readyPkg (by decide) (.inl rfl) (by decide) rfl).imp fun _ h => h.1,
    (h.2.2.2.2 readyPkg (by decide) (.inr (.inl rfl))).imp fun _ h => h.1⟩

/-- Steps W2 and W4 run. -/
def atW2 : State := withPlat fun p => { p with warmRun := [.w2, .w4] }

/-- A unit whose drydown runs since the cadence value 0, or has ended. -/
def dryUnit (d : Bool) : State :=
  { State.reset with plat := { State.reset.plat with resets := [⟨.unit 1023, 0, d⟩] } }.setReg R.timeNow 0x10000000000

theorem test_hyps_ResetsProceed (h : Obligations.ResetsProceed) :
    (∃ t, exec (.packageResetStepEnd .w4) atW2 = .next t) ∧ (∃ t, exec (.packageResetStepEnd .w2) atW2 = .next t)
      ∧ (∃ t, exec (.drydownEnd (.unit 1023)) (dryUnit false) = .next t)
      ∧ (∃ t, exec (.drydownTimeout (.unit 1023)) (dryUnit false) = .next t)
      ∧ (∃ t, exec (.drydownTimeout .package) dryPkg = .next t) ∧ ∃ t, exec (.resetComplete (.unit 1023)) (dryUnit true) = .next t :=
  ⟨(h.1 atW2 rfl).imp fun _ h => h.1, (h.2.1 atW2 rfl).imp fun _ h => h.1,
    (h.2.2.1 (dryUnit false) (.unit 1023) _ (by decide) (List.mem_singleton.mpr rfl) rfl rfl (by decide) (by decide) (by decide)).imp fun _ h => h.1,
    (h.2.2.2.1 (dryUnit false) (.unit 1023) _ (by decide) (List.mem_singleton.mpr rfl) rfl rfl (by decide) (by decide) (by decide)).imp
      fun _ h => h.1,
    (h.2.2.2.2.1 dryPkg _ (by decide) (List.mem_singleton.mpr rfl) rfl rfl (by decide) (by decide) rfl).imp fun _ h => h.1,
    (h.2.2.2.2.2 (dryUnit true) 1023 _ (by decide) (List.mem_singleton.mpr rfl) rfl rfl).imp fun _ h => h.1⟩

theorem test_hyps_PartialResetRequests (h : Obligations.PartialResetRequests) :
    (∃ t, exec (.rstCtlPartition (.keeper 0) 31) State.reset = .next t)
      ∧ (∃ t, exec (.unitReset (.warden 4) 31 3 7) State.reset = .next t)
      ∧ ∃ t, exec (.clusterReset (.keeper 0) 31 3) State.reset = .next t :=
  ⟨(h.1 State.reset (.keeper 0) 31 (by decide) (by decide)).imp fun _ h => h.1,
    (h.2.1 State.reset (.warden 4) 31 3 7 (by decide) (by decide)).imp fun _ h => h.1,
    (h.2.2 State.reset (.keeper 0) 31 3 (by decide) (by decide)).imp fun _ h => h.1⟩

theorem test_hyps_AvailabilityChanges (h : Obligations.AvailabilityChanges) :
    (∃ t, exec (.availabilityEvent [locUnit 5 0, locUnit 5 1]) State.reset = .next t
        ∧ t.fld R.pkgAvailGen F.pkgAvailGen_LAST_LOC = (locUnit 5 1).toNat)
      ∧ (∃ t, exec (.availRetire (.keeper 0) (locUnit 1023 0)) State.reset = .next t)
      ∧ ∃ t, exec (.blockFailed (locHost 4 0)) State.reset = .next t := by
  have last : ∀ l ∈ eventsOf State.reset [locUnit 5 0, locUnit 5 1], l.toNat ≤ (locUnit 5 1).toNat := by
    intro l hl
    rcases List.mem_cons.mp (List.mem_filter.mp hl).1 with rfl | hl
    · decide
    · rw [List.mem_singleton.mp hl]
  refine ⟨(h.1 State.reset [locUnit 5 0, locUnit 5 1] ?_ ?_).imp fun _ h => ⟨h.1, h.2.2.2.2.1 _ ?_ last⟩,
    (h.2.1 State.reset (.keeper 0) (locUnit 1023 0) _ ?_ ?_ rfl ?_ ?_ ?_).imp fun _ h => h.1,
    (h.2.2 State.reset (locHost 4 0) ?_ ?_ ?_ ?_).imp fun _ h => h.1⟩ <;> decide +kernel

/-- A tick count, and a PPS edge at tick 0. -/
def pps (ticks : Nat) (valid set : Nat) : State :=
  (({ State.reset with time := { State.reset.time with ticks := ticks, lastEdge := some 0 } }.setFld R.timeCtl F.timeCtl_PPS_EN 1).setFld
    R.timeSts F.timeSts_PPS_VALID valid).setFld R.timeSts F.timeSts_SET_PENDING set

theorem test_hyps_CadenceCommands (h : Obligations.CadenceCommands) :
    (∃ t, exec .timeTick State.reset = .next t) ∧ (∃ t, exec .refLost (State.reset.setFld R.timeSts F.timeSts_HOLDOVER 0) = .next t)
      ∧ (∃ t, exec .refRelock State.reset = .next t) ∧ (∃ t, exec .ppsEdge (pps 1000001000 1 1) = .next t)
      ∧ (∃ t, exec .ppsTimeout (pps 1500000000 1 0) = .next t) ∧ (∃ t, exec (.timeSet (.keeper 0) 7) State.reset = .next t)
      ∧ ∃ t, exec .setTimeout (pps 1500000000 0 1) = .next t :=
  ⟨(h.1 State.reset (by decide)).imp fun _ h => h.1,
    (h.2.1 (State.reset.setFld R.timeSts F.timeSts_HOLDOVER 0) (by decide) (by decide)).imp fun _ h => h.1,
    (h.2.2.1 State.reset (by decide)).imp fun _ h => h.1,
    (h.2.2.2.1 (pps 1000001000 1 1) 0 (by decide) (by decide) rfl (by decide) (by decide)).imp fun _ h => h.1,
    (h.2.2.2.2.1 (pps 1500000000 1 0) 0 (by decide) rfl (by decide) (by decide)).imp fun _ h => h.1,
    (h.2.2.2.2.2.1 State.reset (.keeper 0) 7 (by decide) (by decide)).imp fun _ h => h.1,
    (h.2.2.2.2.2.2 (pps 1500000000 0 1) (by decide) (by decide) (by decide)).imp fun _ h => h.1⟩

/-- A unit's queue that is enabled for context 1. -/
def enQ (s : State) (u q kind : Nat) : State :=
  (((s.setFld (R.unitQCfg u q) F.unitQCfg_EN 1).setFld (R.unitQCfg u q) F.unitQCfg_CTX 1).setFld (R.unitQCfg u q) F.unitQCfg_KIND kind).setReg (R.unitQPtr u q) 0

/-- Context 1 runs: it owns granule 0 and the clusters' TLBs hold its page 0, which is the first of HBM. -/
def ctx1 (mem : List Host.Cell) : State :=
  { State.reset with
    mem := [(0, 1), (1, 0x10)] ++ mem
    sch := { State.reset.sch with ctxs := [(1, ⟨1, 0, 0, false, false, [], [], 0⟩)] }
    xl := { State.reset.xl with tlb := [⟨0, 1, 0, 4096, hbmBase, true, true, true, false, 0⟩] } }

/-- Stream 63 is armed for context 1 with one entry in HBM, due, for queue 0 of unit 0. -/
def anchored : State :=
  ((((enQ (ctx1 [(hbmBase + 10, 2)]) 0 0 1).setFld (R.timeAstrCfg 63) F.timeAstrCfg_ARM 1).setFld (R.timeAstrCfg 63)
    F.timeAstrCfg_CTX 1).setFld (R.timeAstrBase 63) F.timeAstrBase_ADDR (hbmBase / 32)).setFld (R.timeAstrTail 63) F.timeAstrTail_TAIL 1

/-- The same with the token waiting for room. -/
def anchorWaits : State := { anchored with time := { anchored.time with waiting := [(63, ⟨0, 1, 0, 0, 0, 0⟩)] } }

theorem test_hyps_AnchorCommands (h : Obligations.AnchorCommands) :
    (∃ t, exec (.anchorFire 63) anchored = .next t) ∧ (∃ t, exec (.anchorTokenDeliver 63) anchorWaits = .next t)
      ∧ (∃ t, exec (.anchorArm (.keeper 0) 63 0x5001) State.reset = .next t)
      ∧ (∃ t, exec (.anchorDisarm (.keeper 0) 63 0) State.reset = .next t)
      ∧ ∃ t, exec (.anchorTailWrite (.keeper 0) 63 16) State.reset = .next t := by
  refine ⟨(h.1 anchored 63 1 0 ⟨0, 1, 0, 0, 0, 0⟩ _ ?_ ?_ ?_ ?_ ?_ ?_ ?_ ?_ ?_ ?_ ?_ ?_ ?_ ?_ ?_ rfl ?_).imp fun _ h => h.1,
    (h.2.1 anchorWaits 63 _ _ ?_ rfl ?_ ?_ rfl ?_).imp fun _ h => h.1,
    (h.2.2.1 State.reset (.keeper 0) 63 0x5001 ?_).imp fun _ h => h.1,
    (h.2.2.2.1 State.reset (.keeper 0) 63 0 ?_).imp fun _ h => h.1,
    (h.2.2.2.2 State.reset (.keeper 0) 63 16 ?_).imp fun _ h => h.1⟩ <;> decide +kernel

/-- The throttle's phase since tick 0. -/
def throttled (phase ticks : Nat) : State := { State.reset with time := { State.reset.time with ticks := ticks, thrPhase := phase } }

theorem test_hyps_ThrottleCommands (h : Obligations.ThrottleCommands) :
    (∃ t, exec .throttleAssert State.reset = .next t) ∧ (∃ t, exec .throttleRelease (throttled 1 0) = .next t)
      ∧ (∃ t, exec .throttleHalfIssue (throttled 2 100) = .next t) ∧ ∃ t, exec .throttleFullIssue (throttled 3 200) = .next t :=
  ⟨(h.1 State.reset (by decide) (by decide)).imp fun _ h => h.1, (h.2.1 (throttled 1 0) (by decide) rfl).imp fun _ h => h.1,
    (h.2.2.1 (throttled 2 100) (by decide) rfl (by decide)).imp fun _ h => h.1,
    (h.2.2.2 (throttled 3 200) (by decide) rfl (by decide)).imp fun _ h => h.1⟩

/-! ## Statements of queues, contexts and tasks -/

/-- A pair is its first part, as known, and its second. -/
theorem test_pair {α β : Type} (x : α × β) (a : α) (h : x.1 = a) : x = (a, x.2) := by rw [← h]

/-- No injection is armed where no INJ register is written. -/
theorem test_noInj (s : State) (h : s.regs.all (fun e => e.1.name != .inj) = true) (p : Page) (i : Nat) :
    s.fld (R.inj p i) F.inj_ARM = 0 := by
  have e : s.reg (R.inj p i) = (R.inj p i).reset := by
    simp only [State.reg]
    generalize s.regs = l at h
    induction l with
    | nil => rfl
    | cons x l ih =>
      simp only [List.all_cons, Bool.and_eq_true] at h
      rw [Sparse.get, if_neg (fun e => by simp [← e, R.inj] at h), ih h.2]
  simp only [State.fld, e, Reg.reset, Reg.fields, R.inj]
  split <;> decide

/-- What of Calm is a finite question. -/
def calmParts (s : State) : Prop :=
  s.coh.lines = [] ∧ s.coh.dir = [] ∧ s.coh.dirErr = [] ∧ s.coh.txns = [] ∧ s.coh.outstanding = [] ∧ s.coh.switchTo = none
    ∧ s.errs = [] ∧ ∀ e ∈ s.rep.links, e.2.retraining = false ∧ e.2.dead = false

theorem test_calm (s : State) (h : calmParts s) (i : s.regs.all (fun e => e.1.name != .inj) = true) : Calm s := by
  obtain ⟨h1, h2, h3, h4, h5, h6, h7, h8⟩ := h
  exact ⟨h1, h2, h3, h4, h5, h6, h7, h8, test_noInj s i⟩

/-- What of Reaches is a finite question, for the TLB entry `e` and a granule of one context or of all. -/
def reachParts (s : State) (t ctx va len : Nat) (a : AccessKind) (pa : Nat) (e : TlbEntry) : Prop :=
  (t < 132 ∧ va % 4096 + len ≤ 4096 ∧ va < 2 ^ 48 ∧ pa + len ≤ 2 ^ 52
    ∧ (s.xl.tlb.find? (fun e => e.tlb = t ∧ e.ctx = ctx ∧ e.va ≤ va ∧ va < e.va + e.size) = some e ∧ e.err = 0
        ∧ (⟨e.va, e.size, e.pa, e.r, e.w, e.x, e.c⟩ : Leaf).grants a = true ∧ pa = e.pa + (va - e.va)))
    ∧ (rangeOf pa = .hbm ∧ s.stackAvail (stackOf pa) = true ∧ s.granulePass ctx (granuleOf pa) (a == .read || a == .fetch) = true
        ∧ s.wardenImage pa 1 = false)
    ∧ (isReserved (s.gotAddr (granuleOf pa)) = false ∧ s.stackGone (s.gotAddr (granuleOf pa)) = false
        ∧ s.memUE (s.gotAddr (granuleOf pa)) 2 = false ∧ granuleKind (s.gotEntry (granuleOf pa)) ≠ .shared)

theorem test_tableFail (s : State) (a len die : Nat) (req : Loc) (h : isReserved a = false ∧ s.stackGone a = false ∧ s.memUE a len = false) :
    s.tableFail a len die req = none := by
  unfold State.tableFail
  rw [if_neg (by rw [h.1]; decide), if_neg (by rw [h.2.1]; decide), if_neg (by rw [h.2.2]; decide)]

theorem test_tablesFail (s : State) (ctx pa : Nat) (req : Loc) (h : isReserved (s.gotAddr (granuleOf pa)) = false
    ∧ s.stackGone (s.gotAddr (granuleOf pa)) = false ∧ s.memUE (s.gotAddr (granuleOf pa)) 2 = false)
    (k : granuleKind (s.gotEntry (granuleOf pa)) ≠ .shared) : s.tablesFail ctx pa req = none := by
  simp only [State.tablesFail, test_tableFail s _ 2 _ req h]
  exact if_neg fun e => k e.1

theorem test_reaches (s : State) (t ctx va len : Nat) (a : AccessKind) (pa : Nat) (e : TlbEntry) (h1 : calmParts s)
    (h2 : s.regs.all (fun e => e.1.name != .inj) = true) (h3 : reachParts s t ctx va len a pa e) : Reaches s t ctx va len a pa := by
  obtain ⟨⟨a1, a2, a3, a4, a5⟩, ⟨b1, b2, b3, b4⟩, c1, c2, c3, c4⟩ := h3
  exact ⟨test_calm s h1 h2, a1, a2, a3, a4, ⟨e, a5⟩, b1, fun req => test_tablesFail s ctx pa req ⟨c1, c2, c3⟩ c4, b2, b3, fun _ => b4⟩

/-- The entry of the clusters' TLBs for context 1's page 0. -/
def page0 : TlbEntry := ⟨0, 1, 0, 4096, hbmBase, true, true, true, false, 0⟩

/-- Context 1's accesses through cluster 0 in a state that changes neither memory nor translation. -/
def reaches1 (s : State) (va len : Nat) (a : AccessKind) : Prop :=
  calmParts s ∧ s.regs.all (fun e => e.1.name != .inj) = true ∧ reachParts s 0 1 va len a (hbmBase + va) page0

theorem test_reaches1 (s : State) {t c va len : Nat} {a : AccessKind} {pa : Nat} (h : t = 0 ∧ c = 1 ∧ pa = hbmBase + va ∧ reaches1 s va len a) :
    Reaches s t c va len a pa := by
  obtain ⟨rfl, rfl, rfl, h⟩ := h
  exact test_reaches s 0 1 va len a _ page0 h.1 h.2.1 h.2.2

/-- An entry of context 1: its opcode, the rest of its second header word and its body. -/
def entry1 (op w1 body : Nat) : BitVec 512 := mkEntry (op + 2 ^ 16) w1 body

/-- An issued command of queue 0 of unit 0 for context 1. -/
def cmd0 (eng : Engine) (e : BitVec 512) : Flight :=
  { u := 0, q := 0, seq := 0, ctx := 1, eng := eng, entry := e, taken := [], bufs := [], stage := .issued, begun := false, issuedAt := 0,
    validAt := 0, claimAt := 0, relAt := 0, doneAt := 0, detail := 0, plan := ⟨0, 0, 0, []⟩, waitNs := 0 }

/-- Queue 0 of unit 0, of KIND 0, with one entry, context 1 resident. -/
def cmdQueue (mem : List Host.Cell) : State :=
  ((((enQ (ctx1 mem) 0 0 0).setFld (R.unitQPtr 0 0) F.unitQPtr_TAIL 1).setFld (R.unitRes 0) F.unitRes_RESIDENT 1).setFld
    (R.unitRes 0) F.unitRes_CTX 1)

/-- A NOP at the head of the ring, in memory. -/
def nopInRing : State := cmdQueue [(hbmBase, 8), (hbmBase + 2, 1)]

/-- The fetch of that entry. -/
def nopFetch := nopInRing.ctxRead (unitCluster 0) (nopInRing.qCtx 0 0) (nopInRing.qEntryVa 0 0 (nopInRing.qHead 0 0)) 64 .fetch (locUnit 0 0)

theorem test_hyps_TailWriteAndFetch (h : Obligations.TailWriteAndFetch) :
    (∃ t, exec (.queueTailWrite (.server 0) 1023 127 5) State.reset = .next t)
      ∧ (∃ t, exec (.queueTailWrite (.server 0) 0 0 16) (cmdQueue []) = .next t ∧ t.qTail 0 0 = 16)
      ∧ (∃ t, exec (.queueTailWrite (.server 0) 0 0 17) (cmdQueue []) = .next t ∧ t.fld (R.irqSts .unit 0) ⟨0, 0⟩ = 1)
      ∧ (∃ t, exec (.queueTailWrite (.server 0) 0 0 15) ((cmdQueue []).setReg (R.pkgAvailUnit 0) 0) = .next t)
      ∧ (∃ t, exec (.ringFetch 0 0) nopInRing = .next t)
      ∧ ∃ t, exec (.ringFetch 0 0) nopInRing = .next t ∧ nopFetch.2.memKept t := by
  refine ⟨(h.1 State.reset (.server 0) 1023 127 5 ?_ ?_).imp fun _ h => h.1,
    (h.1 (cmdQueue []) (.server 0) 0 0 16 ?_ ?_).imp fun _ h => ⟨h.1, (h.2.2.1 ?_ ?_ ?_).1⟩,
    (h.1 (cmdQueue []) (.server 0) 0 0 17 ?_ ?_).imp fun _ h => ⟨h.1, (h.2.2.2.1 ?_ ?_ ?_).1⟩,
    (h.2.1 ((cmdQueue []).setReg (R.pkgAvailUnit 0) 0) (.server 0) 0 0 15 ?_ ?_ ?_ ?_ ?_ ?_).imp fun _ h => h.1,
    (h.2.2.1 nopInRing 0 0 hbmBase ?_ ?_ (test_reaches1 nopInRing ?_) ?_ ?_).imp fun _ h => h.1,
    (h.2.2.2 nopInRing nopFetch.2 0 0 (entryBytes (entry1 8 0 0)) ?_ ?_ (test_pair nopFetch _ ?_) ?_ ?_ ?_).imp fun _ h =>
      ⟨h.1, h.2.2.2.2.2⟩⟩
  all_goals try (unfold reaches1 calmParts reachParts)
  all_goals decide +kernel

/-- The queue with a checked head that waits for nothing. -/
def headed (e : BitVec 512) (now : Word) : State :=
  ({ cmdQueue [] with sch := { (cmdQueue []).sch with heads := [(0, ⟨e, true, 0⟩)] } }).setReg R.timeNow now

/-- The queue with an issued command. -/
def issued (f : Flight) : State := { cmdQueue [] with sch := { (cmdQueue []).sch with flights := [f] } }

theorem test_hyps_IssueAndComplete (h : Obligations.IssueAndComplete) :
    (∃ t, exec (.commandIssue 0 0) (headed (entry1 8 0 0) 0) = .next t)
      ∧ (∃ t, exec (.waitTimeout 0 (.head 0)) ((headed (mkEntry (0x81000000010008) 0 0) (2 ^ 62)).setFld (R.unitWdog 0)
          F.unitWdog_WAIT_LIMIT 1) = .next t)
      ∧ ∃ t, exec (.commandComplete 0 0 0) (issued { cmd0 .seq (entry1 8 (2 ^ 33) 0) with stage := .finished 0x2A 0 }) = .next t := by
  refine ⟨(h.1 (headed (entry1 8 0 0) 0) 0 0 ⟨entry1 8 0 0, true, 0⟩ .seq ?_ ?_ ?_ ?_ ?_ ?_ ?_ ?_ (fun i hi => ?_)).elim fun t h =>
      h.elim fun _ h => ⟨t, h.1⟩,
    (h.2.1 _ 0 (.head 0) 1 0 ?_ ?_ ?_).imp fun _ h => h.1,
    (h.2.2 _ 0 0 0 { cmd0 .seq (entry1 8 (2 ^ 33) 0) with stage := .finished 0x2A 0 } 0x2A 0 ?_ rfl ?_ ?_ ?_).imp fun _ h => h.1⟩
  case refine_9 => rw [show bufNames (entry1 8 0 0) = [] by decide +kernel] at hi; cases hi
  all_goals decide +kernel

/-- A credit line of unit 0, context 1, for queue 1 of unit 0. -/
def lined (s : State) (credits : Nat) : State := s.setReg (R.unitCrl 0 31) (BitVec.ofNat 64 (2 ^ 12 + 2 ^ 29 + credits * 2 ^ 41 + 2 ^ 58))

/-- A token in the send buffer of unit 0. -/
def tokenWaits : State :=
  lined { cmdQueue [] with sch := { (cmdQueue []).sch with sendBuf := [⟨0, 31, 0, 0, 1, false, entry1 1 0 7, 0⟩] } } 1

/-- A token on its way to queue 1 of unit 0, from a line. -/
def tokenFrom (line : Nat) : InFlight := ⟨0, 0, line, 0, 1, 1, 0, false, entry1 1 0 7⟩

/-- Tokens on their way from lines, the oldest first. -/
def tokenSent (lines : List Nat) : State := enQ { cmdQueue [] with sch := { (cmdQueue []).sch with transit := lines.map tokenFrom } } 0 1 1

/-- Credits on their way to line 31 of unit 0. -/
def creditsSent : State := lined { cmdQueue [] with sch := { (cmdQueue []).sch with credits := [⟨0, 0, 31, 65536, 0, 0, none⟩] } } 1

theorem test_hyps_TokensAndCredits (h : Obligations.TokensAndCredits) :
    (∃ t, exec (.tokenSend 0 31) tokenWaits = .next t)
      ∧ (∃ t, exec (.tokenSend 0 31) (tokenWaits.setFld (R.unitCrl 0 31) F.unitCrl_DEST_PKG 4095) = .next t)
      ∧ (∃ t, exec (.messageDeliver [⟨0, 0, 31⟩]) (tokenSent [31]) = .next t)
      ∧ (∃ m t, exec (.messageDeliver [⟨0, 0, 30⟩]) (tokenSent [30, 31]) = .next m
        ∧ exec (.messageDeliver [⟨0, 0, 31⟩, ⟨0, 0, 30⟩]) (tokenSent [30, 31]) = .next t)
      ∧ ∃ t, exec (.creditArrive 0 31) creditsSent = .next t ∧ t.fld (R.unitCrl 0 31) F.unitCrl_CREDITS = 65536 := by
  refine ⟨(h.1 tokenWaits 0 31 ⟨0, 31, 0, 0, 1, false, entry1 1 0 7, 0⟩ ?_ ?_ ?_ ?_ ?_ ?_).elim fun t h => h.elim fun _ h => ⟨t, h.1⟩,
    (h.2.1 (tokenWaits.setFld (R.unitCrl 0 31) F.unitCrl_DEST_PKG 4095) 0 31 ⟨0, 31, 0, 0, 1, false, entry1 1 0 7, 0⟩ ?_ ?_ ?_ ?_ ?_).imp
      fun _ h => h.1,
    (h.2.2.1 (tokenSent [31]) ⟨0, 0, 31⟩ (tokenFrom 31) 1 0 1 1 hbmBase ?_ ?_ ?_ ?_ ?_ ?_ ?_ ?_ (test_reaches1 (tokenSent [31]) ?_)).imp
      fun _ h => h.1,
    (h.2.2.2.1 (tokenSent [30, 31]) [⟨0, 0, 30⟩] ⟨0, 0, 31⟩ ?_ ?_ ?_).imp fun _ h => h.imp fun _ h => ⟨h.1, h.2.1⟩,
    (h.2.2.2.2 creditsSent 0 31 ⟨0, 0, 31, 65536, 0, 0, none⟩ ?_ ?_ ?_ ?_ ?_).imp fun _ h => ⟨h.1, (h.2.2.1 ?_).trans ?_⟩⟩
  all_goals try (unfold reaches1 calmParts reachParts)
  all_goals decide +kernel

/-- GRANT of one entry of queue 1 of unit 0 for line 31 of unit 0. -/
def grantEntry : BitVec 512 := entry1 0x0B 0 (1 + 1 * 2 ^ 32 + (31 * 2 ^ 22) * 2 ^ 64)

/-- RESIDE of the scratchpad's last 64 bytes under entry 15. -/
def resideEntry : BitVec 512 := entry1 0x0D 0 (15 + 9 * 2 ^ 32 + 0x17FFC0 * 2 ^ 64 + 64 * 2 ^ 96)

theorem test_hyps_ControlCommands (h : Obligations.ControlCommands) :
    (∃ t, exec (.nop 0 0) (issued (cmd0 .seq (entry1 8 0 0))) = .next t) ∧ (∃ t, exec (.send 0 0) (issued (cmd0 .seq (entry1 9 (2 ^ 33) 5))) = .next t)
      ∧ (∃ t, exec (.reside 0 0) (issued (cmd0 .seq resideEntry)) = .next t)
      ∧ ∃ t, exec (.grant 0 0) (lined (enQ (issued (cmd0 .seq grantEntry)) 0 1 1) 0) = .next t := by
  refine ⟨(h.1 (issued (cmd0 .seq (entry1 8 0 0))) 0 0 (cmd0 .seq (entry1 8 0 0)) ?_ ?_).imp fun _ h => h.1,
    (h.2.1 (issued (cmd0 .seq (entry1 9 (2 ^ 33) 5))) 0 0 (cmd0 .seq (entry1 9 (2 ^ 33) 5)) ?_ ?_).imp fun _ h => h.1,
    (h.2.2.1 _ 0 0 (cmd0 .seq resideEntry) 9 0x17FFC0 64 ?_ ?_ ?_ ?_ ?_ ?_ ?_ ?_).imp fun _ h => h.1,
    (h.2.2.2 (lined (enQ (issued (cmd0 .seq grantEntry)) 0 1 1) 0) 0 0 (cmd0 .seq grantEntry) 1 1 ?_ ?_ ?_ ?_ ?_ ?_ ?_ ?_ ?_ ?_ ?_ ?_ ?_).imp
      fun _ h => h.1⟩ <;> decide +kernel

/-- MARK, or FLAG, of the word at a device address. -/
def wordEntry (op va : Nat) : BitVec 512 := entry1 op 0 (va + 5 * 2 ^ 64)

/-- The state with that command issued. -/
def wording (op va : Nat) : State := issued (cmd0 .seq (wordEntry op va))

theorem test_hyps_MarkAndFlag (h : Obligations.MarkAndFlag) :
    (∃ t, exec (.mark 0 0) (wording 0x0A 0xFF8) = .next t) ∧ (∃ t, exec (.flag 0 0) (wording 0x0C 0xFF8) = .next t)
      ∧ (∃ t, exec (.mark 0 0) (wording 0x0A 0xFFF) = .next t) ∧ ∃ t, exec (.flag 0 0) (wording 0x0C 1) = .next t := by
  refine ⟨(h.1 (wording 0x0A 0xFF8) 0 0 (cmd0 .seq (wordEntry 0x0A 0xFF8)) 0xFF8 5 (hbmBase + 0xFF8) ?_ ?_ ?_ ?_ ?_ ?_
      (test_reaches1 (wording 0x0A 0xFF8) ?_)).imp fun _ h => h.1,
    (h.2.1 (wording 0x0C 0xFF8) 0 0 (cmd0 .seq (wordEntry 0x0C 0xFF8)) 0xFF8 (hbmBase + 0xFF8) ?_ ?_ ?_ ?_ ?_ ?_
      (test_reaches1 (wording 0x0C 0xFF8) ?_)).imp fun _ h => h.1,
    (h.2.2 (wording 0x0A 0xFFF) 0 0 (cmd0 .seq (wordEntry 0x0A 0xFFF)) 0x0A (.inl rfl) ?_ ?_ ?_ ?_ ?_).imp fun _ h => h.1,
    (h.2.2 (wording 0x0C 1) 0 0 (cmd0 .seq (wordEntry 0x0C 1)) 0x0C (.inr rfl) ?_ ?_ ?_ ?_ ?_).imp fun _ h => h.1⟩
  all_goals try (unfold reaches1 calmParts reachParts)
  all_goals decide +kernel

/-- Context 1 in a state, with saved units, since cadence 0; RES of unit 0 with REST_REQ. -/
def ctxIn (st : Nat) (saved : List Nat) (now : Word) : State :=
  (({ cmdQueue [] with sch := { (cmdQueue []).sch with ctxs := [(1, ⟨st, 0x24, 0, false, false, saved, [], 0⟩)] } }).setReg R.timeNow now).setFld
    (R.unitRes 0) F.unitRes_REST_REQ 1

/-- Context 1 FREE, with its entry's VALID, and REGIONS naming partition 0, one region. -/
def startable : State := { ctxIn 0 [] 0 with mem := [(0, 1), (1, 0x10), (64, 1), (68, 1)] }

theorem test_hyps_ContextCommands (h : Obligations.ContextCommands) :
    (∃ t, exec (.start (.server 0) 1) startable = .next t) ∧ (∃ t, exec (.start (.server 0) 1) (ctxIn 6 [] 0) = .next t)
      ∧ (∃ t, exec (.preempt (.server 0) 1) (ctxIn 1 [] 0) = .next t)
      ∧ (∃ t, exec (.resume (.server 0) 1) (ctxIn 3 [] 0) = .next t) ∧ (∃ t, exec (.kill (.server 0) 1) (ctxIn 4 [] 0) = .next t)
      ∧ ∃ t, exec (.release (.server 0) 1) (ctxIn 6 [] 0) = .next t := by
  refine ⟨(h.1 startable (.server 0) 1 ?_).imp fun _ h => h.1, (h.1 (ctxIn 6 [] 0) (.server 0) 1 ?_).imp fun _ h => h.1,
    (h.2.1 (ctxIn 1 [] 0) (.server 0) 1 ?_ ?_).imp fun _ h => h.1, (h.2.2.1 (ctxIn 3 [] 0) (.server 0) 1 ?_ ?_).imp fun _ h => h.1,
    (h.2.2.2.1 (ctxIn 4 [] 0) (.server 0) 1 ?_ ?_).imp fun _ h => h.1, (h.2.2.2.2 (ctxIn 6 [] 0) (.server 0) 1 ?_ ?_).imp fun _ h => h.1⟩
  all_goals try (unfold cmdOpen cmdPlace)
  all_goals decide +kernel

/-- Context 2 resident on unit 0 with nothing to do, context 1 with work there. -/
def residents : State := (cmdQueue [(68, 1), (132, 1)]).setFld (R.unitRes 0) F.unitRes_CTX 2

theorem test_hyps_TeardownAndResidency (h : Obligations.TeardownAndResidency) :
    (∃ t, exec (.contextFault [⟨1, 0x26, 1⟩, ⟨1, 0x25, 0⟩]) (ctxIn 1 [] 0) = .next t ∧ (t.ctxSt 1).cause = 0x25)
      ∧ (∃ t, exec (.teardownComplete 1) (ctxIn 5 [] 0) = .next t) ∧ ∃ t, exec (.residencyChange 0) residents = .next t := by
  refine ⟨(h.1 (ctxIn 1 [] 0) [⟨1, 0x26, 1⟩, ⟨1, 0x25, 0⟩]).imp fun _ h => ⟨h.1, ((h.2 ⟨1, 0x25, 0⟩ ?_ ?_).2.1 ?_).1⟩,
    (h.2.1 (ctxIn 5 [] 0) 1 ?_).imp fun _ h => h.1, (h.2.2 residents 0 2 1 ?_ ?_ ?_ ?_ ?_).imp fun _ h => h.1⟩ <;> decide +kernel

/-- Context 1, PREEMPTING, its queue empty: its preemption table, at 0, has only the end entry, and its save area is at 4,096. -/
def resting (w0 : BitVec 8) : State :=
  let s := (ctxIn 2 [] 0).setReg (R.unitQPtr 0 0) 0
  { s with mem := [(0, 1), (1, 0x10), (64, w0), (113, 0x10), (hbmBase + 2, 3)]
           xl := { s.xl with tlb := s.xl.tlb ++ [⟨0, 1, 4096, 4096, hbmBase + 4096, true, true, true, false, 0⟩] } }

/-- The TLB's entry for the save area. -/
def savePage : TlbEntry := ⟨0, 1, 4096, 4096, hbmBase + 4096, true, true, true, false, 0⟩

theorem test_restingReaches :
    Reaches (resting 3) (unitCluster (0 : Fin 1024)) (1 : CtxId).toNat ((resting 3).saveVa (1 : CtxId).toNat + (0 : Fin 1024) * 4096) 4096
      .write (hbmBase + 4096) := by
  apply test_reaches _ _ _ _ _ _ _ savePage
  · unfold calmParts; decide +kernel
  · decide +kernel
  · unfold reachParts; decide +kernel

/-- The same, its image written. -/
def areaSaved := (resting 1).wardenPut (0 : Fin 1024) 1 4 ((resting 1).saveVa 1 + 0 * 4096) ((resting 1).saveImage 0 1)

set_option maxRecDepth 100000 in
theorem test_hyps_PreemptionSteps (h : Obligations.PreemptionSteps) :
    (∃ t, exec (.unitAtRest 0) (resting 1) = .next t) ∧ (∃ t, exec (.preemptSave 1 0) (resting 3) = .next t)
      ∧ (∃ t, exec (.preemptSave 1 0) (resting 1) = .next t)
      ∧ (∃ t, exec (.preemptSaveDone 1) (ctxIn 2 [0] 0) = .next t) ∧ (∃ t, exec (.preemptTimeout 1) (ctxIn 2 [] (2 ^ 62)) = .next t)
      ∧ ∃ t, exec (.resumeDone 1) (ctxIn 4 [] 0) = .next t := by
  refine ⟨(h.1 (resting 1) 0 1 ?_ ?_ ?_ ?_ ?_).imp fun _ h => h.1,
    (h.2.1 (resting 3) 1 0 (hbmBase + 4096) ?_ ?_ ?_ ?_ ?_ ?_
      test_restingReaches ?_ ?_).imp fun _ h => h.1,
    (h.2.2.1 (resting 1) (resting 1) areaSaved.2 _ 1 0 ?_ ?_ ?_ ?_ ?_ (test_pair areaSaved _ ?_) ?_ (test_pair _ _ ?_)).imp fun _ h => h.1,
    (h.2.2.2.1 (ctxIn 2 [0] 0) 1 ?_ ?_).imp fun _ h => h.1, (h.2.2.2.2.1 (ctxIn 2 [] (2 ^ 62)) 1 ?_ ?_).imp fun _ h => h.1,
    (h.2.2.2.2.2 (ctxIn 4 [] 0) 1 ?_ ?_).imp fun _ h => h.1⟩
  all_goals try (unfold cmdPlace)
  all_goals decide +kernel

/-- Queue 0 of unit 0 of a kind, with one entry at hbmBase, whose bytes are listed. -/
def inbox (kind : Nat) (mem : List Host.Cell) : State := enQ (cmdQueue ((65, 0x00) :: (68, 1) :: mem)) 0 0 kind |>.setFld (R.unitQPtr 0 0) F.unitQPtr_TAIL 1

/-- A DEADLINE_CHECK anchor for context 1, whose partition is region 0, with region 0's monitor enabled for it. -/
def deadline : State :=
  (inbox 2 [(hbmBase, 3), (hbmBase + 2, 1), (hbmBase + 32, 6)]).setReg (R.rgnDlmCfg 0) 0x1001

/-- A queue at decision point 7, with a verdict. -/
def decided : State :=
  ({ cmdQueue [] with sch := { (cmdQueue []).sch with stops := [(0, .decide 7 0)] } }).setReg (R.unitVerdict 0)
    (F.unitVerdict_VALID.put (F.unitVerdict_ID.put 0 8) 1)

/-- An empty command queue 1 next to the others. -/
def loadable (s : State) : State := enQ s 0 1 0

/-- A task of two entries for queue 1, at the ring's own page. -/
def tasks : State := loadable (inbox 3 [(hbmBase + 24, 2), (hbmBase + 28, 1)])

theorem test_hyps_DeadlinesAndTasks (h : Obligations.DeadlinesAndTasks) :
    (∃ t, exec (.deadlineCheck 0 0 0) deadline = .next t) ∧ (∃ t, exec (.dlmEnable (.server 0) 31 0x1001) State.reset = .next t)
      ∧ (∃ t, exec (.decisionResume 0 0) decided = .next t) ∧ (∃ t, exec (.tload (.keeper 0) 1023 0) State.reset = .next t)
      ∧ ∃ t, exec (.taskPlace 0 0) tasks = .next t := by
  refine ⟨(h.1 deadline 0 0 0 0 1 hbmBase _ _ ?_ ?_ ?_ ?_ ?_ (test_reaches1 deadline ?_) rfl ?_ ?_ ?_ ?_ ?_ rfl).imp fun _ h => h.1,
    (h.2.1 State.reset (.server 0) 31 0x1001 ?_ ?_ ?_ ?_).imp fun _ h => h.1,
    (h.2.2.1 decided 0 0 7 0 ?_ ?_ ?_ ?_).imp fun _ h => h.1,
    (h.2.2.2.1 State.reset (.keeper 0) 1023 0 _ _ ?_ ?_ ?_ rfl rfl).imp fun _ h => h.1,
    (h.2.2.2.2 tasks 0 0 _ 0 1 2 hbmBase hbmBase ?_ ?_ ?_ ?_ (test_reaches1 tasks ?_) rfl ?_ ?_ ?_ ?_ ?_ ?_
      (test_reaches1 tasks ?_) ?_ ?_ ?_).imp fun _ h => h.1⟩
  all_goals try (unfold reaches1 calmParts reachParts)
  all_goals decide +kernel

/-! ## Statements of the engines -/

/-- Without stochastic rounding a command draws nothing. -/
theorem test_noDraw (s : State) (a b c n x : Nat) : s.beginDraw .rne a b c n x = .ok ⟨0, 0, 0⟩ := by simp [State.beginDraw]

/-- The format of a code. -/
def fmt (c : Nat) : Fmt := (Fmt.ofCode c).getD .f32

/-- MMA of 1 by 1 by 1 FP8 elements into slot 7. -/
def mmaCmd : Flight :=
  cmd0 .array (entry1 0x20 0 (2 ^ 32 + 2 ^ 128 + 2 ^ 192 + 2 ^ 224 + 2 ^ 256 + (0x33 + 7 * 2 ^ 13) * 2 ^ 144 * 2 ^ 144))

/-- CONV of one FP8 pixel of one channel by a filter of one tap. -/
def convCmd : Flight :=
  cmd0 .array (entry1 0x24 0 ((3 * 2 ^ 21 + 3 * 2 ^ 25) * 2 ^ 32 + 32 * 2 ^ 64 + (32 + 2 ^ 21 + 2 ^ 26) * 2 ^ 96 + (1 + 2 ^ 16) * 2 ^ 192
    + (1 + 2 ^ 12 + 2 ^ 24) * 2 ^ 224 + (1 + 2 ^ 9 + 2 ^ 18) * 2 ^ 144 * 2 ^ 144))

/-- Unit 0's engines as given, with one issued command. -/
def engined (f : Flight) (e : UnitEng) : State := (issued f).setEng 0 e

/-- That MMA or CONV at the array, with one load made by cycle 9 or none. -/
def arrayed (f : Flight) (loads : List (Nat × WTile)) : State :=
  engined { f with stage := .working 0x80 }
    { UnitEng.idle with
      cyc := 80, loads := loads
      jobs := [⟨0, 0, f.entry, 3, [0], 0, (ArrCmd.of f.entry).passes, loads.length, 0, 0⟩] }

/-- The tile of the load. -/
def tile1 : WTile := ⟨[[0x38]], [[0x7F]]⟩

set_option maxRecDepth 100000 in
theorem test_hyps_ArrayCommands (h : Obligations.ArrayCommands) :
    (∃ t, exec (.mma 0 0 0) (issued mmaCmd) = .next t ∧ claimed (issued mmaCmd) t mmaCmd 0x80)
      ∧ (∃ t, exec (.conv 0 0 0) (issued convCmd) = .next t ∧ claimed (issued convCmd) t convCmd 1)
      ∧ (arrayed mmaCmd []).changesOnly ((arrayed mmaCmd []).loadTick 0) []
      ∧ (∀ b < 2 ^ 52, ((arrayed mmaCmd [(9, tile1)]).rowTick 0).2.memByte b = (arrayed mmaCmd [(9, tile1)]).memByte b)
      ∧ ∀ b < 2 ^ 52, ((arrayed convCmd [(9, tile1)]).rowTick 0).2.memByte b = (arrayed convCmd [(9, tile1)]).memByte b := by
  refine ⟨(h.1 (issued mmaCmd) 0 0 0 mmaCmd _ ?_ ?_ rfl ?_ ?_ ?_ ?_ ?_).imp fun _ h => ⟨h.1, h.2.1 ?_ ?_⟩,
    (h.2.1 (issued convCmd) 0 0 0 convCmd _ ?_ ?_ rfl ?_ ?_ ?_ ?_ ?_ ?_).imp fun _ h => ⟨h.1, h.2.1 ?_ ?_⟩,
    (h.2.2.1 (arrayed mmaCmd []) _ 0 ⟨0, 0, mmaCmd.entry, 3, [0], 0, 1, 0, 0, 0⟩ ?_ ?_ ?_ rfl).2.2,
    (h.2.2.2 (arrayed mmaCmd [(9, tile1)]) _ 0 ⟨0, 0, mmaCmd.entry, 3, [0], 0, 1, 1, 0, 0⟩ true _ _ _ _ _ ?_ ?_ ?_ rfl rfl rfl rfl rfl
      rfl).2.2.1,
    (h.2.2.2 (arrayed convCmd [(9, tile1)]) _ 0 ⟨0, 0, convCmd.entry, 3, [0], 0, 1, 1, 0, 0⟩ true _ _ _ _ _ ?_ ?_ ?_ rfl rfl rfl rfl rfl
      rfl).2.2.1⟩
  all_goals try (unfold unitClean)
  all_goals decide +kernel

/-- An accumulator command of slot 7, whose image is at the highest offset that fits. -/
def accCmd (op ofs : Nat) : Flight := cmd0 .accEng (entry1 op 0 (0x80 + ofs * 2 ^ 32))

/-- The same in the last cycle of its slot. -/
def accLast (op ofs : Nat) : Flight := { accCmd op ofs with stage := .running 0x80, claimAt := 8 }

/-- The state at that cycle. -/
def accAt (op ofs : Nat) : State := engined (accLast op ofs) { UnitEng.idle with cyc := 8 + accCycles op }

/-- DRAIN of one entry of slot 7 to an FP8 byte at the scratchpad's end. -/
def drainCmd : Flight := cmd0 .drain (entry1 0x28 0 (1 + 2 ^ 9 + 7 * 2 ^ 18 + 2 ^ 21 + 0x17FFFF * 2 ^ 32 + 2 ^ 64 + 3 * 2 ^ 224))

/-- The DRAIN as it reads. -/
def drainJob : DrainJob := ⟨0, 0, drainCmd.entry, ⟨0, 0, 0⟩, [], [], 4, 0⟩
def drainAt : State := engined { drainCmd with stage := .working 0x80 } { UnitEng.idle with cyc := 4, drain := some drainJob }

set_option maxRecDepth 100000 in
theorem test_hyps_AccumulatorAndDrainCommands (h : Obligations.AccumulatorAndDrainCommands) :
    (∀ x ∈ [(Instr.accClear 0 0 0, 0x21, 0), (.accSpill 0 0 0, 0x22, 0x16C000), (.accFill 0 0 0, 0x23, 0x16C000), (.accMerge 0 0 0, 0x29, 0x16C000)],
        ∃ t, exec x.1 (issued (accCmd x.2.1 x.2.2)) = .next t)
      ∧ (∀ x ∈ [(0x21, 0), (0x22, 0x16C000), (0x23, 0x16C000), (0x29, 0x16C000)],
        (accAt x.1 x.2).onlyRegs ((accAt x.1 x.2).slotTick (accLast x.1 x.2)) [])
      ∧ (∃ t, exec (.drain 0 0 0) (issued drainCmd) = .next t ∧ claimed (issued drainCmd) t drainCmd 0x80)
      ∧ (∀ k, Sparse.get 0 (drainAt.drainTick 0).spad k = Sparse.get 0 drainAt.spad k)
      ∧ ∀ k, Sparse.get 0 (drainAt.drainOut 0 ⟨0, 0, 24, 0x17FFFF, 0x38, 8⟩).acc k = Sparse.get 0 drainAt.acc k := by
  refine ⟨fun x hx => ?_, fun x hx => ?_,
    (h.2.2.1 (issued drainCmd) 0 0 0 drainCmd _ ?_ ?_ rfl ?_ ?_ ?_ ?_).imp fun _ h =>
      ⟨h.1, h.2.1 ?_ ⟨?_, fun _ => ⟨.rne, ⟨0, 0, 0⟩, ?_, test_noDraw ..⟩⟩⟩,
    (h.2.2.2.1 drainAt _ 0 drainJob _ (fmt 3) .rne _ _ ?_ ?_ rfl ?_ ?_ ?_ rfl rfl rfl).2.2.2.1,
    (h.2.2.2.2 drainAt _ 0 ⟨0, 0, 24, 0x17FFFF, 0x38, 8⟩ ?_ rfl).2.1⟩
  case refine_1 =>
    refine (h.1 (issued (accCmd x.2.1 x.2.2)) 0 0 0 (accCmd x.2.1 x.2.2) x.1 x.2.1 ?_ ?_ ?_ ?_ ?_ ?_ ?_ ?_).imp fun _ h => h.1
    all_goals try (unfold unitClean)
    all_goals revert x
    all_goals decide +kernel
  case refine_2 =>
    refine (h.2.1 (accAt x.1 x.2) _ (accLast x.1 x.2) 0x80 0 7 rfl ?_ rfl ?_ ?_ ?_ ?_ rfl).2.1
    all_goals try (unfold unitClean)
    all_goals revert x
    all_goals decide +kernel
  all_goals try (unfold unitClean)
  all_goals decide +kernel

/-- A begun vector command. -/
def vecBegun (e : BitVec 512) : Flight := { cmd0 .vec e with begun := true }

/-- POOL of one FP8 pixel of one channel by a window of one position. -/
def poolEntry : BitVec 512 :=
  entry1 0x32 0 (32 * 2 ^ 32 + (32 + 2 ^ 21 + 2 ^ 26) * 2 ^ 64 + 64 * 2 ^ 96 + 32 * 2 ^ 128 + 32 * 2 ^ 160 + (1 + 0x33 * 2 ^ 16) * 2 ^ 192
    + (1 + 2 ^ 12) * 2 ^ 224 + (1 + 2 ^ 12) * 2 ^ 288)

/-- REGROUP of one FP8 pixel of one channel. -/
def regroupEntry : BitVec 512 :=
  entry1 0x33 0 (32 * 2 ^ 32 + 32 * 2 ^ 64 + 64 * 2 ^ 96 + 32 * 2 ^ 128 + 32 * 2 ^ 160 + (1 + 3 * 2 ^ 16) * 2 ^ 192 + (1 + 2 ^ 16) * 2 ^ 224)

theorem test_hyps_PoolAndRegroup (h : Obligations.PoolAndRegroup) :
    (∃ t, exec (.pool 0 0) (issued (vecBegun poolEntry)) = .next t) ∧ ∃ t, exec (.regroup 0 0) (issued (vecBegun regroupEntry)) = .next t := by
  refine ⟨(h.1 (issued (vecBegun poolEntry)) 0 0 (vecBegun poolEntry) _ (fmt 3) .rne ⟨0, 0, 0⟩ ?_ rfl rfl ?_ ?_ ?_ ?_ (test_noDraw ..)).imp
      fun _ h => h.1,
    (h.2 (issued (vecBegun regroupEntry)) 0 0 (vecBegun regroupEntry) _ (fmt 3) ?_ rfl rfl ?_ ?_ ?_).imp fun _ h => h.1⟩
  all_goals try (unfold unitClean)
  all_goals try (unfold noneLater)
  all_goals decide +kernel

/-- VEC_RUN of one element by the program that the unit has latched: one END. -/
def runEntry : BitVec 512 := entry1 0x30 0 (2 ^ 32 + 2 ^ 64)
def vecRunState : State :=
  { issued (vecBegun runEntry) with eng := { (issued (vecBegun runEntry)).eng with prog := [(0, (List.replicate 260 0, List.replicate 128 0))] } }

/-- SOFTMAX of one BF16 element, with temperature 1. -/
def softmaxEntry : BitVec 512 := entry1 0x31 0 (2 * 2 ^ 32 + 64 * 2 ^ 64 + 2 * 2 ^ 96 + 128 * 2 ^ 192 + 0x3F800000 * 2 ^ 256 + 0x77 * 2 ^ 144 * 2 ^ 144)

theorem test_hyps_VectorPrograms (h : Obligations.VectorPrograms) :
    (∃ t, exec (.vecRun 0 0) vecRunState = .next t) ∧ ∃ t, exec (.softmax 0 0) (issued (vecBegun softmaxEntry)) = .next t := by
  refine ⟨(h.1 vecRunState 0 0 (vecBegun runEntry) _ .rne ⟨0, 0, 0⟩ _ _ _ _ ?_ rfl rfl ?_ ?_ ?_ rfl (test_noDraw ..) rfl rfl rfl).imp fun _ h => h.1,
    (h.2 (issued (vecBegun softmaxEntry)) 0 0 (vecBegun softmaxEntry) _ .rne (fmt 7) (fmt 7) ⟨0, 0, 0⟩ _ ?_ rfl rfl ?_ ?_ ?_ ?_ (test_noDraw ..)
      rfl ?_).imp fun _ h => h.1⟩
  all_goals try (unfold unitClean)
  all_goals decide +kernel

/-- ACC_CLEAR of slot 7 that has waited for tokens in so many cycles, or has only been validated. -/
def clearWaits (waited : Nat) : Flight := { accCmd 0x21 0 with stage := .tokens 0x80 waited }

set_option maxRecDepth 100000 in
theorem test_hyps_ClaimsAndBegins (h : Obligations.ClaimsAndBegins) :
    (∃ t, exec (.slotTokenClaim 0 0 1) (issued (clearWaits 5)) = .next t ∧ claimed (issued (clearWaits 5)) t (clearWaits 5) 0x80)
      ∧ (∃ t, exec (.accHazardTimeout 0 0 0) (issued (clearWaits (2 ^ 40))) = .next t)
      ∧ (∃ t, exec (.vecCommandBegin 0 0 0) (issued (cmd0 .vec softmaxEntry)) = .next t)
      ∧ exec (.mma 0 0 7) (issued mmaCmd) = exec (.mma 0 0 (((issued mmaCmd).cycles 0 7).unitCyc 0)) ((issued mmaCmd).cycles 0 7) := by
  refine ⟨(h.1 (issued (clearWaits 5)) 0 0 1 (clearWaits 5) ?_ ?_ ?_ ⟨?_, fun e => absurd e ?_⟩).imp fun _ h => ⟨h.1, h.2⟩,
    (h.2.1 (issued (clearWaits (2 ^ 40))) 0 0 0 (clearWaits (2 ^ 40)) 0x80 (2 ^ 40) ?_ ?_ rfl ?_ ?_).imp fun _ h => h.1,
    (h.2.2.1 (issued (cmd0 .vec softmaxEntry)) 0 0 0 (cmd0 .vec softmaxEntry) ?_ ?_ ?_ ?_ ?_).imp fun _ h => h.1,
    (h.2.2.2 (issued mmaCmd) _ 0 0 7 7 ?_ rfl).1 (Instr.mma 0 0) (List.mem_cons_self ..)⟩
  all_goals try (unfold unitClean)
  all_goals decide +kernel

/-- A command of an engine whose completion cycle is 9, at that cycle. -/
def ending (eng : Engine) (op : Nat) : Flight := { cmd0 eng (entry1 op (2 ^ 33) 0) with stage := .running 0x80, doneAt := 9 }
def endingAt (eng : Engine) (op : Nat) : State := engined (ending eng op) { UnitEng.idle with cyc := 9 }

theorem test_hyps_EngineCompletionsAndCounters (h : Obligations.EngineCompletionsAndCounters) :
    (∀ x ∈ [(Instr.arrayCommandComplete 0 0 9, Engine.array, 0x20), (.accEngineDone 0 0 9, .accEng, 0x21), (.drainComplete 0 0 9, .drain, 0x28),
        (.vecCommandComplete 0 0 9, .vec, 0x31)], ∃ t, exec x.1 (endingAt x.2.1 x.2.2) = .next t)
      ∧ (∃ t, exec (.arrCntClr (.server 0) 1023) State.reset = .next t) ∧ (∃ t, exec (.accCntClr (.server 0) 1023) State.reset = .next t)
      ∧ (∃ t, exec (.vecCntClr (.server 0) 1023) State.reset = .next t) ∧ (∃ t, exec (.cluCntClr (.server 0) 127) State.reset = .next t)
      ∧ ∃ t, exec (.dmaCntClr (.server 0) 127) State.reset = .next t := by
  refine ⟨fun x hx => ?_, (h.2.1 State.reset (.server 0) 1023 ?_).imp fun _ h => h.1,
    (h.2.2.1 State.reset (.server 0) 1023 ?_).imp fun _ h => h.1, (h.2.2.2.1 State.reset (.server 0) 1023 ?_).imp fun _ h => h.1,
    (h.2.2.2.2.1 State.reset (.server 0) 127 ?_).imp fun _ h => h.1, (h.2.2.2.2.2 State.reset (.server 0) 127 ?_).imp fun _ h => h.1⟩
  case refine_1 =>
    refine (h.1 (endingAt x.2.1 x.2.2) 0 0 9 (ending x.2.1 x.2.2) x.1 x.2.1 ?_ ?_ ?_ ?_).imp fun _ h => h.1
    all_goals revert x
    all_goals decide +kernel
  all_goals decide +kernel

/-! ## Statements of DMA, translation and coherence -/

/-- A DMA_COPY of one row of 8 bytes, from the start of a source to byte 64 of a destination, by their KIND and index. -/
def copyOf (src dst : Nat) : BitVec 512 :=
  entry1 0x40 0 (src + dst * 2 ^ 128 + 64 * 2 ^ 192 + 8 * 2 ^ 128 * 2 ^ 128 + 1 * 2 ^ 144 * 2 ^ 144)

/-- A channel with such a copy. -/
def copyChan (src dst : Nat) : Chan := ⟨0, 0, 0, 1, copyOf src dst, 0, 0, 0, none⟩

/-- A DMA command of queue 0 of unit 0, with a buffer of 64 bytes at 0, begun or not. -/
def dmaOf (e : BitVec 512) (b : Bool) : Flight := { cmd0 .dma e with bufs := [7 * 2 ^ 48 + 64 * 2 ^ 64, 7 * 2 ^ 48 + 4096 * 2 ^ 64], begun := b }

/-- The command on channel 0 of cluster 0, context 1 with region 0 and resident on units 0 and 1. -/
def dmaState (f : Flight) (chan : Chan) : State :=
  let s := ((cmdQueue [(68, 1)]).setFld (R.unitRes 1) F.unitRes_RESIDENT 1).setFld (R.unitRes 1) F.unitRes_CTX 1
  { s with sch := { s.sch with flights := [f] }, xl := { s.xl with chans := [(0, chan)] } }

/-- A copy that runs. -/
def copying (src dst : Nat) : State := dmaState (dmaOf (copyOf src dst) true) (copyChan src dst)

/-- PREFETCH of the buffer's 64 bytes. -/
def prefetchCmd : Flight := dmaOf (entry1 0x42 0 (64 * 2 ^ 128)) false
def prefetching : State := dmaState prefetchCmd (copyChan 1 1)

/-- Its pages. -/
def prefetched := prefetching.prefetchPages (unitCluster (0 : Fin 1024)) prefetchCmd.ctx (entBit prefetchCmd.entry 36 0)
  (entBit prefetchCmd.entry 36 1) (bvBytes prefetchCmd.entry 32 4 / 4096 + 2) ((prefetchCmd.buf 0).base + entBits prefetchCmd.entry 24 47 0)
  (bvBytes prefetchCmd.entry 32 4) 0

/-- The pages a prefetch skipped, where it ended well. -/
def skipped : Pref → Option Nat
  | .go n => some n
  | _ => none

/-- A prefetch that skipped so many pages. -/
theorem test_prefetch (x : Pref × State) (n : Nat) (h : skipped x.1 = some n) : x = (.go n, x.2) := by
  match x, h with
  | (.go _, _), h => cases h; rfl
  | (.bad _, _), h => cases h
  | (.busy, _), h => cases h

/-- Different scratchpads do not overlap. -/
theorem test_apart (s : State) (k : Chan) (h : (dmaSrc k.cmd).kind = 1 ∧ (dmaDst k.cmd).kind = 1 ∧ (dmaSrc k.cmd).idx ≠ (dmaDst k.cmd).idx)
    (a : Nat) : s.overlaps k a = false := by
  unfold State.overlaps
  simp [h.1, h.2.1, h.2.2]

/-- The flight, its channel and the other conditions of a piece. -/
theorem test_pieceReady (s : State) (k : Chan) (f : Flight) (h : s.running = true ∧ Ent.opcode k.cmd = 0x40
    ∧ s.regBit (R.dmaSts 0) 16 = false ∧ k.data = none ∧ k.pos < dmaRows k.cmd * dmaRowBytes k.cmd ∧ s.fld (R.inj .clu 0) F.inj_ARM = 0
    ∧ ∀ e ∈ s.coh.lines, e.2.err = []) (hk : lookupKey s.xl.chans 0 = some k)
    (hf : s.flight k.u k.q (fun f => f.seq == k.seq) = some f ∧ f.begun = true ∧ f.stage = .issued) : pieceReady s 0 0 k := by
  obtain ⟨runs, copies, going, fresh, left, calm, clean⟩ := h
  exact ⟨hk, runs, copies, ⟨f, hf⟩, going, fresh, left, calm, clean⟩

set_option maxRecDepth 100000 in
theorem test_hyps_DmaCommands (h : Obligations.DmaCommands) :
    (∃ t, exec (.dmaCopy 0 0) (dmaState (dmaOf (copyOf 1 1) false) (copyChan 1 1)) = .next t)
      ∧ (∃ t, exec (.prefetch 0 0) prefetching = .next t ∧ atStage t prefetchCmd (.finished 0 0))
      ∧ (∃ t, exec (.prefetch 0 0) prefetching = .next t ∧ prefetched.2.changesOnly t [])
      ∧ (∃ t, exec (.dmaPiece 0 0) (copying 1 5) = .next t) ∧ (∃ t, exec (.dmaPiece 0 0) (copying 0 1) = .next t)
      ∧ (∃ t, exec (.dmaPiece 0 0) (copying 1 0) = .next t) ∧ ∃ t, exec (.dmaPiece 0 0) (copying 0 0) = .next t := by
  refine ⟨(h.1 _ 0 0 (dmaOf (copyOf 1 1) false) ?_ ?_).imp fun _ h => h.1,
    (h.2.1 prefetching 0 0 prefetchCmd hbmBase ?_ ?_ ?_ ?_ (test_reaches1 prefetching ?_)).imp fun _ h => ⟨h.1, h.2.1⟩,
    (h.2.2.1 prefetching prefetched.2 0 0 prefetchCmd 0 ?_ ?_ (test_prefetch prefetched 0 ?_)).imp fun _ h => ⟨h.1, h.2.2⟩,
    (h.2.2.2.1 (copying 1 5) 0 0 (copyChan 1 5) (test_pieceReady _ _ (dmaOf (copyOf 1 5) true) ?_ ?_ ?_) ?_ ?_
      (test_apart _ _ ?_ <| dstAt _ ·) ?_ ?_ ?_).imp fun _ h => h.1,
    (h.2.2.2.2.1 (copying 0 1) 0 0 (copyChan 0 1) 8 hbmBase (test_pieceReady _ _ (dmaOf (copyOf 0 1) true) ?_ ?_ ?_) ?_ ?_ ?_
      (test_reaches1 (copying 0 1) ?_) ?_ ?_ ?_).imp fun _ h => h.1,
    (h.2.2.2.2.2.1 (copying 1 0) 0 0 (copyChan 1 0) 8 (hbmBase + 64) (test_pieceReady _ _ (dmaOf (copyOf 1 0) true) ?_ ?_ ?_) ?_ ?_ ?_
      (test_reaches1 (copying 1 0) ?_) ?_ ?_ ?_).imp fun _ h => h.1,
    (h.2.2.2.2.2.2 (copying 0 0) _ _ _ _ 0 0 (copyChan 0 0) (.mem ⟨hbmBase, false⟩) (.mem ⟨hbmBase + 64, false⟩) (List.replicate 8 0)
      (test_pieceReady _ _ (dmaOf (copyOf 0 0) true) ?_ ?_ ?_) ?_ ?_ (test_pair _ _ ?_) (test_pair _ _ ?_) (test_pair _ _ ?_) ?_ ?_
      (test_pair _ _ ?_)).imp fun _ h => h.1⟩
  all_goals try (unfold reaches1 calmParts reachParts)
  all_goals try (unfold unitClean)
  all_goals decide +kernel

/-- The fetch of a queue's head, as a walk needs it and as it parks. -/
def fetchWalk : WalkReq := ⟨.fetch 0 0, 1, 0, .fetch⟩

/-- Context 1's page tables lie in granule 1 and map its first GiB to the first of HBM; no TLB holds anything. -/
def walked : State :=
  let s := (cmdQueue [(hbmBase + 0x10049, 0x10), (hbmBase + 0x1004A, 1), (hbmBase + 0x1004D, 1), (hbmBase + 0x11000, 1), (hbmBase + 0x11001, 0x20),
    (hbmBase + 0x11002, 1), (hbmBase + 0x11005, 1), (hbmBase + 0x11006, 0x10), (hbmBase + 0x12000, 0x2F), (hbmBase + 0x12005, 1),
    (hbmBase + 0x12006, 0x10)]).setFld R.pkgCtxTbl F.pkgCtxTbl_ADDR ((hbmBase + 0x10000) / 64)
  { s with xl := { s.xl with tlb := [] } }

/-- The leaf. -/
def leaf1 : Leaf := ⟨0, 2 ^ 30, hbmBase, true, true, true, false⟩

/-- The leaf of a walk that finds one. -/
def leafOf : Except Cause Leaf → Option Leaf
  | .ok l => some l
  | .error _ => none

theorem test_walks (s : State) (ctx va : Nat) (a : AccessKind) (l : Leaf) (h : calmParts s) (i : s.regs.all (fun e => e.1.name != .inj) = true)
    (v : va < 2 ^ 48) (c : s.xl.walkCache = []) (n : s.xl.tlb = []) (w : leafOf (s.walk ctx va a).res = some l) : walks s 0 ctx va a l := by
  refine ⟨test_calm s h i, by decide, v, c, by simp [n], ?_⟩
  match (s.walk ctx va a).res, w with
  | .ok _, w => exact Option.some.inj w

/-- A channel's request of context 1, parked. -/
def parkOne : Park := ⟨0, 0, .channel 0 0, 1, 0, .read⟩

/-- The state with that request parked, and a record in the latch. -/
def parked : State :=
  { walked with xl := { walked.xl with parks := [parkOne], latches := [(0, 0, 5)] } }

set_option maxRecDepth 100000 in
theorem test_hyps_WalksAndFaultQueues (h : Obligations.WalksAndFaultQueues) :
    (∃ t, exec (.walkComplete [fetchWalk]) walked = .next t) ∧ exec (.walkComplete [fetchWalk]) walked = .next (walked.walkEnds fetchWalk)
      ∧ (∃ t, exec (.fqLatchDrain 0) parked = .next t)
      ∧ (∃ t, exec (.fqResolveRetry (.server 0) 0 0) parked = .next t ∧ parked.memKept t)
      ∧ exec (.fqResolveRetry (.server 0) 0 0) parked = .next (((parked.unpark [parkOne]).unparkQueue 0).walkFor (.channel 0 0) 1 0 .read)
      ∧ ∃ t, exec (.fqResolveFail (.server 0) 0 0) parked = .next t := by
  refine ⟨(h.1 walked fetchWalk leaf1 ?_ ?_ ?_ (test_walks _ _ _ _ _ ?_ ?_ ?_ rfl rfl ?_)).imp fun _ h => h.1,
    h.2.1 walked [fetchWalk] (List.pairwise_singleton _ _), (h.2.2.1 parked 0 (0, 0, 5) _ ?_ ?_ rfl).imp fun _ h => h.1,
    (h.2.2.2.1 parked (.server 0) 0 0 parkOne 0 0 leaf1 ?_ ?_ ?_ rfl (test_walks _ _ _ _ _ ?_ ?_ ?_ rfl rfl ?_)).imp fun _ h =>
      ⟨h.1, h.2.2.2.2.2⟩,
    h.2.2.2.2.1 parked (.server 0) 0 0 ?_ ?_ ?_, (h.2.2.2.2.2 parked (.server 0) 0 0 parkOne [] ?_ ?_ ?_ ?_).imp fun _ h => h.1⟩
  all_goals try (unfold calmParts)
  all_goals decide +kernel

/-- A sync and an invalidation of everything in progress. -/
def syncing : State :=
  { State.reset with xl := { State.reset.xl with gotSync := some ⟨0, 0, true⟩, tlbInv := some ⟨0, true, 0, 0, true⟩ } }

theorem test_hyps_SyncAndInvalidate (h : Obligations.SyncAndInvalidate) :
    (∃ t, exec (.gotSync (.server 0) 0) State.reset = .next t) ∧ (∃ t, exec .gotSyncDone syncing = .next t)
      ∧ (∃ t, exec (.tlbInv (.server 0) 0) State.reset = .next t) ∧ ∃ t, exec .tlbInvDone syncing = .next t := by
  refine ⟨(h.1 State.reset (.server 0) 0 ?_ ?_).imp fun _ h => h.1, (h.2.1 syncing ⟨0, 0, true⟩ rfl ?_).imp fun _ h => h.1,
    (h.2.2.1 State.reset (.server 0) 0 ?_ ?_).elim fun t h => h.elim fun _ h => ⟨t, h.1⟩,
    (h.2.2.2 syncing ⟨0, true, 0, 0, true⟩ rfl ?_).imp fun _ h => h.1⟩ <;> decide +kernel

/-- The first line of HBM. -/
def line0 : LineNo := 0x200000000

/-- A request of SYS for it by an agent of die 0. -/
def askBy (a : Fin 11) : CohReq := ⟨⟨a.val, by omega⟩, line0, a, none, 7, 1, .add, 120, 8, 0, none⟩

/-- That of agent 0. -/
def ask : CohReq := askBy 0

/-- DIRECTORY mode, with a protocol state. -/
def inDir (f : Coherence → Coherence) : State :=
  { State.reset with coh := f State.reset.coh }.setFld (R.cohSts 4) F.cohSts_MODE_CUR 1

/-- ARBITER mode, with a protocol state. -/
def inArb (f : Coherence → Coherence) : State :=
  { State.reset with coh := f State.reset.coh }.setFld (R.cohSts 4) F.cohSts_MODE_CUR 0

/-- The line is agent 5's. -/
def owned : State := inDir fun c => { c with dir := [(line0.toNat, .exclusive 5)] }

/-- A transaction of agent 0 on a line that awaits agents 5 and 6. -/
def txnOn (slot line : Nat) : Txn := ⟨slot, line, .rdS, ask, .snoop, false, [5, 6], [], [], [], false, none⟩

/-- The line is BUSY. -/
def busy : State := inDir fun c => { c with txns := [txnOn 0 line0.toNat] }

/-- Every slot of the line's home is taken by other lines. -/
def slotless (c : Coherence) : Coherence := { c with txns := (List.range 256).map (fun k => txnOn k (line0.toNat + 1)) }

/-- An entry is held by no agent twice. -/
theorem test_nodup (l : List (Nat × DirEntry)) (line : Nat) (h : l.all (fun e => decide e.2.agents.Nodup) = true) (e : DirEntry)
    (he : lookupKey l line = some e) : e.agents.Nodup := by
  simp only [lookupKey, Option.map_eq_some_iff] at he
  obtain ⟨x, hx, rfl⟩ := he
  simpa using List.all_eq_true.mp h x (List.mem_of_find?_eq_some hx)

/-- What of homeAccepts is a finite question. -/
def homeParts (s : State) (k : CohKind) (line : Nat) : Prop :=
  s.coh.switchTo = none ∧ s.txnBusy line = false ∧ (s.freeSlot line).isSome = true ∧ (s.needsEntry k line = true → s.fullSet line = none)
    ∧ lookupKey s.coh.dirErr line = none ∧ s.fld (R.inj .coh (homeOf line).1) F.inj_ARM = 0
    ∧ s.coh.dir.all (fun e => decide e.2.agents.Nodup) = true

theorem test_homeAccepts (s : State) (k : CohKind) (line : Nat) (h : homeParts s k line) : homeAccepts s k line := by
  obtain ⟨h1, h2, h3, h4, h5, h6, h7⟩ := h
  exact ⟨h1, h2, h3, h4, h5, h6, fun e => test_nodup _ _ h7 e⟩

theorem test_cohAccepts (s : State) (k : CohKind) (r : CohReq) (h : s.arbiterMode = false ∧ homeParts s k r.line.toNat) (a : cohAsks s k r) :
    cohAccepts s k r := ⟨h.1, a, test_homeAccepts s k _ h.2⟩

set_option maxRecDepth 100000 in
theorem test_hyps_RequestsSnoopOrRefuse (h : Obligations.RequestsSnoopOrRefuse) :
    (∃ t, exec (.rdS ask []) owned = .next t) ∧ (∃ t, exec (.atom ask []) busy = .next t)
      ∧ (∃ t, exec (.wrLine ask []) (inDir slotless) = .next t)
      ∧ (∃ t, exec (.upg ask []) (inDir fun c => { c with switchTo := some false, lines := [(lineKey 0 line0.toNat, ⟨.s, none, 0, [], []⟩)] }) = .next t)
      ∧ (∃ t, exec (.rdCur ask []) (inArb id) = .next t) ∧ ∃ t, exec (.rdX ask [(.rdS, askBy 7)]) owned = .next t := by
  refine ⟨(h.1 owned .rdS ask (test_cohAccepts _ _ _ ?_ ?_) ?_).imp fun _ h => h.1,
    (h.2.1 busy .atom ask .busy ?_ ?_ (.inr (.inl ?_))).imp fun _ h => h.1,
    (h.2.1 (inDir slotless) .wrLine ask .slots ?_ ?_ (.inr (.inr ?_))).imp fun _ h => h.1,
    (h.2.1 _ .upg ask .modeSwitch ?_ ?_ (.inl ?_)).imp fun _ h => h.1,
    (h.2.2.1 (inArb id) .rdCur ask ?_ ?_ ?_ ?_ ?_ ?_).imp fun _ h => h.1,
    (h.2.2.2 owned .rdS ask (askBy 7) (test_cohAccepts _ _ _ ?_ ?_) ?_ ?_ ?_ ?_ ?_ ?_ ?_).imp fun _ h => h.1⟩
  all_goals try (unfold homeParts)
  all_goals try (unfold cohAsks homeQuiet)
  all_goals decide +kernel

theorem test_hyps_RequestsUncached (h : Obligations.RequestsUncached) :
    (∃ t, exec (.rdX ask []) (inDir id) = .next t) ∧ (∃ t, exec (.rdCur ask []) (inDir id) = .next t)
      ∧ (∃ t, exec (.wrPart ask []) (inDir id) = .next t) ∧ ∃ t, exec (.atom ask []) (inDir id) = .next t := by
  refine ⟨(h.1 (inDir id) .rdX ask (test_cohAccepts _ _ _ ?_ ?_) ?_ ?_).imp fun _ h => h.1,
    (h.2.1 (inDir id) ask (test_cohAccepts _ _ _ ?_ ?_) ?_ ?_).imp fun _ h => h.1,
    (h.2.2.1 (inDir id) .wrPart ask 1 (test_cohAccepts _ _ _ ?_ ?_) ?_ ?_ ?_ ?_ ?_).imp fun _ h => h.1,
    (h.2.2.2 (inDir id) ask (test_cohAccepts _ _ _ ?_ ?_) ?_ ?_ ?_ ?_ ?_).imp fun _ h => h.1⟩
  all_goals try (unfold homeParts)
  all_goals try (unfold cohAsks homeQuiet)
  all_goals decide +kernel

/-- A line in a state. -/
def lineIn (st : LineState) : CacheLine := ⟨st, none, 9, [], []⟩

/-- Agent 5 holds the line in a state, and a message is on its way. -/
def holds (st : LineState) (ms : List CohMsg) : State :=
  inDir fun c => { c with lines := [(lineKey 5 line0.toNat, lineIn st)], msgs := ms }

theorem test_hyps_EvictionSteps (h : Obligations.EvictionSteps) :
    (∃ t, exec (.wb 5 line0) (holds .m []) = .next t) ∧ (∃ t, exec (.cleanEvict 5 line0) (holds .f []) = .next t)
      ∧ (∃ t, exec (.wb 5 line0) (holds (.w true) [.wb 5 line0.toNat]) = .next t)
      ∧ ∃ t, exec (.wbAck 5 line0) (holds (.w false) [.wbAck 5 line0.toNat]) = .next t := by
  refine ⟨((h.1 (holds .m []) 5 line0 (lineIn .m) ?_ ?_ ?_ ?_).1 rfl).imp fun _ h => h.1,
    ((h.1 (holds .f []) 5 line0 (lineIn .f) ?_ ?_ ?_ ?_).2 (.inr rfl)).imp fun _ h => h.1,
    (h.2.1 (holds (.w true) [.wb 5 line0.toNat]) 5 line0 (lineIn (.w true)) true ?_ ?_ ?_ rfl ?_ rfl ?_ ?_).imp fun _ h => h.1,
    (h.2.2 (holds (.w false) [.wbAck 5 line0.toNat]) 5 line0 ?_).imp fun _ h => h.1⟩
  all_goals try (unfold arrives)
  all_goals decide +kernel

theorem test_hyps_SnoopsAnswered (h : Obligations.SnoopsAnswered) :
    ∃ t, exec (.snpX 5 line0) (holds .m [.snoop 5 line0.toNat .snpX false]) = .next t := by
  refine (h (holds .m [.snoop 5 line0.toNat .snpX false]) .snpX 5 line0 false (some (lineIn .m)) ?_ ?_ ?_ ?_ (by rintro _ ⟨⟩; rfl)).imp
    fun _ h => h.1
  all_goals try (unfold arrives)
  all_goals decide +kernel

/-- A request that agent 0 has outstanding, refused so often, and to be retried from a cadence value on. -/
def waiting0 (n : Nat) (at' : Option Word) : Outstanding := ⟨.rdS, ask, n, 3, at'⟩

/-- Messages on their way, with the transaction and the request they belong to, and a copy of agent 0. -/
def talking (lines : List (Nat × CacheLine)) (ms : List CohMsg) : State :=
  inDir fun c => { c with txns := [txnOn 0 line0.toNat], outstanding := [waiting0 15 none], msgs := ms, lines := lines }

/-- Data for agent 0 from agent 6. -/
def dataTo0 : CohMsg := .data 6 0 line0.toNat ⟨4, []⟩

set_option maxRecDepth 100000 in
theorem test_hyps_GrantsAndRetries (h : Obligations.GrantsAndRetries) :
    (∃ t, exec (.snoopAnswer 5 line0) (talking [] [.answer 5 line0.toNat .ackData true none]) = .next t)
      ∧ (∃ t, exec (.cohDataGrant 0 line0) (talking [] [dataTo0, .grant 0 line0.toNat (some .e) true]) = .next t)
      ∧ (∃ t, exec (.cohDataGrant 0 line0) (talking [(lineKey 0 line0.toNat, lineIn .s)] [.grant 0 line0.toNat (some .e) false]) = .next t)
      ∧ (∃ t, exec (.cohDataGrant 0 line0) (talking [] [dataTo0, .grant 0 line0.toNat none true]) = .next t)
      ∧ (∃ t, exec (.cmpAck 0 line0) (talking [] [.cmpAck 0 line0.toNat]) = .next t)
      ∧ (∃ t, exec (.nack 0 line0) (talking [] [.nack 0 line0.toNat .slots]) = .next t)
      ∧ (∃ t, exec (.nackRetry 0 line0) (inArb fun c => { c with outstanding := [waiting0 16 (some 0)] }) = .next t)
      ∧ ∃ t, exec (.nackRetry 0 line0) (inDir fun c => { c with outstanding := [waiting0 16 (some 0)], txns := [txnOn 0 line0.toNat] }) = .next t
        ∧ t.coh.ageQ = [(.rdS, { ask with aged := some 3 })] := by
  refine ⟨(h.1 _ 5 line0 .ackData true none (txnOn 0 line0.toNat) ?_ ?_ ?_ ?_ ?_ ?_).elim fun t h => h.elim fun _ h => ⟨t, h.1⟩,
    (h.2.1 _ 0 line0 (waiting0 15 none) .e 6 ⟨4, []⟩ ?_ ?_ ?_ ?_ ?_ ?_).imp fun _ h => h.1,
    (h.2.2.1 _ 0 line0 (waiting0 15 none) .e (lineIn .s) (by rintro m (_ | ⟨_, ⟨⟩⟩) _ _ ⟨⟩) ?_ ?_ ?_ ?_ ?_).imp fun _ h => h.1,
    (h.2.2.2.1 _ 0 line0 6 ⟨4, []⟩ ?_ ?_ ?_ ?_).imp fun _ h => h.1,
    (h.2.2.2.2.1 _ 0 line0 ?_ ?_ ?_).imp fun _ h => h.1,
    (h.2.2.2.2.2.1 _ 0 line0 .slots (waiting0 15 none) ?_ ?_).elim fun t h => h.elim fun _ h => ⟨t, h.1⟩,
    (h.2.2.2.2.2.2 (inArb fun c => { c with outstanding := [waiting0 16 (some 0)] }) 0 line0 (waiting0 16 (some 0)) 0 _ ?_ rfl ?_ ?_ ?_ rfl ?_
      ?_).imp fun _ h => h.1,
    (h.2.2.2.2.2.2 (inDir fun c => { c with outstanding := [waiting0 16 (some 0)], txns := [txnOn 0 line0.toNat] }) 0 line0
      (waiting0 16 (some 0)) 0 _ ?_ rfl ?_ ?_ ?_ rfl ?_ ?_).imp fun _ h => ⟨h.1, (h.2.2 ?_ ?_ ?_ ?_ ?_).1⟩⟩
  all_goals try (unfold arrives)
  all_goals decide +kernel

set_option maxRecDepth 100000 in
theorem test_hyps_ArbiterAndModes (h : Obligations.ArbiterAndModes) :
    (∃ t, exec .arbiterForward (inArb fun c => { c with arbQ := [(.rdS, ask)] }) = .next t)
      ∧ (∃ t, exec .arbiterForward (inArb fun c => { slotless c with arbQ := [(.rdS, ask)] }) = .next t)
      ∧ (∃ t, exec .arbiterForward (inArb fun c => { c with arbQ := [(.rdS, ask)], dir := [(line0.toNat, .exclusive 5)] }) = .next t)
      ∧ (∃ t, exec (.cohModeWrite (.keeper 0) false) State.reset = .next t)
      ∧ (∃ t, exec .modeSwitchDone (inArb fun c => { c with switchTo := some true }) = .next t)
      ∧ (∃ t, exec (.dirInit (.keeper 0) 3 3) (inArb id) = .next t)
      ∧ ∃ t, exec (.dirInitDone 3 3) (State.reset.setBit (R.cohSts 3) 5 true) = .next t := by
  refine ⟨(h.1 _ (.rdS, ask) ?_ ?_ ?_ ?_ (.inr ⟨test_homeAccepts _ _ _ ?_, .inr ?_⟩)).imp fun _ h => h.1,
    (h.1 _ (.rdS, ask) ?_ ?_ ?_ ?_ (.inl ?_)).imp fun _ h => h.1,
    (h.1 _ (.rdS, ask) ?_ ?_ ?_ ?_ (.inr ⟨test_homeAccepts _ _ _ ?_, .inl ?_⟩)).imp fun _ h => h.1,
    (h.2.1 State.reset (.keeper 0) false ?_ ?_ ?_ ?_).imp fun _ h => h.1,
    (h.2.2.1 (inArb fun c => { c with switchTo := some true }) true rfl rfl rfl rfl).imp fun _ h => h.1,
    (h.2.2.2.1 (inArb id) (.keeper 0) 3 3 ?_ ?_ ?_).imp fun _ h => h.1,
    (h.2.2.2.2 (State.reset.setBit (R.cohSts 3) 5 true) 3 3 ?_ ?_ ?_).imp fun _ h => h.1⟩
  all_goals try (unfold homeParts)
  all_goals try (unfold homeQuiet)
  all_goals decide +kernel

/-! ## Statements of registers, cores and PCIe ports -/

/-- What of regWriteAt is a finite question. -/
def writeParts (a : Agent) (o : BitVec 32) (r : Reg) (w : Nat) : Prop :=
  State.reset.running = true ∧ State.reset.regReaches a r.page r.inst = true ∧ o.toNat % 8 = 0 ∧ r.present = true
    ∧ pageAt o.toNat = some ⟨r.page, r.inst, w⟩ ∧ r.page.regAt r.inst w = some r

theorem test_writeAt (a : Agent) (o : BitVec 32) (r : Reg) (w : Nat) (h : writeParts a o r w) : regWriteAt State.reset a o r :=
  let ⟨h1, h2, h3, h4, h5, h6⟩ := h
  ⟨h1, h2, h3, h4, w, h5, h6⟩

/-- HOST.CORE_VEC takes a value. -/
def vecWrite (k : Fin 2) (v : Word) : RegWrite := ⟨.keeper k, 12576, v⟩

theorem test_hyps_RegisterWrites (h : Obligations.RegisterWrites) :
    (writeOrder [vecWrite 1 8, vecWrite 0 9]).Perm [vecWrite 1 8, vecWrite 0 9]
      ∧ exec (.registerWrite [vecWrite 1 8, vecWrite 0 9]) State.reset
        = exec (.registerWrite [vecWrite 1 8]) (State.reset.writeReg (.keeper 0) R.hostCoreVec 9)
      ∧ (∃ t, exec (.registerWrite [vecWrite 0 9]) State.reset = .next t ∧ State.reset.changesOnly t [R.hostCoreVec])
      ∧ (∃ t, exec (.registerWrite [⟨.server 0, 32, 1⟩]) State.reset = .next t)
      ∧ (∃ t, exec (.registerWrite [⟨.server 0, 12576, 9⟩]) State.reset = .next t)
      ∧ exec (.registerWrite [⟨.keeper 0, 0xFF8, 9⟩]) State.reset = .next State.reset := by
  have at' : ∀ a, writeParts a 12576 R.hostCoreVec 288 → regWriteAt State.reset a 12576 R.hostCoreVec := fun a => test_writeAt a _ _ 288
  refine ⟨(h.1 _).1, ?_, (h.2.2.2.1 State.reset (.keeper 0) 12576 9 R.hostCoreVec (at' _ ?_) ?_ ?_).imp fun _ h => ⟨h.1, h.2.2⟩,
    (h.2.2.2.2.1 State.reset (.server 0) 32 .pkg 0 1 (test_writeAt _ _ _ 32 ?_)).imp fun _ h => h.1,
    (h.2.2.2.2.2.1 State.reset (.server 0) 12576 9 (at' _ ?_) ?_ ?_).imp fun _ h => h.1,
    h.2.2.2.2.2.2 State.reset (.keeper 0) 0xFF8 9 ⟨.pkg, 0, 0xFF8⟩ ?_ ?_ ?_ ?_⟩
  case refine_1 =>
    obtain ⟨t, h1, h2⟩ := h.2.1 State.reset (vecWrite 0 9) [vecWrite 1 8, vecWrite 0 9] [vecWrite 1 8] (by decide +kernel)
    have h3 := h.2.2.1 State.reset (.keeper 0) 12576 9 R.hostCoreVec (at' _ (by unfold writeParts; decide +kernel))
    rw [h2, Host.Outcome.next.inj (h1.symm.trans h3)]
  all_goals try (unfold writeParts)
  all_goals decide +kernel

/-- Server core 63 runs, and the keepers. -/
def coresOf (s : State) : State := { s with plat := { s.plat with keepersRun := true } }.setReg R.hostCoreRun (BitVec.ofNat 64 (2 ^ 63))
def coresRun : State := coresOf State.reset

theorem test_hyps_CoreControls (h : Obligations.CoreControls) :
    (∃ t, exec (.cgrpClk (.keeper 0) 0x10) State.reset = .next t) ∧ (∃ t, exec .cgrpClkDone State.reset = .next t)
      ∧ (∃ t, exec (.coreRun (.keeper 0) 1) coresRun = .next t) ∧ (∃ t, exec (.sctxbindWrite 63 .vs 5) coresRun = .next t)
      ∧ coresRun.hartCsr 63 .mhartid = some 63
      ∧ (coresRun.setReg (R.pkgAvailCore) 0).hartCsr 63 .time = none := by
  refine ⟨(h.1 State.reset (.keeper 0) 0x10 ?_ ?_ ?_ ?_).imp fun _ h => h.1, (h.2.1 State.reset).imp fun _ h => h.1,
    (h.2.2.1 coresRun (.keeper 0) 1 63 ?_ ?_ ?_).imp fun _ h => h.1, (h.2.2.2.1 coresRun 63 .vs 5 ?_).imp fun _ h => h.1,
    ((h.2.2.2.2 coresRun 63).1 ?_).1, ((h.2.2.2.2 (coresRun.setReg (R.pkgAvailCore) 0) 63).2 ?_).2 .time⟩ <;> decide +kernel

/-- Memory is quiet where nothing is cached, damaged, held, armed, gone or broken. -/
theorem test_quiet (s : State) (h : calmParts s ∧ s.plat.broken = [] ∧ ∀ k < 16, s.stackAvail k = true)
    (i : s.regs.all (fun e => e.1.name != .inj) = true) : quietMemory s :=
  ⟨test_calm s h.1 i, fun x => by simp [State.stackGone, h.2.2 (stackOf x) (Nat.mod_lt _ (by decide))], fun l => by simp [State.broken, h.2.1]⟩

/-- A message due of the PKG page. -/
def irqDue : State := { State.reset with host := { State.reset.host with irqDue := [(.pkg, 0)] } }

/-- Core 63 is bound to context 1, which owns granule 0. -/
def coreBound : State := let s := coresOf (ctx1 []); { s with host := { s.host with sctx := [(63, BitVec.ofNat 64 (2 ^ 63 + 1))] } }

set_option maxRecDepth 100000 in
theorem test_hyps_CoreAccesses (h : Obligations.CoreAccesses) :
    (∃ t, exec (.serverCoreAccess ⟨63, .hs, .store [1, 2], 0x1BFFFFFFFFE, 2, false⟩) coresRun = .next t)
      ∧ (∃ t, exec (.serverCoreAccess ⟨63, .m, .load, 0x10000000000, 8, false⟩) coresRun = .next t)
      ∧ (∃ t, exec (.serverCoreAccess ⟨63, .m, .amo .add 5 0, 0x10000000078, 8, true⟩) coresRun = .next t)
      ∧ (∃ t, exec (.serverCoreAccess ⟨63, .u, .load, 0x10000000000, 8, false⟩) coreBound = .next t)
      ∧ (∃ t, exec (.serverCoreAccess ⟨63, .vu, .fetch, 0x10000000000, 8, false⟩) coresRun = .next t)
      ∧ (∃ t, exec (.keeperWardenAccess ⟨.inl 1, .store [1, 2], 0xFFFFFE, 2⟩) coresRun = .next t)
      ∧ (∃ t, exec (.keeperWardenAccess ⟨.inl 1, .fetch, 0x10000000000, 4⟩) coresRun = .next t)
      ∧ (∃ t, exec (.keeperWardenAccess ⟨.inl 1, .load, 0x13FFFFFFF, 1⟩) coresRun = .next t)
      ∧ ∃ t, exec (.interruptMessage .pkg 0) irqDue = .next t := by
  refine ⟨(h.1 coresRun ⟨63, .hs, .store [1, 2], 0x1BFFFFFFFFE, 2, false⟩ [1, 2] ?_ (.inr rfl) rfl ?_ ?_ (test_quiet _ ?_ ?_) ?_).imp fun _ h => h.1,
    (h.2.1 coresRun ⟨63, .m, .load, 0x10000000000, 8, false⟩ ?_ (.inl rfl) (.inl rfl) ?_ (test_quiet _ ?_ ?_)).imp fun _ h => h.1,
    (h.2.2.1 coresRun ⟨63, .m, .amo .add 5 0, 0x10000000078, 8, true⟩ .add 5 0 ?_ (.inl rfl) rfl ?_ ?_ (test_quiet _ ?_ ?_) ?_).imp fun _ h => h.1,
    (h.2.2.2.1 coreBound ⟨63, .u, .load, 0x10000000000, 8, false⟩ 1 ?_ ?_ ?_ ?_ ?_ rfl ?_ ?_ ?_ (test_quiet _ ?_ ?_) ?_).imp fun _ h => h.1,
    (h.2.2.2.2.1 coresRun ⟨63, .vu, .fetch, 0x10000000000, 8, false⟩ ?_ ?_ ?_ ?_).imp fun _ h => h.1,
    (h.2.2.2.2.2.1 coresRun ⟨.inl 1, .store [1, 2], 0xFFFFFE, 2⟩ [1, 2] ?_ rfl ?_ ?_ ?_ (test_calm _ ?_ ?_)).imp fun _ h => h.1,
    (h.2.2.2.2.2.2.1 coresRun ⟨.inl 1, .fetch, 0x10000000000, 4⟩ ?_ (.inr rfl) ?_ (test_quiet _ ?_ ?_)).imp fun _ h => h.1,
    (h.2.2.2.2.2.2.2.1 coresRun ⟨.inl 1, .load, 0x13FFFFFFF, 1⟩ ?_ ?_).imp fun _ h => h.1,
    (h.2.2.2.2.2.2.2.2 irqDue .pkg 0 ?_ ?_ ?_ ?_).imp fun _ h => h.1⟩
  all_goals try (unfold calmParts)
  all_goals decide +kernel

/-- Port 3's link is up, as a root port or as an endpoint with Bus Master Enable, and its state is given. -/
def linked (ep : Nat) (x : PciePort) : State :=
  (with1 [(R.pcieLinkSts 3, F.pcieLinkSts_STATE, 2), (R.pcieLinkSts 3, F.pcieLinkSts_MODE_CUR, ep),
    (R.pcieLinkSts 3, F.pcieLinkSts_BME, ep)]).setPport 3 x

/-- The link is down, with limits. -/
def unlinked : State := ({ State.reset with plat := { State.reset.plat with perstHold := false } }.setFld (R.pcieCtl 3) F.pcieCtl_PERST_OUT 0).setPport 3 { PciePort.idle with limRate := 6, limWidth := 4 }

theorem test_hyps_PcieLinkEvents (h : Obligations.PcieLinkEvents) :
    (∃ t, exec (.pcieLinkUp 3 6 4 true) unlinked = .next t) ∧ (∃ t, exec (.pcieRecovery 3) (linked 0 PciePort.idle) = .next t)
      ∧ (∃ t, exec (.pcieLinkDown 3 .perst) (linked 1 PciePort.idle) = .next t)
      ∧ (∃ t, exec (.pcieLinkDown 3 .bmeClear) (linked 1 PciePort.idle) = .next t)
      ∧ (∃ t, exec (.pcieLinkDown 3 .flr) (linked 1 PciePort.idle) = .next t)
      ∧ ∃ t, exec (.sbr (.server 0) 3) (linked 0 PciePort.idle) = .next t := by
  refine ⟨(h.1 unlinked 3 6 4 true ?_ ?_ ?_ ?_ ?_ ?_ ?_ ?_).imp fun _ h => h.1, (h.2.1 (linked 0 PciePort.idle) 3 ?_).imp fun _ h => h.1,
    (h.2.2.1 (linked 1 PciePort.idle) 3 .perst ?_ ?_ ?_).imp fun _ h => h.1, (h.2.2.2.1 (linked 1 PciePort.idle) 3 ?_ ?_ ?_).imp fun _ h => h.1,
    (h.2.2.2.2.1 (linked 1 PciePort.idle) 3 ?_ ?_).imp fun _ h => h.1,
    (h.2.2.2.2.2 (linked 0 PciePort.idle) (.server 0) 3 ?_ ?_ ?_).imp fun _ h => h.1⟩ <;> decide +kernel

/-- Outbound requests of a core: a write, and a read since cadence 0. -/
def outbound (now : Word) : State :=
  (linked 0 { PciePort.idle with outW := [⟨0, [1], false, .core 5, none⟩], outR := [⟨0, 2, .core 5, 0, none⟩] }).setReg R.timeNow now

/-- Queue 127 of unit 1023 in STATE 5. -/
def hostLost : State := State.reset.setQState 1023 127 5

theorem test_hyps_OutboundEnds (h : Obligations.OutboundEnds) :
    (∃ t, exec (.pcieWriteAck 3) (outbound 0) = .next t) ∧ (∃ t, exec (.pcieReadCompletion 3 [7, 8]) (outbound 0) = .next t)
      ∧ (∃ t, exec (.pcieCplTimeout 3) (outbound (2 ^ 62)) = .next t)
      ∧ ∃ t, exec (.hlRelease (.server 0) (BitVec.ofNat 17 (queueId (1023 : Fin 1024) (127 : Fin 128)))) hostLost = .next t := by
  refine ⟨(h.1 (outbound 0) 3 _ [] ?_ rfl).imp fun _ h => h.1, (h.2.1 (outbound 0) 3 _ [] [7, 8] ?_ rfl rfl).imp fun _ h => h.1,
    (h.2.2.1 (outbound (2 ^ 62)) 3 _ [] rfl ?_).imp fun _ h => h.1, (h.2.2.2 hostLost (.server 0) 1023 127 ?_ ?_).imp fun _ h => h.1⟩ <;>
    decide +kernel

/-- A request for the first page of HBM by requester 0 of port 3. -/
def inReq (op : PcieOp) : PcieReq := ⟨3, 0, 0, op⟩

/-- A read of its start, parked since cadence 0. -/
def inPark1 : InPark := ⟨inReq (.read 4), 1, 0, [], true, 0⟩

/-- Port 3's link is up and its device table binds requester 0 to context 1; requests wait at the port. -/
def bound (ks : List InPark) (now : Word) : State :=
  let s := (((ctx1 [(hbmBase + 0x80000, 0x11)]).setFld (R.pcieLinkSts 3) F.pcieLinkSts_STATE 2).setFld (R.pcieCtl 3) F.pcieCtl_DT_EN 1).setFld
    (R.pcieDtBase 3) F.pcieDtBase_ADDR ((hbmBase + 0x80000) / 2 ^ 19)
  ({ s with xl := { s.xl with tlb := ⟨131, 1, 0, 4096, hbmBase, true, true, true, false, 0⟩ :: s.xl.tlb } }.setPport 3
    { PciePort.idle with parked := ks }).setReg R.timeNow now

/-- The port's translation of the page. -/
def portPage : TlbEntry := ⟨131, 1, 0, 4096, hbmBase, true, true, true, false, 0⟩

/-- What of inboundBound is a finite question. -/
def inParts (s : State) (r : PcieReq) (va ctx : Nat) : Prop :=
  s.linkUp r.port = true ∧ (s.pport r.port).parked = [] ∧ s.bar0Hit r.port r.addr.toNat r.op.len = none
    ∧ s.inboundVa r.port r.addr.toNat r.op.len = some va ∧ s.fld (R.pcieCtl r.port) F.pcieCtl_DT_EN = 1
    ∧ s.dtEntry r.port r.bdf.toNat = some (false, ctx) ∧ s.ctxAlive ctx = true

theorem test_inbound (s : State) (r : PcieReq) (va ctx : Nat) (h : inParts s r va ctx) : inboundBound s r va ctx := by
  obtain ⟨up, free, bar, dev, on, entry, lives⟩ := h
  exact ⟨up, free, bar, dev, on, ⟨false, entry⟩, lives⟩

theorem test_portReaches (len : Nat) (a : AccessKind) (h1 : calmParts (bound [] 0)) (h2 : (bound [] 0).regs.all (fun e => e.1.name != .inj) = true)
    (h3 : reachParts (bound [] 0) 131 1 0 len a hbmBase portPage) : Reaches (bound [] 0) (portTlb (3 : Fin 4)) 1 0 len a hbmBase :=
  test_reaches _ _ _ _ _ _ _ portPage h1 h2 h3

set_option maxRecDepth 100000 in
theorem test_hyps_InboundRequests (h : Obligations.InboundRequests) :
    (∃ t, exec (.pcieInboundRequest (inReq (.read 4))) (linked 0 PciePort.idle) = .next t)
      ∧ (∃ t, exec (.pcieInboundRequest (inReq (.write [9]))) (bound [] 0) = .next t)
      ∧ (∃ t, exec (.pcieInboundRequest (inReq (.read 4096))) (bound [] 0) = .next t)
      ∧ (∃ t, exec (.pcieInboundRequest (inReq (.read 1))) (bound [inPark1] 0) = .next t)
      ∧ exec (.pcieParkTimeout 3 0) (bound [inPark1] (2 ^ 62)) = .next (((bound [inPark1] (2 ^ 62)).endParked 3 inPark1).raise .pcie 3 4)
      ∧ ∃ t, exec (.pcieParkTimeout 3 0) (bound [inPark1] (2 ^ 62)) = .next t ∧ (t.pport 3).parked = [] := by
  refine ⟨(h.1 (linked 0 PciePort.idle) (inReq (.read 4)) ?_ ?_ ?_ ?_).imp fun _ h => h.1,
    (h.2.1 (bound [] 0) (inReq (.write [9])) [9] 0 1 hbmBase (test_inbound _ _ _ _ ?_) rfl ?_ (test_portReaches _ _ ?_ ?_ ?_)).imp fun _ h => h.1,
    (h.2.2.1 (bound [] 0) (inReq (.read 4096)) 4096 0 1 hbmBase (test_inbound _ _ _ _ ?_) rfl ?_ (test_portReaches _ _ ?_ ?_ ?_)).imp
      fun _ h => h.1,
    (h.2.2.2.1 (bound [inPark1] 0) (inReq (.read 1)) inPark1 [] ?_ ?_ rfl).imp fun _ h => h.1,
    h.2.2.2.2.1 (bound [inPark1] (2 ^ 62)) 3 inPark1 0 ?_ rfl ?_,
    (h.2.2.2.2.2 (bound [inPark1] (2 ^ 62)) 3 inPark1 ?_ rfl ?_ ?_).imp fun _ h => ⟨h.1, h.2.1⟩⟩
  all_goals try (unfold inParts)
  all_goals try (unfold calmParts)
  all_goals try (unfold reachParts)
  all_goals decide +kernel

theorem test_hyps_ConfigurationSpace (h : Obligations.ConfigurationSpace) :
    (∃ t, exec (.pcieConfigRequest 3 ⟨0xFFF, none⟩) (linked 1 PciePort.idle) = .next t)
      ∧ (∃ t, exec (.pcieConfigRequest 3 ⟨0x14, some 1⟩) (linked 1 PciePort.idle) = .next t)
      ∧ (∃ t, exec (.pcieConfigRequest 3 ⟨0, none⟩) (linked 1 PciePort.idle) = .next t)
      ∧ (∃ t, exec (.pcieConfigRequest 3 ⟨4, some 6⟩) (linked 1 PciePort.idle) = .next t)
      ∧ (∃ t, exec (.ecamAccess ⟨.server 0, 3, 0, 4, none, []⟩) State.reset = .next t)
      ∧ (∃ t, exec (.ecamAccess ⟨.server 0, 3, 0x3C, 4, some 9, []⟩) State.reset = .next t)
      ∧ (∃ t, exec (.ecamAccess ⟨.server 0, 3, 4096, 8, none, [1, 2]⟩) (linked 0 PciePort.idle) = .next t)
      ∧ (∃ t, exec (.ecamAccess ⟨.server 0, 3, 4096, 4, none, []⟩) State.reset = .next t)
      ∧ ∃ t, exec (.mboxWrite 3 31 7) (linked 1 PciePort.idle) = .next t := by
  refine ⟨(h.1 (linked 1 PciePort.idle) 3 0xFFF ?_ ?_).imp fun _ h => h.1, (h.2.1 (linked 1 PciePort.idle) 3 0x14 1 ?_ ?_ ?_).imp fun _ h => h.1,
    (h.2.2.1 (linked 1 PciePort.idle) 3 ?_ ?_).imp fun _ h => h.1, (h.2.2.2.1 (linked 1 PciePort.idle) 3 ?_ ?_ ?_).imp fun _ h => h.1,
    (h.2.2.2.2.1 State.reset (.server 0) 3 ?_ ?_).imp fun _ h => h.1,
    (h.2.2.2.2.2.1 State.reset (.server 0) 3 0x3C 9 ?_ ?_ ?_ ?_).imp fun _ h => h.1,
    (h.2.2.2.2.2.2.1 (linked 0 PciePort.idle) (.server 0) 3 4096 1 2 ?_ ?_ ?_ ?_).imp fun _ h => h.1,
    (h.2.2.2.2.2.2.2.1 State.reset (.server 0) 3 4096 ?_ ?_ ?_).imp fun _ h => h.1,
    (h.2.2.2.2.2.2.2.2 (linked 1 PciePort.idle) 3 31 7 ?_ ?_ ?_).imp fun _ h => h.1⟩ <;> decide +kernel

/-! ## Statements of the optical ports -/

theorem test_hyps_FrameWordsRoundTrip (h : Obligations.FrameWordsRoundTrip) :
    frameOfWords 2 (Frame.credit ⟨4095, 1023, 31, 4095, 63, 65536, 255, 127⟩).words = some (.credit ⟨4095, 1023, 31, 4095, 63, 65536, 255, 127⟩) :=
  h (.credit ⟨4095, 1023, 31, 4095, 63, 65536, 255, 127⟩) (by simp [frameInRange])

/-- Port 7 in a state, with its own. -/
def opt (st : Nat) (x : OptPort) : State := (with1 [(R.optSts 7, F.optSts_STATE, st)]).setPort 7 x

/-- Thirty-two heater codes. -/
def codes : List (BitVec 16) := List.replicate 32 1

theorem test_hyps_PortTraining (h : Obligations.PortTraining) :
    (∃ t, exec (.trainingDone 7 0xFFFF 0xFFFF codes 0x2222222222222222) (opt 1 OptPort.fresh) = .next t)
      ∧ (∃ t, exec (.trainingDone 7 0xFFFF 0 codes 0) (opt 1 OptPort.fresh) = .next t)
      ∧ (∃ t, exec (.optEn (.keeper 0) 7 true) (opt 0 OptPort.fresh) = .next t)
      ∧ ∃ t, exec (.optEn (.keeper 0) 7 false) (opt 5 OptPort.fresh) = .next t := by
  refine ⟨(h.1 (opt 1 OptPort.fresh) 7 0xFFFF 0xFFFF codes 0x2222222222222222 0xFFFF 0xFFFF ?_ ?_ rfl ?_ ?_ ?_).imp fun _ h => h.1,
    (h.2.1 (opt 1 OptPort.fresh) 7 0xFFFF codes 0 ?_ ?_ rfl ?_).imp fun _ h => h.1,
    (h.2.2.1 (opt 0 OptPort.fresh) (.keeper 0) 7 ?_ ?_ ?_).imp fun _ h => h.1,
    (h.2.2.2 (opt 5 OptPort.fresh) (.keeper 0) 7 ?_ ?_ ?_ ?_).imp fun _ h => h.1⟩ <;> decide +kernel

/-- Port 7 in RECOVERY since cadence 0 with a CREDIT unacknowledged. -/
def recovering (now : Word) : State := (opt 4 { OptPort.fresh with unacked := [(0, .credit ⟨1, 2, 3, 0, 0, 1, 0, 0⟩)] }).setReg R.timeNow now

theorem test_hyps_PortRecovery (h : Obligations.PortRecovery) :
    (∃ t, exec (.heaterAdjust 7 codes) (opt 1 OptPort.fresh) = .next t)
      ∧ (∃ t, exec (.heaterAdjust 7 (0xFFFF :: List.replicate 31 1)) ((opt 2 OptPort.fresh).setFld (R.optSafe 7) F.optSafe_HEATER_MAX 0xFFFE) = .next t)
      ∧ (∃ t, exec (.lockLoss 7 31) (opt 3 OptPort.fresh) = .next t) ∧ (∃ t, exec (.retrain (.server 0) 7) (opt 3 OptPort.fresh) = .next t)
      ∧ (∃ t, exec (.linkRecovered 7 none) (recovering 0xF42400000) = .next t)
      ∧ ∃ t, exec (.recoveryTimeout 7) (recovering 0xF42410000) = .next t := by
  refine ⟨(h.1 (opt 1 OptPort.fresh) 7 codes ?_ ?_ rfl (fun c _ => Nat.le_trans (Nat.le_of_lt_succ c.isLt) (Nat.le_of_eq ?_))).imp fun _ h => h.1,
    (h.2.1 ((opt 2 OptPort.fresh).setFld (R.optSafe 7) F.optSafe_HEATER_MAX 0xFFFE) 7 (0xFFFF :: List.replicate 31 1) 0xFFFF ?_ ?_ rfl ?_ ?_).imp
      fun _ h => h.1,
    (h.2.2.1 (opt 3 OptPort.fresh) 7 31 ?_ ?_).imp fun _ h => h.1, (h.2.2.2.1 (opt 3 OptPort.fresh) (.server 0) 7 ?_ ?_).imp fun _ h => h.1,
    (h.2.2.2.2.1 (recovering 0xF42400000) 7 none _ ?_ ?_ ?_ rfl).imp fun _ h => h.1,
    (h.2.2.2.2.2 (recovering 0xF42410000) 7 ?_ ?_ ?_).imp fun _ h => h.1⟩ <;> decide +kernel

/-- A CREDIT ready at port 7, a NAK due and a candidate heard of, at cadence `now`. -/
def sending (now : Word) : State :=
  (opt 3 { OptPort.fresh with ready := [.credit ⟨1, 2, 3, 0, 0, 1, 0, 0⟩], nakDue := true, heard := 0,
                              peer := some ⟨0, 9, 0, 4096, 0, 5, 1, true, false, false, 0⟩ }).setReg R.timeNow now

theorem test_hyps_FramesLeave (h : Obligations.FramesLeave) :
    (∃ t, exec (.frameSend 7 1 none) (sending 0) = .next t) ∧ (∃ t, exec (.ackTimer 7) (sending 0) = .next t)
      ∧ (∃ t, exec (.helloTimer 7) (sending 0) = .next t) ∧ (∃ t, exec .cadReqTimer (sending 0) = .next t)
      ∧ ∃ t, exec (.candidateExpiry 7) (sending (2 ^ 62)) = .next t := by
  refine ⟨(h.1 (sending 0) 7 1 none _ ?_ ?_ ?_ rfl).imp fun _ h => h.1,
    (h.2.1 (sending 0) 7 ?_ ?_ ?_).elim fun t h => h.elim fun _ h => ⟨t, h.1⟩,
    (h.2.2.1 (sending 0) 7 ?_ ?_).imp fun _ h => h.1, (h.2.2.2.1 (sending 0) 7 ?_ ?_ ?_).imp fun _ h => h.1,
    (h.2.2.2.2 (sending (2 ^ 62)) 7 ?_ ?_).imp fun _ h => h.1⟩ <;> decide +kernel

/-- A frame with FSEQ 0, undamaged. -/
def whole (w : Word) (ws : List Word) : FrameIn := ⟨w :: ws, []⟩

/-- Port 7 in a state; package 1 by port 7; line 31 of unit 1023 is valid; an exchange is open. -/
def receiving (st : Nat) : State :=
  ((opt st { OptPort.fresh with xchg := 5, t1 := some 0 }).setReg (R.optRt 0 0) 0xF0).setFld (R.unitCrl 1023 31) F.unitCrl_VALID 1

/-- A MSG for package 1. -/
def msg1 : MsgFrame := ⟨1, 0, 2, 0, 0, 62, 1, 0, 0, 0, 0⟩

/-- A CREDIT for a package's line. -/
def credit1 (pkg : Nat) : CreditFrame := ⟨pkg, 1023, 31, 2, 62, 65536, 0, 0⟩

/-- A HELLO of a package with this one's ID. -/
def twin : Hello := ⟨0, 0, 7, 4096, 0, 0, 0, false, false, false, 0⟩

theorem test_hyps_FramesArrive (h : Obligations.FramesArrive) :
    (∃ t, exec (.hello 7 ⟨[3], []⟩) (receiving 3) = .next t) ∧ (∃ t, exec (.idle 7 (whole (BitVec.ofNat 64 (2 * 2 ^ 36 + 5 * 2 ^ 38)) [])) (receiving 3) = .next t)
      ∧ (∃ t, exec (.msg 7 (whole 1 (Frame.msg msg1).words)) (receiving 3) = .next t)
      ∧ (∃ t, exec (.credit 7 (whole 2 (Frame.credit (credit1 1)).words)) (receiving 3) = .next t)
      ∧ (∃ t, exec (.credit 7 (whole 2 (Frame.credit (credit1 0)).words)) (receiving 3) = .next t)
      ∧ (∃ t, exec (.hello 7 (whole 3 (Frame.hello twin).words)) (receiving 2) = .next t)
      ∧ (∃ t, exec (.cadReq 7 (whole 3 (Frame.cadReq 65535).words)) (receiving 3) = .next t)
      ∧ ∃ t, exec (.cadRsp 7 (whole 3 (Frame.cadRsp 5 0 0 0).words)) (receiving 3) = .next t := by
  refine ⟨(h.1 (receiving 3) 7 3 ⟨[3], []⟩ ?_ ?_ ?_).imp fun _ h => h.1,
    (h.2.1 (receiving 3) 7 (whole (BitVec.ofNat 64 (2 * 2 ^ 36 + 5 * 2 ^ 38)) []) (BitVec.ofNat 64 (2 * 2 ^ 36 + 5 * 2 ^ 38)) 2 ?_ ?_ ?_ ?_ ?_ ?_
      ?_ ?_ ?_).imp fun _ h => h.1,
    (h.2.2.1 (receiving 3) 7 (whole 1 (Frame.msg msg1).words) 1 msg1 7 ?_ ?_ ?_ ?_ ?_).imp fun _ h => h.1,
    (h.2.2.2.1 (receiving 3) 7 (whole 2 (Frame.credit (credit1 1)).words) 2 (credit1 1) 7 ?_ ?_ ?_ ?_ ?_).imp fun _ h => h.1,
    (h.2.2.2.2.1 (receiving 3) 7 (whole 2 (Frame.credit (credit1 0)).words) 2 (credit1 0) ?_ ?_ ?_ ?_ ?_ ?_).imp fun _ h => h.1,
    (h.2.2.2.2.2.1 (receiving 2) 7 (whole 3 (Frame.hello twin).words) 3 twin ?_).imp fun _ h => h.1,
    (h.2.2.2.2.2.2.1 (receiving 3) 7 (whole 3 (Frame.cadReq 65535).words) 3 65535 ?_).imp fun _ h => h.1,
    (h.2.2.2.2.2.2.2 (receiving 3) 7 (whole 3 (Frame.cadRsp 5 0 0 0).words) 3 0 0 0 0 ?_ ?_).imp fun _ h => h.1⟩
  all_goals try (unfold inOrder)
  all_goals decide +kernel
/-! ## Statements of the ring slots and snapshots -/

/-- SLOT0_CFG of die 0: context 1, hop unit 0, queues 1 and 2, line 31, its own seal slot. -/
def ringCfg : Word := BitVec.ofNat 64 (1 + 2 ^ 22 + 2 * 2 ^ 29 + 31 * 2 ^ 36 + 2 ^ 46)

/-- Slot 0 of die 0, armed or not, at a position of a ring of two, in a state: its three queues of unit 0 hold the entry at
virtual address 0, its step table is at 1,024 and its snapshot table at 2,048; buffer 1 is the page. -/
def ringAt (arm pos st : Nat) (x : SlotSt) (mem : List Host.Cell) : State :=
  let s := lined (ctx1 ([(68, 1), (96, 2), (22, 7), (25, 0x10)] ++ mem)) 5
  let s := [1, 2, 3].foldl (fun s q => (enQ s 0 q 1).setFld (R.unitQPtr 0 q) F.unitQPtr_TAIL 1) s
  let s := s.setReg (R.dieSlotCfg 0 0) (F.dieSlotCfg_ARM.put ringCfg arm)
  let s := s.setReg (R.dieSlotRing 0 0) (BitVec.ofNat 64 (2 + pos * 2 ^ 13 + 9 * 2 ^ 25))
  let s := (s.setReg (R.dieSlotKey 0 0) 7).setReg (R.dieSlotSts 0 0) (BitVec.ofNat 64 st)
  let s := (s.setFld (R.dieSlotTbl 0 0) F.dieSlotTbl_VA 16).setFld (R.dieSnapTbl 0 0) F.dieSnapTbl_VA 32
  let s := s.setReg (R.dieSnapCfg 0 0) (BitVec.ofNat 64 (1 + 2 + 3 * 2 ^ 25 + 31 * 2 ^ 32))
  (s.setFld (R.dieSnapPeers 0 0) F.dieSnapPeers_OWN1_PKG 9).setSlotSt 0 x

/-- The bytes of an anchor entry: its action and the KEY of param1. -/
def anchorMem (action key : Nat) : List Host.Cell := [(hbmBase, 3), (hbmBase + 32, BitVec.ofNat 8 action), (hbmBase + 48, BitVec.ofNat 8 key)]

/-- That entry. -/
def anchorEntry (action key : Nat) : BitVec 512 := BitVec.ofNat 512 (3 + (action + key * 2 ^ 128) * (2 ^ 128 * 2 ^ 128))

/-- A slot once the entry at the head of its control queue is read. -/
def anchorRead (s : State) : State :=
  let t := (s.slotEntry 0 (s.ctrlLq 0) 0).2
  t.setSlotSt 0 { t.slot 0 with fetched := [] }

theorem test_anchor (s : State) (e : BitVec 512) (a : AnchorIn) (h1 : s.slotActs 0 = true)
    (h2 : s.qCount (s.hopUnit 0) (s.ctrlLq 0) ≠ 0) (h3 : (s.slot 0).verdict = 0) (h4 : (s.slotEntry 0 (s.ctrlLq 0) 0).1 = .ok e)
    (h5 : anchorIn e = some a) : anchorAt s (anchorRead s) 0 a :=
  ⟨h1, h2, h3, e, _, test_pair _ _ h4, h5, rfl⟩

/-- Slot 0 with an anchor to act on. -/
def anchoredSlot (pos st action key : Nat) (x : SlotSt) : State := ringAt 1 pos st x (anchorMem action key)

theorem test_anchored (pos st action key : Nat) (x : SlotSt) (hx : (anchoredSlot pos st action key x).slotActs 0 = true)
    (h2 : (anchoredSlot pos st action key x).qCount ((anchoredSlot pos st action key x).hopUnit 0) ((anchoredSlot pos st action key x).ctrlLq 0) ≠ 0)
    (h3 : ((anchoredSlot pos st action key x).slot 0).verdict = 0)
    (h4 : ((anchoredSlot pos st action key x).slotEntry 0 ((anchoredSlot pos st action key x).ctrlLq 0) 0).1 = .ok (anchorEntry action key))
    (h5 : anchorIn (anchorEntry action key) = some ⟨action, 0, BitVec.ofNat 64 key⟩) :
    anchorAt (anchoredSlot pos st action key x) (anchorRead (anchoredSlot pos st action key x)) 0 ⟨action, 0, BitVec.ofNat 64 key⟩ :=
  test_anchor _ _ _ hx h2 h3 h4 h5

/-- A TQ16 transfer of 24 elements. -/
def stepE : BitVec 512 := BitVec.ofNat 512 (24 * 2 ^ 64 + 2 ^ 128 + 2 ^ 192)

/-- Its bytes in the step table, after the table's COUNT of 1. -/
def stepMem : List Host.Cell := [(hbmBase + 1024, 1), (hbmBase + 1096, 24), (hbmBase + 1104, 1), (hbmBase + 1112, 1)]

/-- A step's first anchor, with its step table. -/
def starting : State := ringAt 1 0 1 SlotSt.idle (anchorMem 1 5 ++ stepMem)

/-- The step begun. -/
def started : State := ((anchorRead starting).startStep 0 5).slotFree 0 (starting.ctrlLq 0)

/-- That transfer in round `r`. -/
def xferIn (r : Nat) (ready : Bool) : Xfer := ⟨stepE, 0, 0, 0, 0, ready, r, 0, 0⟩

/-- A slot that waits for its ready word. -/
def polling : State := ringAt 1 0 2 { SlotSt.idle with xfer := some (xferIn 0 false) } [(hbmBase, 7)]

set_option maxRecDepth 100000 in
theorem test_hyps_SlotsArmedAndStarted (h : Obligations.SlotsArmedAndStarted) :
    (∃ t, exec (.slotArm (.server 0) 0 0 ringCfg) (ringAt 0 0 0 SlotSt.idle []) = .next t ∧ t.slotState 0 = 1)
      ∧ (∃ t, exec (.slotArm (.server 0) 3 7 0) State.reset = .next t)
      ∧ (∃ t, exec (.slotDisarm (.server 0) 0 0) (ringAt 1 0 1 SlotSt.idle []) = .next t)
      ∧ (∃ t, exec (.stepStart 0 0) starting = .next t) ∧ (∃ t, exec (.readyPoll 0 0) polling = .next t)
      ∧ (∃ t, exec (.windowOpen 0 0) (anchoredSlot 0 2 2 7 SlotSt.idle) = .next t)
      ∧ ∃ t, exec (.windowClose 0 0) (anchoredSlot 1 2 3 7 SlotSt.idle) = .next t := by
  refine ⟨(h.1 (ringAt 0 0 0 SlotSt.idle []) _ (.server 0) 0 0 ringCfg ?_ ?_ rfl).imp fun t h =>
      ⟨h.1, (h.2.1 ?_).2.1⟩,
    (h.1 State.reset _ (.server 0) 3 7 0 ?_ ?_ rfl).imp fun t h => h.1,
    (h.2.1 (ringAt 1 0 1 SlotSt.idle []) (.server 0) 0 0 ?_ ?_).imp fun _ h => h.1,
    (h.2.2.1 starting (anchorRead starting) started (started.stepCount 0).2 ((started.stepCount 0).2.stepEntry 0 0).2 0 0 0 ⟨1, 0, 5⟩ 1 stepE
      rfl (test_anchor _ (anchorEntry 1 5) _ ?_ ?_ ?_ ?_ ?_)
      ?_ ?_ rfl (test_pair _ _ ?_) ?_ (test_pair _ _ ?_)
      ?_ ?_ ?_ ?_).elim fun t h => h.elim fun _ h => ⟨t, h.1⟩,
    (h.2.2.2.1 polling _ 0 0 0 (xferIn 0 false) [7, 0, 0, 0, 0, 0, 0, 0] rfl ?_ ?_ ?_
      (test_pair _ _ ?_)).imp fun _ h => h.1,
    (h.2.2.2.2.1 _ _ 0 0 0 _ rfl (test_anchored 0 2 2 7 SlotSt.idle ?_ ?_ ?_ ?_
      ?_) ?_ ?_ ?_).imp fun _ h => h.1,
    (h.2.2.2.2.2 _ _ 0 0 0 _ rfl (test_anchored 1 2 3 7 SlotSt.idle ?_ ?_ ?_ ?_
      ?_) ?_ ?_ ?_ ?_ ?_).imp fun _ h => h.1⟩ <;> decide +kernel

/-- The header of the chunk that the slot waits for, from package 9, and its bytes. -/
def chunkE : BitVec 512 := BitVec.ofNat 512 (2 + 9 * 2 ^ 64 + 1536 * 2 ^ 128 + (7 + 2 ^ 48) * 2 ^ 192)
def chunkMem : List Host.Cell := [(hbmBase, 2), (hbmBase + 8, 9), (hbmBase + 17, 6), (hbmBase + 24, 7), (hbmBase + 30, 1)]

/-- A slot that waits for the chunk of round 1. -/
def receivingChunk : State := ringAt 1 0 2 { SlotSt.idle with xfer := some (xferIn 1 true) } chunkMem

/-- Two entries to send. -/
def outEs : List SlotOut := [⟨31, true, true, true, 5⟩, ⟨31, true, true, false, 6⟩]

/-- A slot with entries to send, its window open. -/
def sendingChunk : State := ringAt 1 0 2 { SlotSt.idle with out := outEs, rsOpen := true } []

/-- The leader in a state. -/
def leading (st : Nat) (x : SlotSt) : State := ringAt 1 0 st x []

set_option maxRecDepth 100000 in
theorem test_hyps_ChunksAndVerdicts (h : Obligations.ChunksAndVerdicts) :
    (∃ t, exec (.chunkReceive 0 0) (leading 2 SlotSt.idle) = .next t) ∧ (∃ t, exec (.chunkReceive 0 0) receivingChunk = .next t)
      ∧ (∃ t, exec (.chunkSend 0 0) sendingChunk = .next t) ∧ exec (.chunkSend 0 0) (leading 66 SlotSt.idle) = .next (leading 66 SlotSt.idle)
      ∧ (∃ t, exec (.sealReq 0 0) (leading 3 SlotSt.idle) = .next t)
      ∧ (∃ t, exec (.verdictSeal 0 0) (leading 3 { SlotSt.idle with sealBack := true }) = .next t)
      ∧ ∃ t, exec (.verdictRepeat 0 0) (leading 2 { SlotSt.idle with verdict := 2 }) = .next t := by
  refine ⟨(h.1 (leading 2 SlotSt.idle) _ 0 0 0 0 rfl ?_ ?_ ?_
      (test_pair _ _ ?_) ?_).imp fun _ h => h.1,
    (h.2.1 receivingChunk _ 0 0 0 chunkE (xferIn 1 true) rfl ?_ ?_ ?_
      (test_pair _ _ ?_) ?_ ?_ ?_ rfl ?_ ?_
      ?_ ?_ ?_ ?_).imp fun _ h => h.1,
    (h.2.2.1 sendingChunk 0 0 0 ⟨31, true, true, true, 5⟩ [⟨31, true, true, false, 6⟩] rfl ?_ ?_
      ?_ (by decide) rfl (fun _ => ?_) ?_).imp fun _ h => h.1,
    h.2.2.2.1 (leading 66 SlotSt.idle) 0 0 ?_ ?_,
    (h.2.2.2.2.1 (leading 3 SlotSt.idle) 0 0 0 rfl ?_ ?_ ?_ ?_
      ?_).elim fun t h => h.elim fun _ h => ⟨t, h.1⟩,
    (h.2.2.2.2.2.1 (leading 3 { SlotSt.idle with sealBack := true }) _ 0 0 0 rfl ?_ ?_ ?_
      ?_ ?_ (test_pair _ _ ?_)).imp fun _ h => h.1,
    (h.2.2.2.2.2.2 (leading 2 { SlotSt.idle with verdict := 2 }) _ 0 0 0 rfl ?_ ?_ ?_
      ?_ ?_ (test_pair _ _ ?_)).imp fun _ h => h.1⟩ <;> decide +kernel

/-- The snapshot table: images of 64 bytes at offset 512 of buffer 1. -/
def tableMem : List Host.Cell := [(hbmBase + 2050, 1), (hbmBase + 2057, 2), (hbmBase + 2088, 64)]

/-- What that table says. -/
def table0 : SnapTbl := ⟨1, 512, [0, 0, 0], 64, 0, 0, [], true⟩

/-- A slot asked to open snapshot 0. -/
def opening (x : SlotSt) : State := ringAt 1 0 2 x (anchorMem 4 0 ++ tableMem)

/-- The state once the table is read, the capture fields found, and the markers zeroed. -/
def tableRead : State := (((opening SlotSt.idle).slotEntry 0 2 0).2.snapTbl 0).2
def markersWritten := (tableRead.captureFields 0).2.slotWrites 0
  ((List.range 3).map (fun i => ((tableRead.captureFields 0).2.imageVa 0 table0 (0 % 2 ^ 32 % 2) i + 64 - 64, List.replicate 64 (0 : Byte))))

/-- An open snapshot, captured, with one entry of its own state and one of image 1's. -/
def snapOne : SnapSt := ⟨0, 512, 128, [40, 40, 0], 0, [(0, 40)], false, true, 0, [0, 0, 0]⟩
def snapping (x : SnapSt) (mem : List Host.Cell) : State := ringAt 1 0 2 { SlotSt.idle with snap := some x } mem

/-- The entry of state of image 1 from package 9. -/
def trickleE : BitVec 512 := BitVec.ofNat 512 (2 + 9 * 2 ^ 64)
def trickleRead := (snapping snapOne [(hbmBase, 2), (hbmBase + 8, 9)]).slotEntry 0 3 0

set_option maxRecDepth 100000 in
theorem test_hyps_Snapshots (h : Obligations.Snapshots) :
    (∃ t, exec (.snapshotOpen 0 0) (opening SlotSt.idle) = .next t)
      ∧ (∃ t, exec (.snapshotOpen 0 0) (opening { SlotSt.idle with snap := some snapOne }) = .next t)
      ∧ (∃ t, exec (.snapshotClose 0 0) (anchoredSlot 0 2 5 0 { SlotSt.idle with snap := some snapOne }) = .next t)
      ∧ (∃ t, exec (.trickleSend 0 0) (snapping snapOne []) = .next t)
      ∧ (∃ t, exec (.snapEntryReceive 0 0) (leading 2 SlotSt.idle) = .next t)
      ∧ (∃ t, exec (.snapEntryReceive 0 0) (snapping snapOne [(hbmBase, 2), (hbmBase + 8, 9)]) = .next t)
      ∧ ∃ t, exec (.imageComplete 0 0 2) ((snapping snapOne []).setFld (R.dieSnapCfg 0 0) F.dieSnapCfg_D2 1) = .next t := by
  refine ⟨(h.1 (opening SlotSt.idle) _ tableRead (tableRead.captureFields 0).2 markersWritten.2 0 0 0 ⟨4, 0, 0⟩ table0 ([], 0) rfl
      (test_anchor _ (anchorEntry 4 0) _ ?_ ?_ ?_ ?_ ?_)
      ?_ ?_ ?_
      ⟨anchorEntry 4 0, _, test_pair _ _ ?_, test_pair _ _ ?_⟩ (test_pair _ _ ?_)
      ?_ (test_pair markersWritten _ ?_)).elim fun t h => h.elim fun _ h => ⟨t, h.1⟩,
    (h.2.1 (opening { SlotSt.idle with snap := some snapOne }) _ 0 0 0 ⟨4, 0, 0⟩ rfl
      (test_anchor _ (anchorEntry 4 0) _ ?_ ?_ ?_ ?_ ?_)
      ?_ ?_ ?_).imp fun _ h => h.1,
    (h.2.2.1 _ _ 0 0 0 _ snapOne rfl (test_anchored 0 2 5 0 { SlotSt.idle with snap := some snapOne } ?_ ?_
      ?_ ?_ ?_) ?_ ?_ ?_).imp fun _ h => h.1,
    (h.2.2.2.1 (snapping snapOne []) _ _ 0 0 0 0 snapOne (List.replicate 40 0) rfl ?_ ?_ ?_
      ?_ rfl rfl ?_ ?_ (test_pair _ _ ?_)
      (test_pair _ _ ?_)).imp fun _ h => h.1,
    (h.2.2.2.2.1 (leading 2 SlotSt.idle) _ 0 0 0 0 rfl ?_ ?_ ?_ ?_
      (test_pair _ _ ?_) ?_).imp fun _ h => h.1,
    (h.2.2.2.2.2.1 (snapping snapOne [(hbmBase, 2), (hbmBase + 8, 9)]) trickleRead.2 _ 0 0 0 trickleE snapOne rfl ?_
      ?_ ?_ ?_ (test_pair trickleRead _ ?_) ?_
      ?_ ?_ ?_ ?_ ?_ ?_
      (test_pair _ _ ?_)).imp fun _ h => h.1,
    (h.2.2.2.2.2.2 ((snapping snapOne []).setFld (R.dieSnapCfg 0 0) F.dieSnapCfg_D2 1) _ 0 0 0 2 snapOne rfl ?_ ?_
      rfl ?_ ?_ ?_ ?_ (test_pair _ _ ?_)).imp fun _ h => h.1⟩ <;> decide +kernel

/-- An idle slot, disarmed, with a VALID marker of snapshot 0 in image (0, 0). -/
def idleSlot (lic : Nat) (x : SlotSt) : State :=
  (ringAt 0 0 0 x ((hbmBase + 523, 0x10) :: tableMem)).setFld R.secLicSts F.secLicSts_STORE_EFF lic

/-- An operation begun and ready. -/
def opReady (code : Nat) : SlotSt := { SlotSt.idle with op := some ⟨BitVec.ofNat 64 code, 0, 0, none, true, false⟩ }

/-- A slot whose fill's receiver is about to begin. -/
def filling : State := ((idleSlot 0 SlotSt.idle).setOp 0 (startedOp (idleSlot 0 SlotSt.idle) 3)).setReg (R.dieSnapOpsts 0 0) 97

/-- A slot whose operation with code `c` is about to begin. -/
def beginning (c : Nat) : State :=
  ((idleSlot 0 SlotSt.idle).setOp 0 (startedOp (idleSlot 0 SlotSt.idle) (F.dieSnapOp_OP.put 0 c))).setReg (R.dieSnapOpsts 0 0)
    (BitVec.ofNat 64 (1 + c * 32))

set_option maxRecDepth 100000 in
theorem test_hyps_SnapshotOperations (h : Obligations.SnapshotOperations) :
    (∃ t, exec (.digest (.server 0) 3 7 0) State.reset = .next t)
      ∧ (∃ t, exec (.restore (.server 0) 0 0 0) (idleSlot 0 SlotSt.idle) = .next t)
      ∧ (∃ t, exec (.fillRecv (.server 0) 0 0 0) (idleSlot 0 SlotSt.idle) = .next t)
      ∧ (∃ t, exec (.store (.server 0) 0 0 0) (idleSlot 1 SlotSt.idle) = .next t)
      ∧ (∃ t, exec (.store (.server 0) 0 0 0) (idleSlot 0 SlotSt.idle) = .next t)
      ∧ (∃ t, exec (.abort (.server 0) 0 0 0) (idleSlot 0 (opReady 1)) = .next t)
      ∧ (∃ t, exec (.snapOpDone 0 0) (idleSlot 0 (opReady 1)) = .next t)
      ∧ ∃ t, exec (.snapOpTimeout 0 0) ((idleSlot 0 (opReady 3)).setReg R.timeNow (2 ^ 62)) = .next t := by
  refine ⟨(h.1 State.reset (.server 0) 3 7 1 0 ?_ (by decide) ?_).imp fun _ h => h.1,
    (h.2.1 (idleSlot 0 SlotSt.idle) (beginning 4) ((beginning 4).opMarker 0 (startedOp (idleSlot 0 SlotSt.idle) 4)).2 (.server 0) 0 0 0 4 4 0
      ([0, 0, 0, 0, 0, 0, 0, 0, 0, 0, 0, 0x10] ++ List.replicate 52 0, 512) ?_ rfl (by decide) ?_
      ?_ ?_ (test_pair _ _ ?_) ?_ (fun _ => ?_)).imp fun _ h => h.1,
    (h.2.2.1 (idleSlot 0 SlotSt.idle) filling (filling.opMarker 0 (startedOp (idleSlot 0 SlotSt.idle) 3)).2 _ (.server 0) 0 0 0 3 0
      ([0, 0, 0, 0, 0, 0, 0, 0, 0, 0, 0, 0x10] ++ List.replicate 52 0, 512) ?_ rfl ?_ ?_
      ?_ (test_pair _ _ ?_) (test_pair _ _ ?_)).imp fun _ h => h.1,
    (h.2.2.2.1 (idleSlot 1 SlotSt.idle) (.server 0) 0 0 0 0 ?_ rfl ?_).imp fun _ h => h.1,
    (h.2.2.2.1 (idleSlot 0 SlotSt.idle) (.server 0) 0 0 0 0 ?_ rfl ?_).imp fun _ h => h.1,
    (h.2.2.2.2.1 (idleSlot 0 (opReady 1)) (.server 0) 0 0 0 _ ?_ rfl).imp fun _ h => h.1,
    (h.2.2.2.2.2.1 (idleSlot 0 (opReady 1)) _ _ 0 0 0 _ [(512, 0)] [] rfl rfl ?_ rfl rfl (test_pair _ _ ?_)
      (test_pair _ _ ?_)).imp fun _ h => h.1,
    (h.2.2.2.2.2.2 ((idleSlot 0 (opReady 3)).setReg R.timeNow (2 ^ 62)) 0 0 _ rfl ?_ ?_).imp fun _ h => h.1⟩ <;> decide +kernel

/-! ## Statements of the store, errors and security -/

/-- The bank of the last store register programs it, with 199,999 writes of wear. -/
def programming : State :=
  { State.reset with rep := { State.reset.rep with jobs := [(15, ⟨4095, 3⟩)] } }.setFld (R.fixWear 4095) F.fixWear_COUNT 199999

theorem test_hyps_StoreCommands (h : Obligations.StoreCommands) :
    (∃ t, exec (.fixStoreWrite (.keeper 0) 0x264 1) State.reset = .next t)
      ∧ exec (.fixStoreWrite (.warden 0) 4095 0) State.reset = .next State.reset
      ∧ (∃ t, exec (.fixStoreWrite (.warden 0) 0x24C 1) State.reset = .next t) ∧ ∃ t, exec (.fixProgramDone 15) programming = .next t := by
  refine ⟨(h.1 State.reset (.keeper 0) 0x264 1 ?_ ?_ ?_ ?_ ?_ ?_ ?_ ?_).imp fun _ h => h.1,
    h.2.1 State.reset (.warden 0) 4095 0 ?_ ?_ ?_ ?_ ?_ ?_, (h.2.2.1 State.reset (.warden 0) 0x24C 1 ?_ ?_).imp fun _ h => h.1,
    (h.2.2.2 programming 15 ⟨4095, 3⟩ rfl rfl rfl ?_ ?_).imp fun _ h => h.1⟩ <;> decide +kernel

/-- A state of the die-to-die link 7. -/
def linkIn (x : D2dLink) : State := State.reset.setD2d 7 x

/-- The last word but one of stack 15 is to be scrubbed, and one bit of it is inverted. -/
def scrubbing : State :=
  { State.reset.setFld (R.hbmScrubCfg 15) F.hbmScrubCfg_EN 1 with
    rep := { State.reset.rep with scrub := [(15, stackWords - 2)] }, errs := [(ofStack 15 (8 * (stackWords - 2)) / 8, 2 ^ 71)] }

theorem test_hyps_ErrorCommands (h : Obligations.ErrorCommands) :
    (∃ t, exec (.scrubRead 15) scrubbing = .next t ∧ t.fld (R.hbmScrubSts 15) F.hbmScrubSts_CORRECTED = 1)
      ∧ (∃ t, exec (.d2dFlitReceive 7 true none 3) (linkIn ⟨8, 0, 0, false, false, 5⟩) = .next t)
      ∧ (∃ t, exec (.linkRetrain 7) (linkIn ⟨9, 0, 0, false, false, 5⟩) = .next t)
      ∧ (∃ t, exec (.d2dRetrainDone 7) (linkIn ⟨9, 0, 1, true, false, 5⟩) = .next t)
      ∧ (∃ t, exec (.linkDead 7) (linkIn ⟨9, 0, 2, true, false, 5⟩) = .next t)
      ∧ (∃ t, exec (.errRecClear (.server 0) .unit 1023) (State.reset.setFld (R.errRec .unit 1023 0) F.errQ0_VALID 1) = .next t)
      ∧ ∃ t, exec (.injWrite (.keeper 0) .hbm 15 1) State.reset = .next t := by
  refine ⟨(h.1 scrubbing 15 _ ?_ ?_ ?_ rfl ?_ ?_
      ?_).imp fun t h => ⟨h.1, (h.2.2.2 71 ?_ ?_ ?_).2.2.trans ?_⟩,
    (h.2.1 (linkIn ⟨8, 0, 0, false, false, 5⟩) 7 true none 3 ?_ ?_ ?_ ?_
      (fun i => test_noInj _ ?_ .die i)).imp fun _ h => h.1,
    (h.2.2.1 (linkIn ⟨9, 0, 0, false, false, 5⟩) 7 ?_ ?_ ?_ ?_).imp fun _ h => h.1,
    (h.2.2.2.1 (linkIn ⟨9, 0, 1, true, false, 5⟩) 7 ?_ ?_).imp fun _ h => h.1,
    (h.2.2.2.2.1 (linkIn ⟨9, 0, 2, true, false, 5⟩) 7 ?_ ?_ ?_).imp fun _ h => h.1,
    (h.2.2.2.2.2.1 (State.reset.setFld (R.errRec .unit 1023 0) F.errQ0_VALID 1) (.server 0) .unit 1023 ?_
      ?_).imp fun _ h => h.1,
    (h.2.2.2.2.2.2 State.reset (.keeper 0) .hbm 15 1 ?_ ?_ ?_).imp fun _ h => h.1⟩ <;> decide +kernel

/-- A verification of a security engine image is under way. -/
def verifying : State := { State.reset with sec := { State.reset.sec with verify := some ⟨3, 0, 0⟩ } }

/-- Key slot 63 is in use. -/
def keyHeld : State := State.reset.setFld (R.secRkeyCfg 63) F.secRkeyCfg_VALID 1

theorem test_hyps_SecurityCommands (h : Obligations.SecurityCommands) :
    (∃ t, exec (.imageVerify (.keeper 0) 7) State.reset = .next t) ∧ (∃ t, exec .verifyDone verifying = .next t)
      ∧ (∃ t, exec (.keySlotWrite (.server 0) 63 (.key 3 9)) State.reset = .next t)
      ∧ (∃ t, exec (.keySlotWrite (.server 0) 63 (.cfg 3)) State.reset = .next t)
      ∧ (∃ t, exec (.keySlotWrite (.server 0) 63 (.cfg 0)) keyHeld = .next t) ∧ ∃ t, exec (.wardenRun (.keeper 0) 31) State.reset = .next t := by
  refine ⟨(h.1 State.reset (.keeper 0) 7 ?_ ?_ ?_ ?_ ?_).imp fun _ h => h.1, (h.2.1 verifying ⟨3, 0, 0⟩ rfl ?_ ?_).imp fun _ h => h.1,
    (h.2.2.1 State.reset (.server 0) 63 3 9 ?_).imp fun _ h => h.1, (h.2.2.2.1 State.reset (.server 0) 63 3 ?_ ?_).imp fun _ h => h.1,
    (h.2.2.2.2.1 keyHeld (.server 0) 63 0 ?_ ?_).imp fun _ h => h.1, (h.2.2.2.2.2 State.reset (.keeper 0) 31 ?_ ?_).imp fun _ h => h.1⟩ <;>
    decide +kernel

/-- A package whose security engine image runs or not, its keepers running. -/
def attesting (se : Nat) : State := (coresOf State.reset).setFld R.secSts F.secSts_SE_RUN se

theorem test_hyps_AttestationAndTestPort (h : Obligations.AttestationAndTestPort) :
    (∃ t, exec .getVersion (attesting 1) = .next t) ∧ (∃ t, exec (.getMeasurements 7 false) (attesting 1) = .next t)
      ∧ (∃ t, exec .getDigests (attesting 0) = .next t) ∧ ∃ t, exec (.samplePreload [true] [false]) State.reset = .next t := by
  refine ⟨(h.1 (attesting 1) ?_).1.imp fun _ h => h.1, ((h.1 (attesting 1) ?_).2.2.2.2.2.2.1 7 ?_ ?_).imp fun _ h => h.1,
    (h.2.1 (attesting 0) ?_ ?_ ?_ ?_ ?_ ?_ .getDigests ?_).imp fun _ h => h.1, ((h.2.2 State.reset [true] [false]).2.2.1).imp fun _ h => h.1⟩
  all_goals try (unfold responds)
  all_goals decide +kernel


/-! ## Values that the spec works out -/

/-- Names of unit 2.5.3.6, flat number 702 (01, the table of every name). -/
theorem test_unit_names : queueId 702 37 = 0x15F25 ∧ (R.arrSts 702).page.base 702 = 0xEF9000 ∧ locUnit 702 1 = 0x57C1
    ∧ unitRegion 702 = 21 ∧ unitCluster 702 = 87 := by decide

/-- Conversions worked out (04). -/
theorem test_conversions :
    (fmt 3).convert .rne 0 (.fin false 19 16) = (0x3A, 0) ∧ (fmt 3).convert .rtz 0 (.fin false 19 16) = (0x39, 0)
      ∧ (fmt 3).convert .rne 0 (.fin false 500 1) = (0x7E, flagOvfSat) ∧ (fmt 4).convert .rne 0 (.fin false 61440 1) = (0x7C, 0)
      ∧ (fmt 4).convert .rtz 0 (.fin false 61440 1) = (0x7B, 0) ∧ (Fmt.bf16.convert .rne 0 (.ovf false)) = (0x7F80, flagAccOvf)
      ∧ (Fmt.bf16.convert .rne 0 (.fin false 1 (2 ^ 118))).1 = 0x0480 := by decide +kernel

/-- The cancellation that the accord survives: the entry after passes c, b and a (03). -/
theorem test_accord_cancels :
    let c := Accord.add (Val.accord .zero) (Val.accord (.dyadic true 49 112))
    let b := c.add (Val.accord (.fin false 1 (2 ^ 118)))
    (b.word.toNat / 2 ^ 128 % 2 ^ 64 = 0x40000000000000 ∧ b.word.toNat / 2 ^ 192 / 2 ^ 192 % 2 ^ 64 = 0xFFFFFFFCF0000000)
      ∧ Fmt.bf16.convert .rne 0 (b.add (Val.accord (.dyadic false 49 112))).val = (0x0480, 0) := by decide +kernel

/-- A hop of a block, and the owner's sums (12, the block that escalates): u is 2^-26. -/
def u26 (n : Int) : Val := Val.ofInt n (2 ^ 26)

theorem test_tq16_hops :
    tqHop 0x74 0 [0, 0] [u26 20000, u26 (-6000)] = ⟨0x74, 0, [20000, -6000]⟩
      ∧ tqHop 0x74 0 [20000, -6000] [u26 16000, u26 3000] = ⟨0x75, 1, [18000, -1500]⟩
      ∧ tqHop 0x75 1 [18000, -1500] [u26 7001, u26 (-12345)] = ⟨0x75, 1, [21500, -7672]⟩
      ∧ (tqOwner 0x75 1 [21500, -7672] [u26 (-25000), u26 641]).2 = 0x75 := by decide +kernel

/-- The check code (15, R574): d0 alone carries 0x07; d3 and d40 inverted give syndrome 0x82, which is uncorrectable. -/
theorem test_check_code : checkBits 1 = 0x07 ∧ syndrome (2 ^ 3 + 2 ^ 40) = 0x82 ∧ eccClass (2 ^ 3 + 2 ^ 40) = .uncorrectable := by
  decide +kernel

/-! ## Well-formedness: an ill-formed command for each check -/

/-- A request of a coherence agent. -/
def cohReq (ofs : Fin 128) (size : Fin 17) : CohReq := ⟨5, 0, 0, none, 0, 0, .add, ofs, size, 0, none⟩

theorem test_ill_formed_lists :
    Instr.wf (.registerWrite []) = false ∧ Instr.wf (.registerWrite [⟨.keeper 0, 4, 0⟩]) = false ∧ Instr.wf (.dvfsRequest []) = false
      ∧ Instr.wf (.powerSample ⟨0, 0, 0, 0, [(0, 0), (0, 1)], []⟩) = false ∧ Instr.wf (.excursionExpiry [⟨3, 0⟩, ⟨3, 1⟩]) = false
      ∧ Instr.wf (.thermalLimit ⟨[], [], [(2, 0), (2, 0)], [], []⟩) = false ∧ Instr.wf (.availabilityEvent [5, 5]) = false
      ∧ Instr.wf (.messageDeliver []) = false ∧ Instr.wf (.contextFault []) = false ∧ Instr.wf (.walkComplete [fetchWalk, fetchWalk]) = false
      ∧ Instr.wf (.rdS (cohReq 0 1) [(.rdX, cohReq 0 1)]) = false := by decide

theorem test_ill_formed_sizes :
    Instr.wf (.atom (cohReq 120 16) []) = false ∧ Instr.wf (.serverCoreAccess ⟨0, .m, .store [1], 0, 2, false⟩) = false
      ∧ Instr.wf (.pcieInboundRequest ⟨0, 0, 0, .write []⟩) = false ∧ Instr.wf (.ecamAccess ⟨.server 0, 0, 2, 4, none, []⟩) = false
      ∧ Instr.wf (.heaterAdjust 0 []) = false ∧ Instr.wf (.idle 0 ⟨[], []⟩) = false ∧ Instr.wf (.hello 0 ⟨[1, 2, 3, 4], [0]⟩) = false
      ∧ Instr.wf (.samplePreload [true] []) = false ∧ Instr.wf (.pcieConfigRequest 0 ⟨2, none⟩) = false
      ∧ Instr.wf (.interruptMessage .pkg 1) = false ∧ Instr.wf (.injWrite (.keeper 0) .hbm 16 0) = false := by decide

theorem test_well_formed : Instr.wf (.registerWrite [⟨.keeper 0, 8, 0⟩]) = true ∧ Instr.wf (.atom (cohReq 112 16) []) = true
    ∧ Instr.wf (.idle 0 ⟨[0], [0]⟩) = true ∧ Instr.wf (.ecamAccess ⟨.server 0, 0, 4, 4, none, [7]⟩) = true := by decide

end Sys2Proof.Tests
end

section
/-! SUPPORT. What a context fault leaves alone: its teardown (R289, R290) writes registers of few names, of the interrupt
status it only sets bits, and it leaves the platform (power, resets, the steps of a cold reset) as it is. -/

namespace Sys2Proof.Machine

/-- The registers that a teardown, and the memory writes and records it makes, may write, but for IRQ_STS. -/
def teardownReg (r : Reg) : Bool :=
  [RegName.sts, .errRec, .inj, .pkgElogTail, .pkgElogLost, .unitQPtr, .unitCrl, .dmaCh, .accOwn, .cluWin, .timeAstrCfg,
    .timeAstrTail, .secRkeyCfg, .secRkeyK, .dieSlotCfg, .dieSlotSts, .dieSnapSts, .dieSnapOpsts].contains r.name

/-- The frame of a teardown: the platform stays, of the registers only those of `teardownReg` and IRQ_STS change, and a bit
of IRQ_STS that is set stays set. -/
structure TeardownFrame (s t : State) : Prop where
  plat : t.plat = s.plat
  reg : ∀ r, teardownReg r = false → r.name ≠ .irqSts → t.reg r = s.reg r
  irq : ∀ p i b, b < 64 → s.fld (R.irqSts p i) ⟨b, b⟩ = 1 → t.fld (R.irqSts p i) ⟨b, b⟩ = 1

/-- Raising a bit of IRQ_STS keeps every bit that is set. -/
theorem State.irq_raise_of_set (s : State) (p q : Page) (i j b c : Nat) (hb : b < 64) (hc : c < 64)
    (h : s.fld (R.irqSts q j) ⟨c, c⟩ = 1) : (s.raise p i b).fld (R.irqSts q j) ⟨c, c⟩ = 1 := by
  by_cases hr : R.irqSts q j = R.irqSts p i
  · by_cases hbc : c = b
    · rw [hr, hbc]; exact s.irq_raise p i b hb
    · have hap : Fld.apart ⟨b, b⟩ ⟨c, c⟩ = true := by
        simp only [Fld.apart, Bool.or_eq_true, decide_eq_true_eq]; omega
      rw [hr] at h ⊢
      rw [State.fld, State.reg_raise]
      exact (State.fld_setFld_apart s _ ⟨b, b⟩ ⟨c, c⟩ _ (by simp [Fld.ok, hb]) (by simp [Fld.ok, hc]) hap).trans h
  · rwa [State.fld, State.reg_raise_ne s p i b _ hr]

namespace TeardownFrame

variable {s t u : State}

theorem refl (s : State) : TeardownFrame s s := ⟨rfl, fun _ _ _ => rfl, fun _ _ _ _ h => h⟩

theorem trans (h : TeardownFrame s t) (k : TeardownFrame t u) : TeardownFrame s u :=
  ⟨k.plat.trans h.plat, fun r hr hi => (k.reg r hr hi).trans (h.reg r hr hi),
    fun p i b hb hs => k.irq p i b hb (h.irq p i b hb hs)⟩

/-- A change of neither the platform nor the register file keeps the frame. -/
theorem congr (h : TeardownFrame s t) (hp : u.plat = t.plat) (hr : u.regs = t.regs) : TeardownFrame s u :=
  h.trans ⟨hp, fun r _ _ => State.reg_congr t u r hr, fun p i b _ h => by rwa [State.fld, State.reg_congr t u _ hr]⟩

theorem foldl {α : Type} {f : State → α → State} {l : List α} (h : TeardownFrame s t)
    (hf : ∀ u a, TeardownFrame s u → TeardownFrame s (f u a)) : TeardownFrame s (l.foldl f t) := by
  induction l generalizing t with
  | nil => exact h
  | cons a l ih => exact ih (hf t a h)

/-! ## Registers -/

theorem setReg (h : TeardownFrame s t) {r : Reg} {v : Word} (hr : teardownReg r = true := by rfl) :
    TeardownFrame s (t.setReg r v) :=
  h.trans
    { plat := rfl
      reg := fun q hq _ => State.reg_setReg_ne t r q v (fun e => by simp [e, hr] at hq)
      irq := fun p i b _ hi => by
        have hne : R.irqSts p i ≠ r := fun e => Bool.noConfusion (hr.symm.trans (e ▸ rfl : teardownReg r = false))
        rwa [State.fld, State.reg_setReg_ne t r _ v hne] }

theorem setFld (h : TeardownFrame s t) {r : Reg} {f : Fld} {n : Nat} (hr : teardownReg r = true := by rfl) :
    TeardownFrame s (t.setFld r f n) := h.setReg hr

theorem satFld (h : TeardownFrame s t) {r : Reg} {f : Fld} {n : Nat} (hr : teardownReg r = true := by rfl) :
    TeardownFrame s (t.satFld r f n) := h.setReg hr

theorem setBit (h : TeardownFrame s t) {r : Reg} {i : Nat} {b : Bool} (hr : teardownReg r = true := by rfl) :
    TeardownFrame s (t.setBit r i b) := h.setReg hr

theorem raise (h : TeardownFrame s t) {p : Page} {i b : Nat} (hb : b < 64 := by decide) : TeardownFrame s (t.raise p i b) :=
  h.trans
    { plat := t.raise_plat p i b
      reg := fun r _ hi => t.reg_raise_ne p i b r (fun e => hi (by rw [e]))
      irq := fun q j c hc ht => t.irq_raise_of_set p q i j b c hb hc ht }

/-! ## Package memory and error records -/

theorem putBytes (h : TeardownFrame s t) {pa : Nat} {bs : List Byte} : TeardownFrame s (t.putBytes pa bs) := by
  induction bs generalizing t pa with
  | nil => exact h
  | cons b bs ih => exact ih (h.congr (u := t.putByte pa b) rfl rfl)

theorem setErr (h : TeardownFrame s t) {w : Nat} {m : BitVec 72} : TeardownFrame s (t.setErr w m) := h.congr rfl rfl

theorem withErrs (h : TeardownFrame s t) {es : List (Nat × BitVec 72)} : TeardownFrame s { t with errs := es } :=
  h.congr rfl rfl

theorem withTime (h : TeardownFrame s t) {x : TimeSt} : TeardownFrame s { t with time := x } := h.congr rfl rfl

theorem withFresh (h : TeardownFrame s t) {n : Nat} : TeardownFrame s { t with fresh := n } := h.congr rfl rfl

theorem injFired (h : TeardownFrame s t) {p : Page} {i : Nat} : TeardownFrame s (t.injFired p i) := by
  unfold State.injFired
  split
  · exact h
  · exact h.setFld

theorem strikeWords (h : TeardownFrame s t) {p : Page} {i : Nat} {ws : List Nat} : TeardownFrame s (t.strikeWords p i ws) :=
  injFired (h.foldl (fun _ _ h => h.setErr))

theorem writeLineBack (h : TeardownFrame s t) {l : Nat} {d : LineData} : TeardownFrame s (t.writeLineBack l d) := by
  unfold State.writeLineBack
  split
  · exact h
  extract_lets s1 s2 s3
  have h2 : TeardownFrame s s2 := (h.putBytes : TeardownFrame s s1).withErrs
  have h3 : TeardownFrame s s3 := h2.foldl (fun _ _ h => h.setErr)
  split
  · exact h3.strikeWords
  · exact h3

theorem cutTxn (h : TeardownFrame s t) {x : Txn} : TeardownFrame s (t.cutTxn x) := by
  unfold State.cutTxn
  extract_lets line out s1
  have h1 : TeardownFrame s s1 := by
    show TeardownFrame s (match x.phase, out with
      | .granted, some o => t.writeLineBack line (o.written (t.homeData line))
      | _, _ => t)
    split
    · exact h.writeLineBack
    · exact h
  exact h1.congr rfl rfl

theorem recallLine (h : TeardownFrame s t) {l : Nat} : TeardownFrame s (t.recallLine l) := by
  unfold State.recallLine
  extract_lets s1 s2
  have h1 : TeardownFrame s s1 := by
    show TeardownFrame s (match t.liveLine l with
      | some d => t.writeLineBack l d
      | none => t)
    split
    · exact h.writeLineBack
    · exact h
  have h2 : TeardownFrame s s2 := by
    show TeardownFrame s (match s1.coh.txns.find? (fun (t : Txn) => t.subject == l) with
      | some t => s1.cutTxn t
      | none => s1)
    split
    · exact h1.cutTxn
    · exact h1
  exact h2.congr rfl rfl

theorem mendWord (h : TeardownFrame s t) {w : Nat} : TeardownFrame s (t.mendWord w) := by
  unfold State.mendWord
  split
  · exact h.putBytes.setErr
  · exact h

theorem homeWrite (h : TeardownFrame s t) {pa : Nat} {bs : List Byte} : TeardownFrame s (t.homeWrite pa bs) := by
  unfold State.homeWrite
  extract_lets s1 s2
  have h1 : TeardownFrame s s1 := h.foldl (fun _ _ h => h.recallLine)
  have h2 : TeardownFrame s s2 := h1.foldl (fun _ _ h => h.mendWord)
  exact (h2.putBytes : TeardownFrame s (s2.putBytes pa bs)).withErrs

theorem windowPut (h : TeardownFrame s t) {r : ErrRec} {ws : List Word} : TeardownFrame s (t.windowPut r ws) := by
  unfold State.windowPut
  extract_lets q0
  split
  · exact raise (h.foldl (fun _ _ h => h.setReg))
  · split
    · exact h.satFld
    · exact h.setFld

theorem elogLose (h : TeardownFrame s t) : TeardownFrame s t.elogLose := raise (satFld h)

theorem elogAppend (h : TeardownFrame s t) {ws : List Word} : TeardownFrame s (t.elogAppend ws) := by
  unfold State.elogAppend
  extract_lets tail head a
  split
  · split
    · exact h.elogLose
    · split
      · exact h.elogLose
      · exact raise (setFld (h.foldl (fun _ _ h => h.homeWrite)))
  · exact h

theorem record (h : TeardownFrame s t) {r : ErrRec} : TeardownFrame s (t.record r) := by
  unfold State.record
  extract_lets ws entered s1 s2
  have h1 : TeardownFrame s s1 := h.windowPut
  have h2 : TeardownFrame s s2 := by
    show TeardownFrame s (if _ then _ else _ : State)
    split
    · exact h1.elogAppend
    · exact h1
  split
  · exact h2.raise
  · exact h2

theorem sysWrite (h : TeardownFrame s t) {die a : Nat} {bs : List Byte} {req : Loc} :
    TeardownFrame s (t.sysWrite die a bs req) := by
  unfold State.sysWrite State.sysMet
  split
  · exact h.homeWrite
  · split
    · exact h.record
    · split
      · exact h.record
      · exact h

/-! ## The steps of a teardown (R289) -/

theorem setCtx (h : TeardownFrame s t) {c : Nat} {x : CtxSt} : TeardownFrame s (t.setCtx c x) := by
  unfold State.setCtx
  extract_lets _ s1 a old keep
  have h1 : TeardownFrame s s1 := h.congr rfl rfl
  split
  · exact h1.record
  · exact h1.sysWrite

theorem haltEngines (h : TeardownFrame s t) {n : Nat} : TeardownFrame s (t.haltEngines n) := by
  unfold State.haltEngines
  extract_lets e s1
  have h1 : TeardownFrame s s1 := h.congr rfl rfl
  exact setFld (setFld h1.setReg)

theorem stopUnits (h : TeardownFrame s t) {ctx : Nat} : TeardownFrame s (t.stopUnits ctx) := by
  unfold State.stopUnits
  extract_lets us _ s1
  have h1 : TeardownFrame s s1 := h.congr rfl rfl
  exact h1.foldl (fun u n h => haltEngines (h.congr (u := u.clearAcc n) rfl rfl))

theorem dropChans (h : TeardownFrame s t) {p : Chan → Bool} : TeardownFrame s (t.dropChans p) := by
  unfold State.dropChans
  extract_lets gone _ s1
  have h1 : TeardownFrame s s1 := h.congr rfl rfl
  exact h1.foldl (fun _ _ h => setBit (setBit h.setReg))

theorem downQueues (h : TeardownFrame s t) {ctx : Nat} : TeardownFrame s (t.downQueues ctx) := by
  unfold State.downQueues
  extract_lets qs ls s1 s2 mine
  have h1 : TeardownFrame s s1 := h.foldl (fun _ _ h => setFld h)
  have h2 : TeardownFrame s s2 := h1.foldl (fun _ _ h => setFld h.setFld)
  exact h2.congr rfl rfl

theorem dropParks (h : TeardownFrame s t) {p : Park → Bool} {lat : BitVec 256 → Bool} :
    TeardownFrame s (t.dropParks p lat) := by
  unfold State.dropParks
  extract_lets _ s1 s2
  have h2 : TeardownFrame s s2 := h.congr rfl rfl
  refine h2.foldl (fun u d h => ?_)
  split
  · exact h
  · exact h.setFld

theorem dropTlb (h : TeardownFrame s t) {ctx : Nat} : TeardownFrame s (t.dropTlb ctx) := h.congr rfl rfl

theorem dropWindows (h : TeardownFrame s t) {ctx : Nat} : TeardownFrame s (t.dropWindows ctx) := by
  unfold State.dropWindows
  extract_lets ws
  refine h.foldl (fun u w h => ?_)
  extract_lets b u1
  have h1 : TeardownFrame s u1 := h.setFld
  exact h1.congr rfl rfl

theorem flushLine (h : TeardownFrame s t) {l : Nat} : TeardownFrame s (t.flushLine l) := by
  unfold State.flushLine
  extract_lets s1
  have h1 : TeardownFrame s s1 := by
    show TeardownFrame s (if _ then _ else _ : State)
    split
    · exact h.record
    · exact h
  exact h1.recallLine

theorem releaseGranules (h : TeardownFrame s t) {ctx : Nat} : TeardownFrame s (t.releaseGranules ctx) := by
  unfold State.releaseGranules
  extract_lets got grp s1 owned s2 maps
  have h1 : TeardownFrame s s1 := h.foldl (fun _ _ h => h.flushLine)
  have h2 : TeardownFrame s s2 := by
    refine h1.foldl (fun u g h => ?_)
    extract_lets e
    split
    · exact h.putBytes
    · exact h
  exact h2.foldl (fun _ _ h => h.congr rfl rfl)

theorem disarmStream (h : TeardownFrame s t) {n : Nat} : TeardownFrame s (t.disarmStream n) := withTime h.setFld

theorem endStream (h : TeardownFrame s t) {n : Nat} : TeardownFrame s (t.endStream n) := setFld h.disarmStream

theorem dropStreams (h : TeardownFrame s t) {ctx : Nat} : TeardownFrame s (t.dropStreams ctx) := by
  unfold State.dropStreams
  extract_lets ns ns' _ s1
  have h1 : TeardownFrame s s1 := h.congr rfl rfl
  exact h1.foldl (fun _ _ h => h.endStream)

theorem clearKeySlot (h : TeardownFrame s t) {n : Nat} : TeardownFrame s (t.clearKeySlot n) :=
  h.setFld.foldl (fun _ _ h => h.setReg)

theorem dropKeys (h : TeardownFrame s t) {ctx : Nat} : TeardownFrame s (t.dropKeys ctx) :=
  h.foldl (fun _ _ h => h.clearKeySlot)

theorem setSlotSt (h : TeardownFrame s t) {k : Nat} {x : SlotSt} : TeardownFrame s (t.setSlotSt k x) := h.congr rfl rfl

theorem abandonSnap (h : TeardownFrame s t) {k : Nat} : TeardownFrame s (t.abandonSnap k) := by
  unfold State.abandonSnap
  extract_lets r
  split
  · exact h
  · split
    · exact setFld (satFld h.setSlotSt)
    · exact raise (setFld (satFld h.setSlotSt))

theorem endSnapOp (h : TeardownFrame s t) {k result : Nat} : TeardownFrame s (t.endSnapOp k result) := by
  unfold State.endSnapOp
  extract_lets r
  split
  · exact h
  · exact raise (setFld (setFld h.setSlotSt))

theorem disarmSlot (h : TeardownFrame s t) {k : Nat} : TeardownFrame s (t.disarmSlot k) :=
  setFld (setFld (setSlotSt h.abandonSnap))

theorem dropSlot (h : TeardownFrame s t) {k : Nat} : TeardownFrame s (t.dropSlot k) := by
  unfold State.dropSlot
  extract_lets s1
  have h1 : TeardownFrame s s1 := h.endSnapOp
  split
  · exact h1.disarmSlot
  · exact h1

theorem dropSlots (h : TeardownFrame s t) {ctx : Nat} : TeardownFrame s (t.dropSlots ctx) :=
  h.foldl (fun _ _ h => h.dropSlot)

theorem dropAged (h : TeardownFrame s t) {ctx : Nat} : TeardownFrame s (t.dropAged ctx) := h.congr rfl rfl

theorem beginTeardown (h : TeardownFrame s t) {ctx cause loc : Nat} : TeardownFrame s (t.beginTeardown ctx cause loc) := by
  unfold State.beginTeardown
  split
  · extract_lets _ s1 s2 s3 s4 s5 s6 s7 s8 s9 s10 s11
    have h4 : TeardownFrame s s4 := downQueues (dropChans (stopUnits h.setCtx))
    have h8 : TeardownFrame s s8 := releaseGranules (dropWindows (dropTlb h4.dropParks))
    exact dropSlots (dropAged (dropKeys h8.dropStreams))
  · exact h

theorem spoilArea (h : TeardownFrame s t) {ctx n : Nat} : TeardownFrame s (t.spoilArea ctx n) := by
  unfold State.spoilArea
  split
  · split
    · exact h
    · exact withFresh h.homeWrite
  · exact h

/-- A context fault keeps the frame of a teardown. -/
theorem ctxFault (h : TeardownFrame s t) {ctx status : Nat} {loc : Loc} : TeardownFrame s (t.ctxFault ctx status loc) := by
  unfold State.ctxFault
  extract_lets s1
  have h1 : TeardownFrame s s1 := by
    show TeardownFrame s (if _ then _ else _ : State)
    split
    · exact h.foldl (fun _ _ h => h.spoilArea)
    · exact h
  exact h1.beginTeardown

end TeardownFrame

end Sys2Proof.Machine
end

section
/-! SUPPORT. The availability map under events (R57, R62, R63): what clearing a block's bits, an event and a fold of events do
to the bits of the map and to AVAIL_GEN. -/

namespace Sys2Proof.Machine

/-! ## One bit of a register -/

/-- A word with bit `k` cleared. -/
theorem natBit_put_zero (w : Word) (k i : Nat) :
    natBit (Fld.put ⟨k, k⟩ w 0).toNat i = (natBit w.toNat i && decide (i ≠ k)) := by
  have bit_get : ∀ (v : Word) (j : Nat), natBit v.toNat j = (Fld.get ⟨j, j⟩ v == 1) := fun v j => by
    simp [natBit, Fld.get, Fld.width]
  have bit_high : ∀ (v : Word) (j : Nat), 64 ≤ j → natBit v.toNat j = false := fun v j hj => by
    have : v.toNat < 2 ^ j := v.isLt.trans_le (Nat.pow_le_pow_right (by decide) hj)
    simp [natBit, Nat.div_eq_of_lt this]
  have ok_of_lt : ∀ j, j < 64 → Fld.ok ⟨j, j⟩ = true := fun j hj => by simp [Fld.ok, hj]
  by_cases hi : i < 64
  · by_cases hik : i = k
    · subst hik
      rw [bit_get, Fld.get_put _ (ok_of_lt i hi)]; simp
    · rw [bit_get, bit_get]
      by_cases hk : k < 64
      · have hap : Fld.apart ⟨k, k⟩ ⟨i, i⟩ = true := by
          simp only [Fld.apart, Bool.or_eq_true, decide_eq_true_eq]; omega
        rw [Fld.get_put_apart _ _ (ok_of_lt k hk) (ok_of_lt i hi) hap]; simp [hik]
      · have hw : w.toNat < 2 ^ k := w.isLt.trans_le (Nat.pow_le_pow_right (by decide) (by omega))
        simp [Fld.put, Fld.get, Fld.width, Nat.div_eq_of_lt hw, hik]
  · rw [bit_high _ i (by omega), bit_high _ i (by omega)]; rfl

/-- A bit cleared: it reads 0, and every other bit of every register as before. -/
theorem State.regBit_setBit_false (s : State) (r q : Reg) (k i : Nat) :
    (s.setBit r k false).regBit q i = (s.regBit q i && decide ¬(q = r ∧ i = k)) := by
  by_cases hq : q = r
  · subst hq
    rw [State.regBit, State.setBit, State.reg_setFld_same, bitNat, if_neg (by decide), natBit_put_zero]
    simp [State.regBit]
  · rw [State.regBit, State.setBit, State.reg_setFld_ne _ _ _ _ _ hq]
    simp [State.regBit, hq]

/-- Bits cleared one after another, the bit of `x` being bit `g x` of register `f x`. -/
def State.clearBits (s : State) (f : Nat → Reg) (g : Nat → Nat) (l : List Nat) : State :=
  l.foldl (fun s x => s.setBit (f x) (g x) false) s

theorem State.clearBits_plat (s : State) (f : Nat → Reg) (g : Nat → Nat) (l : List Nat) :
    (s.clearBits f g l).plat = s.plat := by
  induction l generalizing s with
  | nil => rfl
  | cons x l ih => exact ih (s.setBit (f x) (g x) false)

theorem State.reg_clearBits_ne (s : State) (f : Nat → Reg) (g : Nat → Nat) (l : List Nat) (r : Reg) (h : ∀ x, r ≠ f x) :
    (s.clearBits f g l).reg r = s.reg r := by
  induction l generalizing s with
  | nil => rfl
  | cons x l ih => exact (ih (s.setBit (f x) (g x) false)).trans (State.reg_setFld_ne _ _ _ _ _ (h x))

/-- A bit that is 0 stays so. -/
theorem State.regBit_clearBits_of_false (s : State) (f : Nat → Reg) (g : Nat → Nat) (l : List Nat) (r : Reg) (i : Nat)
    (h : s.regBit r i = false) : (s.clearBits f g l).regBit r i = false := by
  induction l generalizing s with
  | nil => exact h
  | cons x l ih => exact ih (s.setBit (f x) (g x) false) (by simp [State.regBit_setBit_false, h])

/-- The bits cleared read 0. -/
theorem State.regBit_clearBits (s : State) (f : Nat → Reg) (g : Nat → Nat) (l : List Nat) (x : Nat) (h : x ∈ l) :
    (s.clearBits f g l).regBit (f x) (g x) = false := by
  induction l generalizing s with
  | nil => cases h
  | cons y l ih =>
    rcases List.mem_cons.mp h with rfl | h
    · exact State.regBit_clearBits_of_false (s.setBit (f x) (g x) false) f g l _ _ (by simp [State.regBit_setBit_false])
    · exact ih (s.setBit (f y) (g y) false) h

/-! ## The map only loses blocks -/

/-- The registers of the availability map (R58). -/
def mapReg (r : Reg) : Bool := [RegName.pkgAvailUnit, .pkgAvailClu, .pkgAvailMisc, .pkgAvailCore].contains r.name

/-- From `s` to `t` the platform stays, and no bit of the map that is 0 becomes 1. -/
structure MapShrinks (s t : State) : Prop where
  plat : t.plat = s.plat
  bit : ∀ r, mapReg r = true → ∀ i, s.regBit r i = false → t.regBit r i = false

namespace MapShrinks

variable {s t u : State}

theorem refl (s : State) : MapShrinks s s := ⟨rfl, fun _ _ _ h => h⟩

theorem trans (h : MapShrinks s t) (k : MapShrinks t u) : MapShrinks s u :=
  ⟨k.plat.trans h.plat, fun r hr i hi => k.bit r hr i (h.bit r hr i hi)⟩

/-- A change of no register of the map. -/
theorem of_reg (hp : t.plat = s.plat) (hr : ∀ r, mapReg r = true → t.reg r = s.reg r) : MapShrinks s t :=
  ⟨hp, fun r hm i hi => by rwa [State.regBit, hr r hm]⟩

theorem of_teardown (h : TeardownFrame s t) : MapShrinks s t :=
  of_reg h.plat (fun r hr => by
    have hn : r.name = .pkgAvailUnit ∨ r.name = .pkgAvailClu ∨ r.name = .pkgAvailMisc ∨ r.name = .pkgAvailCore := by
      simpa [mapReg] using hr
    refine h.reg r ?_ ?_ <;> rcases hn with hn | hn | hn | hn <;> simp [teardownReg, hn])

theorem clearBits (s : State) (f : Nat → Reg) (g : Nat → Nat) (l : List Nat) : MapShrinks s (s.clearBits f g l) :=
  ⟨s.clearBits_plat f g l, fun r _ i hi => s.regBit_clearBits_of_false f g l r i hi⟩

theorem mapOpen (h : MapShrinks s t) : t.mapOpen = s.mapOpen := by rw [State.mapOpen, h.plat, State.mapOpen]

/-- A block whose bit is 0 stays unavailable. -/
theorem bit_gone (h : MapShrinks s t) (r : Reg) (hr : mapReg r = true) (i : Nat)
    (hs : (s.mapOpen || s.regBit r i) = false) : (t.mapOpen || t.regBit r i) = false := by
  rw [Bool.or_eq_false_iff] at hs ⊢
  exact ⟨h.mapOpen.trans hs.1, h.bit r hr i hs.2⟩

theorem mapAvail (h : MapShrinks s t) (b : MapBlock) (hs : s.mapAvail b = false) : t.mapAvail b = false := by
  cases b with
  | unit u => exact h.bit_gone _ rfl _ hs
  | cluster c => exact h.bit_gone _ rfl _ hs
  | region r => exact h.bit_gone _ rfl _ hs
  | stack k => exact h.bit_gone _ rfl _ hs
  | optPort p => exact h.bit_gone _ rfl _ hs
  | pcie q => exact h.bit_gone _ rfl _ hs
  | core c => exact h.bit_gone _ rfl _ hs
  | die d =>
    rw [State.mapAvail, List.any_eq_false] at hs ⊢
    intro i hi
    have hr : s.rgnAvail (d * 8 + i) = false := by simpa using hs i hi
    exact fun ht => Bool.noConfusion (ht.symm.trans (h.bit_gone _ rfl _ hr))

end MapShrinks

/-! ## An event on a block -/

/-- A block of the map and everything that depends on it are unavailable (R63). -/
structure State.Withdrawn (s : State) (b : MapBlock) : Prop where
  block : s.mapAvail b = false
  units : ∀ u ∈ b.units, s.unitAvail u = false
  clusters : ∀ c ∈ b.clusters, s.cluAvail c = false
  regions : ∀ r ∈ b.misc, s.rgnAvail r = false

theorem State.Withdrawn.mono {s t : State} {b : MapBlock} (h : s.Withdrawn b) (k : MapShrinks s t) : t.Withdrawn b where
  block := k.mapAvail b h.block
  units u hu := k.bit_gone _ rfl _ (h.units u hu)
  clusters c hc := k.bit_gone _ rfl _ (h.clusters c hc)
  regions r hr := k.bit_gone _ rfl _ (h.regions r hr)

/-- The bits of units, clusters and AVAIL_MISC that an event on a block clears are cleared. -/
def State.clearDependents (s : State) (b : MapBlock) : State :=
  ((s.clearBits (fun u => R.pkgAvailUnit (u / 64)) (· % 64) b.units).clearBits (fun c => R.pkgAvailClu (c / 64)) (· % 64)
    b.clusters).clearBits (fun _ => R.pkgAvailMisc) (fun i => i) b.misc

theorem State.clearAvail_eq (s : State) (b : MapBlock) :
    s.clearAvail b = match b with
      | .core c => (s.clearDependents b).setBit R.pkgAvailCore c false
      | .stack _ => (s.clearDependents b).setFld R.pkgSts F.pkgSts_MEM_DEGRADED 1
      | _ => s.clearDependents b := by
  cases b <;> rfl

theorem State.clearAvail_shrinks (s : State) (b : MapBlock) : MapShrinks (s.clearDependents b) (s.clearAvail b) := by
  rw [State.clearAvail_eq]
  split
  · next c => exact MapShrinks.clearBits _ (fun _ => R.pkgAvailCore) (fun i => i) [c]
  · exact .of_reg rfl (fun r hr => State.reg_setFld_ne _ _ _ _ _ (fun e => by simp [e, mapReg] at hr))
  · exact .refl _

theorem State.clearDependents_shrinks (s : State) (b : MapBlock) : MapShrinks s (s.clearDependents b) :=
  ((MapShrinks.clearBits _ _ _ _).trans (.clearBits _ _ _ _)).trans (.clearBits _ _ _ _)

/-- Clearing the bits of a block writes the map, and PKG.STS, and no other register. -/
theorem State.reg_clearAvail (s : State) (b : MapBlock) (r : Reg) (hm : mapReg r = false) (hs : r ≠ R.pkgSts) :
    (s.clearAvail b).reg r = s.reg r := by
  have ne : ∀ q, mapReg q = true → r ≠ q := fun q hq e => Bool.noConfusion (hq.symm.trans (e ▸ hm))
  have hd : (s.clearDependents b).reg r = s.reg r := by
    rw [State.clearDependents, State.reg_clearBits_ne _ _ _ _ _ (fun _ => ne _ rfl),
      State.reg_clearBits_ne _ _ _ _ _ (fun _ => ne _ rfl), State.reg_clearBits_ne _ _ _ _ _ (fun _ => ne _ rfl)]
  rw [State.clearAvail_eq]
  split
  · exact (State.reg_setFld_ne _ _ _ _ _ (ne _ rfl)).trans hd
  · exact (State.reg_setFld_ne _ _ _ _ _ hs).trans hd
  · exact hd

theorem State.clearAvail_withdrawn (s : State) (b : MapBlock) (h : s.mapOpen = false) : (s.clearAvail b).Withdrawn b := by
  have hk := s.clearAvail_shrinks b
  have hopen : (s.clearDependents b).mapOpen = false := (s.clearDependents_shrinks b).mapOpen.trans h
  have unit : ∀ u ∈ b.units, (s.clearAvail b).unitAvail u = false := fun u hu =>
    hk.bit_gone _ rfl _ (Bool.or_eq_false_iff.mpr ⟨hopen, State.regBit_clearBits_of_false _ _ _ _ _ _
      (State.regBit_clearBits_of_false _ _ _ _ _ _ (State.regBit_clearBits s _ _ b.units u hu))⟩)
  have cluster : ∀ c ∈ b.clusters, (s.clearAvail b).cluAvail c = false := fun c hc =>
    hk.bit_gone _ rfl _ (Bool.or_eq_false_iff.mpr ⟨hopen, State.regBit_clearBits_of_false _ _ _ _ _ _
      (State.regBit_clearBits _ _ _ b.clusters c hc)⟩)
  have misc : ∀ i ∈ b.misc, (s.clearAvail b).rgnAvail i = false := fun i hi =>
    hk.bit_gone _ rfl _ (Bool.or_eq_false_iff.mpr ⟨hopen, State.regBit_clearBits _ _ _ b.misc i hi⟩)
  refine ⟨?_, unit, cluster, misc⟩
  cases b with
  | unit u => exact unit u (List.mem_singleton.mpr rfl)
  | cluster c => exact cluster c (List.mem_singleton.mpr rfl)
  | region r => exact misc r (List.mem_singleton.mpr rfl)
  | stack k => exact misc (32 + k) (List.mem_singleton.mpr rfl)
  | optPort p => exact misc (48 + p) (List.mem_singleton.mpr rfl)
  | pcie q => exact misc (56 + q) (List.mem_singleton.mpr rfl)
  | core c =>
    refine Bool.or_eq_false_iff.mpr ⟨hk.mapOpen.trans hopen, ?_⟩
    simp [State.clearAvail_eq, State.regBit_setBit_false]
  | die d =>
    rw [State.mapAvail, List.any_eq_false]
    intro i hi
    simp [misc (d * 8 + i) (List.mem_map_of_mem hi)]

/-- An event on a block before the contexts of the lost units are torn down (R62). -/
def State.markEvent (s : State) (b : MapBlock) (loc : Loc) (cause : Nat) : State :=
  ((((s.clearAvail b).addFld R.pkgAvailGen F.pkgAvailGen_GEN 1).setFld R.pkgAvailGen F.pkgAvailGen_LAST_LOC loc.toNat).setFld
    R.pkgAvailGen F.pkgAvailGen_LAST_CAUSE cause).raise .pkg 0 0

theorem State.availEvent_frame (s : State) (b : MapBlock) (loc : Loc) (cause : Nat) :
    TeardownFrame (s.markEvent b loc cause) (s.availEvent b loc cause) :=
  (TeardownFrame.refl _).foldl (fun _ _ h => h.ctxFault)

theorem State.markEvent_shrinks (s : State) (b : MapBlock) (loc : Loc) (cause : Nat) :
    MapShrinks (s.clearAvail b) (s.markEvent b loc cause) :=
  .of_reg (by rw [State.markEvent, State.raise_plat, State.setFld_plat, State.setFld_plat, State.addFld_plat]) (fun r hr => by
    have ne : ∀ q, mapReg q = false → r ≠ q := fun q hq e => Bool.noConfusion (hr.symm.trans (e ▸ hq))
    rw [State.markEvent, State.addFld, State.reg_raise_ne _ _ _ _ _ (ne _ rfl), State.reg_setFld_ne _ _ _ _ _ (ne _ rfl),
      State.reg_setFld_ne _ _ _ _ _ (ne _ rfl), State.reg_setFld_ne _ _ _ _ _ (ne _ rfl)])

theorem State.availEvent_shrinks (s : State) (b : MapBlock) (loc : Loc) (cause : Nat) :
    MapShrinks s (s.availEvent b loc cause) :=
  (((s.clearDependents_shrinks b).trans (s.clearAvail_shrinks b)).trans (s.markEvent_shrinks b loc cause)).trans
    (.of_teardown (s.availEvent_frame b loc cause))

theorem State.availEvent_withdrawn (s : State) (b : MapBlock) (loc : Loc) (cause : Nat) (h : s.mapOpen = false) :
    (s.availEvent b loc cause).Withdrawn b :=
  (s.clearAvail_withdrawn b h).mono
    ((s.markEvent_shrinks b loc cause).trans (.of_teardown (s.availEvent_frame b loc cause)))

/-- AVAIL_GEN after an event. -/
theorem State.reg_availEvent_gen (s : State) (b : MapBlock) (loc : Loc) (cause : Nat) :
    (s.availEvent b loc cause).reg R.pkgAvailGen
      = F.pkgAvailGen_LAST_CAUSE.put (F.pkgAvailGen_LAST_LOC.put (F.pkgAvailGen_GEN.put (s.reg R.pkgAvailGen)
          (s.fld R.pkgAvailGen F.pkgAvailGen_GEN + 1)) loc.toNat) cause := by
  have hc : (s.clearAvail b).reg R.pkgAvailGen = s.reg R.pkgAvailGen := s.reg_clearAvail b _ rfl (by decide)
  rw [(s.availEvent_frame b loc cause).reg _ rfl (by decide), State.markEvent, State.reg_raise_ne _ _ _ _ _ (by decide),
    State.reg_setFld_same, State.reg_setFld_same, State.addFld, State.reg_setFld_same, State.fld, hc, State.fld]

theorem State.availEvent_gen (s : State) (b : MapBlock) (loc : Loc) (cause : Nat) :
    (s.availEvent b loc cause).fld R.pkgAvailGen F.pkgAvailGen_GEN
      = (s.fld R.pkgAvailGen F.pkgAvailGen_GEN + 1) % 2 ^ F.pkgAvailGen_GEN.width := by
  rw [State.fld, State.reg_availEvent_gen, Fld.get_put_apart _ _ rfl rfl rfl, Fld.get_put_apart _ _ rfl rfl rfl,
    Fld.get_put _ rfl]

theorem State.availEvent_lastLoc (s : State) (b : MapBlock) (loc : Loc) (cause : Nat) :
    (s.availEvent b loc cause).fld R.pkgAvailGen F.pkgAvailGen_LAST_LOC = loc.toNat := by
  rw [State.fld, State.reg_availEvent_gen, Fld.get_put_apart _ _ rfl rfl rfl, Fld.get_put _ rfl]
  exact Nat.mod_eq_of_lt loc.isLt

theorem State.availEvent_lastCause (s : State) (b : MapBlock) (loc : Loc) (cause : Nat) (h : cause < 16) :
    (s.availEvent b loc cause).fld R.pkgAvailGen F.pkgAvailGen_LAST_CAUSE = cause := by
  rw [State.fld, State.reg_availEvent_gen, Fld.get_put _ rfl]
  exact Nat.mod_eq_of_lt h

theorem State.availEvent_availChg (s : State) (b : MapBlock) (loc : Loc) (cause : Nat) :
    (s.availEvent b loc cause).fld (R.irqSts .pkg 0) ⟨0, 0⟩ = 1 :=
  (s.availEvent_frame b loc cause).irq _ _ _ (by decide) (State.irq_raise _ _ _ _ (by decide))

end Sys2Proof.Machine
end

section
/-! SUPPORT. The failures of one cycle (R62, R66): taken in ascending order of location code, each event of them is one step of
a fold, and the last one is the event of the highest code. -/

namespace Sys2Proof.Machine

/-! ## The model's sorting is the library's insertion sort -/

theorem insertBy_eq_orderedInsert {α : Type} (r : α → α → Prop) [DecidableRel r] (x : α) (l : List α) :
    insertBy (fun a b => decide (r a b)) x l = l.orderedInsert r x := by
  induction l with
  | nil => rfl
  | cons y l ih => simp [insertBy, ih]

theorem sortBy_eq_insertionSort {α : Type} (r : α → α → Prop) [DecidableRel r] (l : List α) :
    sortBy (fun a b => decide (r a b)) l = l.insertionSort r := by
  induction l with
  | nil => rfl
  | cons x l ih => rw [sortBy, ih, insertBy_eq_orderedInsert, List.insertionSort_cons]

/-- The failures of a cycle in the order in which they are taken. -/
def ascending (locs : List Loc) : List Loc := sortBy (fun a b => decide (a.toNat ≤ b.toNat)) locs

theorem ascending_perm (locs : List Loc) : (ascending locs).Perm locs := by
  rw [ascending, sortBy_eq_insertionSort]; exact List.perm_insertionSort _ _

theorem ascending_pairwise (locs : List Loc) : (ascending locs).Pairwise (fun a b => a.toNat ≤ b.toNat) := by
  have total : Std.Total (fun a b : Loc => a.toNat ≤ b.toNat) := ⟨fun a b => Nat.le_total _ _⟩
  have transitive : IsTrans Loc (fun a b => a.toNat ≤ b.toNat) := ⟨fun _ _ _ => Nat.le_trans⟩
  rw [ascending, sortBy_eq_insertionSort]; exact List.pairwise_insertionSort _ _

/-! ## One failure -/

/-- The failure of a block that is an event. -/
def State.failBlock (s : State) (loc : Loc) : State :=
  match mapBlock loc with
  | some b => s.availEvent b loc 3
  | none => s

theorem State.failBlock_of_map (s : State) {loc : Loc} {b : MapBlock} (h : mapBlock loc = some b) :
    s.failBlock loc = s.availEvent b loc 3 := by rw [State.failBlock, h]

theorem State.failBlock_shrinks (s : State) (loc : Loc) : MapShrinks s (s.failBlock loc) := by
  unfold State.failBlock
  split
  · exact s.availEvent_shrinks _ loc 3
  · exact .refl s

theorem State.blockLost_eq (s0 s : State) (loc : Loc) :
    s0.blockLost s loc = if (mapBlock loc).any s0.mapAvail then s.failBlock loc else s := by
  unfold State.blockLost State.failBlock
  cases mapBlock loc <;> simp

theorem mem_eventsOf_map {s : State} {locs : List Loc} {loc : Loc} (h : loc ∈ eventsOf s locs) :
    ∃ b, mapBlock loc = some b := by
  obtain ⟨b, hb, -⟩ := (Option.any_eq_true _ _).mp (List.mem_filter.mp h).2
  exact ⟨b, hb⟩

/-! ## The failures of a cycle -/

theorem State.foldl_failBlock_shrinks (s : State) (locs : List Loc) : MapShrinks s (locs.foldl State.failBlock s) := by
  induction locs generalizing s with
  | nil => exact .refl s
  | cons loc locs ih => exact (s.failBlock_shrinks loc).trans (ih _)

/-- Each event of a cycle leaves its block and the dependents unavailable at the end of the cycle. -/
theorem State.foldl_failBlock_withdrawn (s : State) (locs : List Loc) (loc : Loc) (b : MapBlock) (hs : s.mapOpen = false)
    (hl : loc ∈ locs) (hb : mapBlock loc = some b) : (locs.foldl State.failBlock s).Withdrawn b := by
  obtain ⟨before, after, rfl⟩ := List.append_of_mem hl
  rw [List.foldl_append, List.foldl_cons, State.failBlock_of_map _ hb]
  have hopen := (s.foldl_failBlock_shrinks before).mapOpen.trans hs
  exact (State.availEvent_withdrawn _ b loc 3 hopen).mono (State.foldl_failBlock_shrinks _ after)

/-- GEN counts every event. -/
theorem State.foldl_failBlock_gen (s : State) (locs : List Loc) (h : ∀ loc ∈ locs, ∃ b, mapBlock loc = some b) :
    (locs.foldl State.failBlock s).fld R.pkgAvailGen F.pkgAvailGen_GEN
      = (s.fld R.pkgAvailGen F.pkgAvailGen_GEN + locs.length) % 2 ^ F.pkgAvailGen_GEN.width := by
  induction locs generalizing s with
  | nil => exact (Nat.mod_mod _ _).symm
  | cons loc locs ih =>
    obtain ⟨b, hb⟩ := h loc List.mem_cons_self
    rw [List.foldl_cons, ih _ (fun l hl => h l (List.mem_cons_of_mem _ hl)), State.failBlock_of_map _ hb,
      State.availEvent_gen, Nat.mod_add_mod, List.length_cons, Nat.add_right_comm, Nat.add_assoc]

/-- The last event of a cycle leaves its place, its cause and AVAIL_CHG. -/
theorem State.foldl_failBlock_last (s : State) (locs : List Loc) (last : Loc) (b : MapBlock) (hb : mapBlock last = some b) :
    ((locs ++ [last]).foldl State.failBlock s).fld R.pkgAvailGen F.pkgAvailGen_LAST_LOC = last.toNat
      ∧ ((locs ++ [last]).foldl State.failBlock s).fld R.pkgAvailGen F.pkgAvailGen_LAST_CAUSE = 3
      ∧ ((locs ++ [last]).foldl State.failBlock s).fld (R.irqSts .pkg 0) ⟨0, 0⟩ = 1 := by
  rw [List.foldl_append, List.foldl_cons, List.foldl_nil, State.failBlock_of_map _ hb]
  exact ⟨State.availEvent_lastLoc _ b last 3, State.availEvent_lastCause _ b last 3 (by decide),
    State.availEvent_availChg _ b last 3⟩

/-- Of a list in ascending order the last entry is the highest. -/
theorem eq_last_of_highest {locs : List Loc} {last loc : Loc} (hp : (locs ++ [last]).Pairwise (fun a b => a.toNat ≤ b.toNat))
    (hm : loc ∈ locs ++ [last]) (hl : last.toNat ≤ loc.toNat) : loc = last := by
  rcases List.mem_append.mp hm with h | h
  · exact BitVec.eq_of_toNat_eq
      (Nat.le_antisymm ((List.pairwise_append.mp hp).2.2 loc h last (List.mem_singleton.mpr rfl)) hl)
  · exact List.mem_singleton.mp h

/-- AVAILABILITY_EVENT takes the events of the cycle, in ascending order. -/
theorem execAvailabilityEvent_eq (s : State) (locs : List Loc) (hr : s.running = true) :
    execAvailabilityEvent locs s = .next ((eventsOf s (ascending locs)).foldl State.failBlock s) := by
  have step : s.blockLost = fun t loc => if (mapBlock loc).any s.mapAvail then t.failBlock loc else t :=
    funext fun t => funext fun loc => s.blockLost_eq t loc
  rw [execAvailabilityEvent, hr, eventsOf, List.foldl_filter, step]
  rfl

theorem eventsOf_ascending_perm (s : State) (locs : List Loc) : (eventsOf s (ascending locs)).Perm (eventsOf s locs) :=
  (ascending_perm locs).filter _

theorem eventsOf_ascending_pairwise (s : State) (locs : List Loc) :
    (eventsOf s (ascending locs)).Pairwise (fun a b => a.toNat ≤ b.toNat) := (ascending_pairwise locs).filter _

/-- A cycle with an event has a last one, which is the only one of the highest location code. -/
theorem exists_last_event (s : State) (locs : List Loc) (h : eventsOf s locs ≠ []) :
    ∃ init last b, eventsOf s (ascending locs) = init ++ [last] ∧ mapBlock last = some b ∧ last ∈ eventsOf s locs
      ∧ ∀ loc ∈ eventsOf s locs, last.toNat ≤ loc.toNat → loc = last := by
  have perm := eventsOf_ascending_perm s locs
  have sorted := eventsOf_ascending_pairwise s locs
  obtain hnil | ⟨init, last, hcat⟩ := (eventsOf s (ascending locs)).eq_nil_or_concat'
  · exact absurd (perm.symm.trans (hnil ▸ .nil)).eq_nil h
  · have hlast : last ∈ eventsOf s (ascending locs) := by simp [hcat]
    obtain ⟨b, hb⟩ := mem_eventsOf_map hlast
    exact ⟨init, last, b, hcat, hb, perm.mem_iff.mp hlast, fun loc hl =>
      eq_last_of_highest (hcat ▸ sorted) (hcat ▸ perm.mem_iff.mpr hl)⟩

/-! ## A block withdrawn by AVAIL_RETIRE (R65) -/

theorem State.mapOpen_setFld (s : State) (r : Reg) (f : Fld) (n : Nat) : (s.setFld r f n).mapOpen = s.mapOpen := by
  rw [State.mapOpen, State.setFld_plat, State.mapOpen]

/-- AVAIL_RETIRE of an available block that it may name is an event with cause 4. -/
theorem execAvailRetire_eq (s : State) (a : Agent) (loc : Loc) (b : MapBlock) (hd : s.pageDead .pkg 0 = false)
    (hf : fwAllowed a .pkg = true) (hb : mapBlock loc = some b) (hr : b.retirable = true) (ha : s.mapAvail b = true) :
    execAvailRetire a loc s
      = .next ((s.setFld R.pkgAvailRetire F.pkgAvailRetire_LOC loc.toNat).availEvent b loc 4) := by
  have back : MapShrinks (s.setFld R.pkgAvailRetire F.pkgAvailRetire_LOC loc.toNat) s :=
    .of_reg rfl (fun r hm => (State.reg_setFld_ne _ _ _ _ _ (fun e => by simp [e, mapReg] at hm)).symm)
  have avail : (s.setFld R.pkgAvailRetire F.pkgAvailRetire_LOC loc.toNat).mapAvail b = true := by
    by_contra hn
    exact Bool.noConfusion (ha.symm.trans (back.mapAvail b (Bool.not_eq_true _ ▸ hn)))
  simp [execAvailRetire, hd, hf, hb, hr, avail]

end Sys2Proof.Machine
end

section
/-! SUPPORT. The failure of a block without a bit in the map (R64): a FATAL record in a free window of the PKG page, with the
error log off. -/

namespace Sys2Proof.Machine

/-! ## What memory reads, from the parts of the state that hold it -/

theorem State.liveLine_congr {s t : State} (h : t.coh = s.coh) (l : Nat) : t.liveLine l = s.liveLine l := by
  have dirty : t.dirtyCopy l = s.dirtyCopy l := by rw [State.dirtyCopy, h, State.dirtyCopy]
  have grantee : t.granteeHas = s.granteeHas := funext fun x => by
    rw [State.granteeHas, State.outstanding, h, State.granteeHas, State.outstanding]
  have moving : t.movingData l = s.movingData l := by rw [State.movingData, h, grantee, State.movingData]
  rw [State.liveLine, dirty, moving, State.liveLine]

theorem State.rawByte_congr {s t : State} (hm : t.mem = s.mem) (hc : t.coh = s.coh) (a : Nat) : t.rawByte a = s.rawByte a := by
  rw [State.rawByte, State.liveLine_congr hc, hm, State.rawByte]

theorem State.wordErr_congr {s t : State} (he : t.errs = s.errs) (hc : t.coh = s.coh) (w : Nat) : t.wordErr w = s.wordErr w := by
  rw [State.wordErr, State.liveLine_congr hc, he, State.wordErr]

theorem State.rawNat_congr {s t : State} (hm : t.mem = s.mem) (hc : t.coh = s.coh) (a k : Nat) : t.rawNat a k = s.rawNat a k := by
  induction k generalizing a with
  | zero => rfl
  | succ k ih => rw [State.rawNat, State.rawByte_congr hm hc, ih, State.rawNat]

theorem State.memByte_congr {s t : State} (hm : t.mem = s.mem) (he : t.errs = s.errs) (hc : t.coh = s.coh) (a : Nat) :
    t.memByte a = s.memByte a := by
  simp only [State.memByte, State.useWord, State.wordErr_congr he hc, State.rawByte_congr hm hc, State.rawNat_congr hm hc]

/-- No memory changes where the parts of the state that hold memories stay. -/
theorem State.memKept_of_eq {s t : State} (hm : t.mem = s.mem) (he : t.errs = s.errs) (hc : t.coh = s.coh)
    (hs : t.spad = s.spad) (ha : t.acc = s.acc) : s.memKept t :=
  ⟨fun a _ => State.memByte_congr hm he hc a, fun k => by rw [hs], fun k => by rw [ha]⟩

theorem State.memKept.trans {s t u : State} (h : s.memKept t) (k : t.memKept u) : s.memKept u :=
  ⟨fun a ha => (k.1 a ha).trans (h.1 a ha), fun x => (k.2.1 x).trans (h.2.1 x), fun x => (k.2.2 x).trans (h.2.2 x)⟩

theorem State.memKept.setReg {s t : State} (h : s.memKept t) {r : Reg} {v : Word} : s.memKept (t.setReg r v) :=
  h.trans (State.memKept_of_eq rfl rfl rfl rfl rfl)

theorem State.memKept.raise {s t : State} (h : s.memKept t) {p : Page} {i b : Nat} : s.memKept (t.raise p i b) :=
  h.trans (State.memKept_of_eq (t.raise_mem p i b) (t.raise_errs p i b) (t.raise_coh p i b) (t.raise_spad p i b)
    (t.raise_acc p i b))

theorem State.memKept.withPlat {s t : State} (h : s.memKept t) {x : Platform} : s.memKept { t with plat := x } :=
  h.trans (State.memKept_of_eq rfl rfl rfl rfl rfl)

theorem State.reg_withPlat (s : State) (x : Platform) (r : Reg) : { s with plat := x }.reg r = s.reg r := rfl

theorem State.fld_withPlat (s : State) (x : Platform) (r : Reg) (f : Fld) : { s with plat := x }.fld r f = s.fld r f := rfl

/-! ## A FATAL record -/

/-- The four words of a record in the PKG window. -/
def State.pkgWindow (s : State) (w0 w1 w2 w3 : Word) : State :=
  (((s.setReg (R.errRec .pkg 0 0) w0).setReg (R.errRec .pkg 0 1) w1).setReg (R.errRec .pkg 0 2) w2).setReg (R.errRec .pkg 0 3) w3

theorem State.reg_pkgWindow_ne (s : State) (w0 w1 w2 w3 : Word) (r : Reg)
    (h : r ∉ [R.errRec .pkg 0 0, R.errRec .pkg 0 1, R.errRec .pkg 0 2, R.errRec .pkg 0 3]) :
    (s.pkgWindow w0 w1 w2 w3).reg r = s.reg r := by
  simp only [List.mem_cons, List.not_mem_nil, or_false, not_or] at h
  obtain ⟨h0, h1, h2, h3⟩ := h
  rw [State.pkgWindow, State.reg_setReg_ne _ _ _ _ h3, State.reg_setReg_ne _ _ _ _ h2, State.reg_setReg_ne _ _ _ _ h1,
    State.reg_setReg_ne _ _ _ _ h0]

theorem State.reg_pkgWindow_first (s : State) (w0 w1 w2 w3 : Word) :
    (s.pkgWindow w0 w1 w2 w3).reg (R.errRec .pkg 0 0) = w0 := by
  rw [State.pkgWindow, State.reg_setReg_ne _ _ _ _ (by decide), State.reg_setReg_ne _ _ _ _ (by decide),
    State.reg_setReg_ne _ _ _ _ (by decide), State.reg_setReg_same]

/-- The record of a failed block without a bit in the map (R64). -/
def failedRec (loc : Loc) : ErrRec := { page := .pkg, inst := 0, sev := 3, code := 0x23, loc := loc }

/-- The first word of that record. -/
def failedWord (loc : Loc) : Word := BitVec.ofNat 64 (1 + 3 * 4 + 0x23 * 16 + loc.toNat * 2 ^ 16 + 2 ^ 48)

/-- The state with that record in the PKG window. -/
def State.failedWindow (s : State) (loc : Loc) : State := s.pkgWindow (failedWord loc) 0 0 (s.nowAt 4)

theorem State.windowPut_failed (s : State) (loc : Loc) (hv : s.fld (R.errRec .pkg 0 0) F.errQ0_VALID = 0) :
    s.windowPut (failedRec loc) ((failedRec loc).words (s.nowAt 4)) = (s.failedWindow loc).raise .pkg 0 63 := by
  have words : (failedRec loc).words (s.nowAt 4) = [failedWord loc, 0, 0, s.nowAt 4] := by
    simp [ErrRec.words, failedRec, failedWord, bitNat]
  have free : F.errQ0_VALID.get (s.reg (R.errRec (failedRec loc).page (failedRec loc).inst 0)) = 0 := hv
  rw [State.windowPut, if_pos free, words]
  rfl

/-- The record enters the free PKG window and sets ERR_REC and FATAL; with the log off it goes no further. -/
theorem State.record_failed (s : State) (loc : Loc) (hv : s.fld (R.errRec .pkg 0 0) F.errQ0_VALID = 0)
    (he : s.bit R.pkgElogCfg F.pkgElogCfg_EN = false) :
    s.record (failedRec loc) = ((s.failedWindow loc).raise .pkg 0 63).raise .pkg 0 18 := by
  have off : ((s.failedWindow loc).raise .pkg 0 63).bit R.pkgElogCfg F.pkgElogCfg_EN = false := by
    rw [State.bit, State.fld, State.reg_raise_ne _ _ _ _ _ (by decide), State.failedWindow,
      State.reg_pkgWindow_ne _ _ _ _ _ _ (by decide)]
    exact he
  have put : s.windowPut (failedRec loc) ((failedRec loc).words (s.nowAt ((failedRec loc).page.dieOf (failedRec loc).inst)))
      = (s.failedWindow loc).raise .pkg 0 63 := s.windowPut_failed loc hv
  rw [State.record, put, State.elogAppend, off]
  simp [failedRec]

theorem failedWord_toNat (loc : Loc) : (failedWord loc).toNat = 1 + 3 * 4 + 0x23 * 16 + loc.toNat * 2 ^ 16 + 2 ^ 48 := by
  have := loc.isLt
  rw [failedWord, BitVec.toNat_ofNat]; omega

theorem failedWord_fields (loc : Loc) : F.errQ0_VALID.get (failedWord loc) = 1 ∧ F.errQ0_CODE.get (failedWord loc) = 0x23
    ∧ F.errQ0_LOC.get (failedWord loc) = loc.toNat := by
  have := loc.isLt
  simp only [Fld.get, Fld.width, failedWord_toNat]
  omega

/-- The state after that record has entered the window, with ERR_REC and FATAL set. -/
def State.failedRecorded (s : State) (loc : Loc) : State := ((s.failedWindow loc).raise .pkg 0 63).raise .pkg 0 18

theorem State.failedRecorded_first (s : State) (loc : Loc) :
    (s.failedRecorded loc).reg (R.errRec .pkg 0 0) = failedWord loc := by
  rw [State.failedRecorded, State.reg_raise_ne _ _ _ _ _ (by decide), State.reg_raise_ne _ _ _ _ _ (by decide),
    State.failedWindow, State.reg_pkgWindow_first]

theorem State.failedRecorded_fatal (s : State) (loc : Loc) :
    (s.failedRecorded loc).fld (R.irqSts .pkg 0) ⟨18, 18⟩ = 1 := State.irq_raise _ _ _ _ (by decide)

/-- Of the registers the record changes the window and IRQ_STS of the PKG page only. -/
theorem State.failedRecorded_onlyRegs (s : State) (loc : Loc) :
    s.onlyRegs (s.failedRecorded loc)
      [R.errRec .pkg 0 0, R.errRec .pkg 0 1, R.errRec .pkg 0 2, R.errRec .pkg 0 3, R.irqSts .pkg 0] := by
  intro r hr
  have hw : r ∉ [R.errRec .pkg 0 0, R.errRec .pkg 0 1, R.errRec .pkg 0 2, R.errRec .pkg 0 3] := fun h =>
    hr (List.mem_append_left [R.irqSts .pkg 0] h)
  have hi : r ≠ R.irqSts .pkg 0 := fun h => hr (by simp [h])
  rw [State.failedRecorded, State.reg_raise_ne _ _ _ _ _ hi, State.reg_raise_ne _ _ _ _ _ hi, State.failedWindow,
    State.reg_pkgWindow_ne _ _ _ _ _ _ hw]

theorem State.failedRecorded_memKept (s : State) (loc : Loc) : s.memKept (s.failedRecorded loc) :=
  have refl : s.memKept s := State.memKept_of_eq rfl rfl rfl rfl rfl
  refl.setReg.setReg.setReg.setReg.raise.raise

/-! ## BLOCK_FAILED -/

/-- A block put among those that have failed is one of them. -/
theorem contains_insertBy (loc : Loc) (locs : List Loc) :
    (insertBy (fun a b => decide (a.toNat ≤ b.toNat)) loc locs).contains loc = true := by
  rw [insertBy_eq_orderedInsert, List.contains_iff_mem]
  exact (List.mem_orderedInsert _).mpr (Or.inl rfl)

/-- BLOCK_FAILED of a block that the map does not list, the PKG window free and the log off: the record, and the block among
those that have failed. -/
theorem execBlockFailed_eq (s : State) (loc : Loc) (hr : s.running = true) (hu : unmappedBlock loc = true)
    (hv : s.fld (R.errRec .pkg 0 0) F.errQ0_VALID = 0) (he : s.bit R.pkgElogCfg F.pkgElogCfg_EN = false) :
    ∃ x : Platform, execBlockFailed loc s = .next { s.failedRecorded loc with plat := x } ∧ x.broken.contains loc = true := by
  have record := s.record_failed loc hv he
  rw [failedRec, ← State.failedRecorded] at record
  rw [execBlockFailed, hr, hu, record]
  exact ⟨_, rfl, contains_insertBy loc _⟩

end Sys2Proof.Machine
end

section
/-! SUPPORT. The statement about the availability map, settled. -/

namespace Sys2Proof.Machine

/-- Settles O13: each clause by the form the command takes. The events of a cycle are a fold in ascending order, of which
each step withdraws its block for good and counts in GEN, and the last step is that of the highest code. -/
theorem availabilityChanges : Obligations.AvailabilityChanges := by
  unfold Obligations.AvailabilityChanges
  refine ⟨fun s locs hrun hopen => ?_, fun s a loc b hd hf hb hr ha hopen => ?_, fun s loc hrun hu hv he => ?_⟩
  · have perm := eventsOf_ascending_perm s locs
    refine ⟨_, execAvailabilityEvent_eq s locs hrun, fun loc hl b hb => ?_, ?_, fun hne => ?_, fun loc hl hmax => ?_,
      fun hnil => ?_⟩
    · have w := s.foldl_failBlock_withdrawn _ loc b hopen (perm.mem_iff.mpr hl) hb
      exact ⟨w.block, w.units, w.clusters, fun r _ hr => w.regions r hr⟩
    · rw [s.foldl_failBlock_gen _ (fun _ => mem_eventsOf_map), perm.length_eq]
    · obtain ⟨init, last, b, hcat, hb, -, -⟩ := exists_last_event s locs hne
      rw [hcat]
      exact (s.foldl_failBlock_last init last b hb).2
    · obtain ⟨init, last, b, hcat, hb, hlast, unique⟩ := exists_last_event s locs (List.ne_nil_of_mem hl)
      rw [hcat, unique loc hl (hmax last hlast)]
      exact (s.foldl_failBlock_last init last b hb).1
    · rw [(perm.trans (hnil ▸ .nil)).eq_nil, List.foldl_nil]
  · exact ⟨_, execAvailRetire_eq s a loc b hd hf hb hr ha,
      (State.availEvent_withdrawn _ b loc 4 ((State.mapOpen_setFld _ _ _ _).trans hopen)).block,
      State.availEvent_lastLoc _ b loc 4, State.availEvent_lastCause _ b loc 4 (by decide), State.availEvent_availChg _ b loc 4⟩
  · obtain ⟨x, next, failed⟩ := execBlockFailed_eq s loc hrun hu hv he
    obtain ⟨valid, code, place⟩ := failedWord_fields loc
    have window : ∀ f, { s.failedRecorded loc with plat := x }.fld (R.errRec .pkg 0 0) f = f.get (failedWord loc) := fun f => by
      rw [State.fld_withPlat, State.fld, State.failedRecorded_first]
    refine ⟨_, next, failed, (window _).trans valid, (window _).trans code, (window _).trans place,
      (State.fld_withPlat _ x _ _).trans (s.failedRecorded_fatal loc), fun r hr => ?_, (s.failedRecorded_memKept loc).withPlat⟩
    exact (State.reg_withPlat _ x r).trans (s.failedRecorded_onlyRegs loc r hr)

end Sys2Proof.Machine
end

section
/-! SUPPORT. What an error record keeps (R586 to R589, R597): a property that changes of memory, of the coherence protocol's
state and of the registers of the log, the injections and IRQ_STS do not touch is kept by a write at its home, by an entry of
the log and by a record after its window. The window is valid after every record. -/

namespace Sys2Proof.Machine

/-- The registers that the package error log, and the home writes it makes, may write, but for IRQ_STS. -/
def logReg (r : Reg) : Bool := [RegName.inj, .pkgElogTail, .pkgElogLost].contains r.name

/-- A property of the state that no entry of the error log touches: it is kept by a change of memory, of its damage and of the
coherence protocol's state, by a write of a register of `logReg`, and by raising a bit of IRQ_STS. -/
structure LogStable (P : State → Prop) : Prop where
  memory : ∀ s m e c, P s → P { s with mem := m, errs := e, coh := c }
  setReg : ∀ s r v, logReg r = true → P s → P (s.setReg r v)
  raise : ∀ s p i b, P s → P (s.raise p i b)

namespace LogStable

variable {P : State → Prop} {s : State}

theorem foldl {α : Type} {f : State → α → State} {l : List α} (h : P s) (hf : ∀ t a, P t → P (f t a)) :
    P (l.foldl f s) := List.foldlRecOn l f h (fun t ht a _ => hf t a ht)

/-! ## Writes at the home -/

theorem setErr (k : LogStable P) (h : P s) {w : Nat} {m : BitVec 72} : P (s.setErr w m) := k.memory s s.mem _ s.coh h

theorem withErrs (k : LogStable P) (h : P s) {e : List (Nat × BitVec 72)} : P { s with errs := e } :=
  k.memory s s.mem e s.coh h

theorem putBytes (k : LogStable P) (h : P s) {pa : Nat} {bs : List Byte} : P (s.putBytes pa bs) := by
  induction bs generalizing s pa with
  | nil => exact h
  | cons b bs ih => exact ih (k.memory s _ s.errs s.coh h)

theorem injFired (k : LogStable P) (h : P s) {p : Page} {i : Nat} : P (s.injFired p i) := by
  unfold State.injFired
  split
  · exact h
  · exact k.setReg _ _ _ rfl h

theorem strikeWords (k : LogStable P) (h : P s) {p : Page} {i : Nat} {ws : List Nat} : P (s.strikeWords p i ws) := by
  unfold State.strikeWords
  exact k.injFired (foldl h (fun _ _ h => k.setErr h))

theorem writeLineBack (k : LogStable P) (h : P s) {l : Nat} {d : LineData} : P (s.writeLineBack l d) := by
  unfold State.writeLineBack
  split
  · exact h
  extract_lets s1 s2 s3
  have h3 : P s3 := foldl (k.withErrs (k.putBytes h)) (fun _ _ h => k.setErr h)
  split
  · exact k.strikeWords h3
  · exact h3

theorem cutTxn (k : LogStable P) (h : P s) {x : Txn} : P (s.cutTxn x) := by
  unfold State.cutTxn
  extract_lets line out s1
  have h1 : P s1 := by
    show P (match x.phase, out with
      | .granted, some o => s.writeLineBack line (o.written (s.homeData line))
      | _, _ => s)
    split
    · exact k.writeLineBack h
    · exact h
  exact k.memory s1 s1.mem s1.errs _ h1

theorem recallLine (k : LogStable P) (h : P s) {l : Nat} : P (s.recallLine l) := by
  unfold State.recallLine
  extract_lets s1 s2
  have h1 : P s1 := by
    show P (match s.liveLine l with
      | some d => s.writeLineBack l d
      | none => s)
    split
    · exact k.writeLineBack h
    · exact h
  have h2 : P s2 := by
    show P (match s1.coh.txns.find? (fun (t : Txn) => t.subject == l) with
      | some t => s1.cutTxn t
      | none => s1)
    split
    · exact k.cutTxn h1
    · exact h1
  exact k.memory s2 s2.mem s2.errs _ h2

theorem mendWord (k : LogStable P) (h : P s) {w : Nat} : P (s.mendWord w) := by
  unfold State.mendWord
  split
  · exact k.setErr (k.putBytes h)
  · exact h

theorem homeWrite (k : LogStable P) (h : P s) {pa : Nat} {bs : List Byte} : P (s.homeWrite pa bs) := by
  have recalled : P ((linesOf pa bs.length).foldl State.recallLine s) := foldl h (fun _ _ h => k.recallLine h)
  exact k.withErrs (k.putBytes (foldl recalled (fun _ _ h => k.mendWord h)))

/-! ## The log and the record -/

theorem elogLose (k : LogStable P) (h : P s) : P s.elogLose := k.raise _ _ _ _ (k.setReg _ _ _ rfl h)

theorem elogAppend (k : LogStable P) (h : P s) {ws : List Word} : P (s.elogAppend ws) := by
  unfold State.elogAppend
  extract_lets tail head a
  split
  · split
    · exact k.elogLose h
    · split
      · exact k.elogLose h
      · exact k.raise _ _ _ _ (k.setReg _ _ _ rfl (foldl h (fun _ _ h => k.homeWrite h)))
  · exact h

/-- After its window a record changes nothing but the log and IRQ_STS. -/
theorem record (k : LogStable P) {r : ErrRec}
    (h : P (s.windowPut r (r.words (s.nowAt (r.page.dieOf r.inst))))) : P (s.record r) := by
  unfold State.record
  extract_lets ws entered s1 s2
  have h2 : P s2 := by
    show P (if _ then _ else _)
    split
    · exact k.elogAppend h
    · exact h
  split
  · exact k.raise _ _ _ _ h2
  · exact h2

end LogStable

/-! ## The store's state and the window under a record -/

theorem State.windowPut_rep (s : State) (r : ErrRec) (ws : List Word) : (s.windowPut r ws).rep = s.rep := by
  unfold State.windowPut
  extract_lets q0
  split
  · exact (State.raise_rep _ _ _ _).trans
      (LogStable.foldl (P := fun t => t.rep = s.rep) rfl (fun t _ h => (t.setReg_rep _ _).trans h))
  · split
    · exact s.satFld_rep _ _ _
    · exact s.setFld_rep _ _ _

/-- A record leaves the state of the store and of the links as it is. -/
theorem State.record_rep (s : State) (r : ErrRec) : (s.record r).rep = s.rep :=
  LogStable.record (P := fun t => t.rep = s.rep)
    { memory := fun _ _ _ _ h => h, setReg := fun _ _ _ _ h => h, raise := fun t p i b h => (t.raise_rep p i b).trans h }
    (s.windowPut_rep r _)

theorem ErrRec.words_valid (r : ErrRec) (now : Word) :
    ∃ w0 w1 w2 w3, r.words now = [w0, w1, w2, w3] ∧ F.errQ0_VALID.get w0 = 1 := by
  refine ⟨_, _, _, _, rfl, ?_⟩
  simp only [Fld.get, Fld.width, BitVec.toNat_ofNat]
  omega

theorem State.windowPut_valid (s : State) (r : ErrRec) (now : Word) :
    (s.windowPut r (r.words now)).fld (R.errRec r.page r.inst 0) F.errQ0_VALID = 1 := by
  obtain ⟨w0, w1, w2, w3, hw, valid⟩ := r.words_valid now
  have ne : ∀ k, k ≠ 0 → R.errRec r.page r.inst 0 ≠ R.errRec r.page r.inst k := fun k hk e => hk (congrArg Reg.idx e).symm
  rw [State.windowPut, hw]
  by_cases free : F.errQ0_VALID.get (s.reg (R.errRec r.page r.inst 0)) = 0
  · rw [if_pos free, State.fld, State.reg_raise_ne _ _ _ _ _ (fun e => by cases congrArg Reg.name e)]
    simp only [List.zipIdx_cons, List.zipIdx_nil, List.foldl_cons, List.foldl_nil]
    rw [State.reg_setReg_ne _ _ _ _ (ne _ (by decide)), State.reg_setReg_ne _ _ _ _ (ne _ (by decide)),
      State.reg_setReg_ne _ _ _ _ (ne _ (by decide)), State.reg_setReg_same]
    exact valid
  · have held : s.fld (R.errRec r.page r.inst 0) F.errQ0_VALID = 1 := by
      have lt : F.errQ0_VALID.get (s.reg (R.errRec r.page r.inst 0)) < 2 := Nat.mod_lt _ (by decide)
      rw [State.fld]; omega
    rw [if_neg free]
    split
    · exact (State.fld_setFld_apart _ _ _ _ _ rfl rfl rfl).trans held
    · exact (State.fld_setFld_apart _ _ _ _ _ rfl rfl rfl).trans held

/-- After every record its page window holds a record (R587). -/
theorem State.record_valid (s : State) (r : ErrRec) :
    (s.record r).fld (R.errRec r.page r.inst 0) F.errQ0_VALID = 1 :=
  LogStable.record (P := fun t => t.fld (R.errRec r.page r.inst 0) F.errQ0_VALID = 1)
    { memory := fun _ _ _ _ h => h
      setReg := fun t q v hq h => by
        have hne : R.errRec r.page r.inst 0 ≠ q := fun e => Bool.noConfusion (hq.symm.trans (e ▸ rfl : logReg q = false))
        rwa [State.fld, State.reg_setReg_ne _ _ _ _ hne]
      raise := fun t p i b h => by
        rwa [State.fld, State.reg_raise_ne _ _ _ _ _ (fun e => by cases congrArg Reg.name e)] }
    (s.windowPut_valid r _)

end Sys2Proof.Machine
end

section
/-! SUPPORT. The fixative store (R549 to R563): a write that its rule lets through, one that it does not, and what the end of
programming does to the value, the wear and the counts. -/

namespace Sys2Proof.Machine

/-! ## Bits, and what memory and a store register read -/

/-- A bit set reads 1. -/
theorem State.regBit_setBit_true (s : State) (r : Reg) (i : Nat) (h : i < 64) : (s.setBit r i true).regBit r i = true := by
  have one : Fld.get ⟨i, i⟩ ((s.setBit r i true).reg r) = 1 := by
    rw [State.setBit, State.reg_setFld_same, Fld.get_put _ (by simp [Fld.ok, h])]
    simp [Fld.width, bitNat]
  simpa [State.regBit, natBit, Fld.get, Fld.width] using one

theorem State.storeRead_congr {s t : State} {i : Nat} (he : t.errs = s.errs) (hr : t.reg (R.fixStore i) = s.reg (R.fixStore i)) :
    t.storeRead i = s.storeRead i := by
  have err : t.storeErr i = s.storeErr i := by rw [State.storeErr, he, State.storeErr]
  rw [State.storeRead, State.storeUE, err, hr]
  rfl

/-- A byte reads the same where only another word's damage changes. -/
theorem State.memByte_setErr_ne (s : State) (w a : Nat) (m : BitVec 72) (h : a / 8 ≠ w) :
    (s.setErr w m).memByte a = s.memByte a := by
  have err : (s.setErr w m).wordErr (a / 8) = s.wordErr (a / 8) := by
    rw [State.wordErr, State.liveLine_congr (s.setErr_coh w m), State.setErr, Sparse.get_set, if_neg h, State.wordErr]
  simp only [State.memByte, State.useWord, err, State.rawByte_congr (s.setErr_mem w m) (s.setErr_coh w m),
    State.rawNat_congr (s.setErr_mem w m) (s.setErr_coh w m)]

theorem State.memKept.refl (s : State) : s.memKept s := State.memKept_of_eq rfl rfl rfl rfl rfl

/-- The damage of a store register is no damage of memory: its key lies above every word of memory. -/
theorem State.memKept.setErr_store {s t : State} (h : s.memKept t) {i : Nat} {m : BitVec 72} :
    s.memKept (t.setErr (storeErrKey i) m) := by
  refine h.trans ⟨fun a ha => t.memByte_setErr_ne _ a m ?_, fun _ => rfl, fun _ => rfl⟩
  rw [storeErrKey]
  omega

theorem State.memKept.withRep {s t : State} (h : s.memKept t) {x : Repair} : s.memKept { t with rep := x } :=
  h.trans (State.memKept_of_eq rfl rfl rfl rfl rfl)

theorem State.memKept.withSec {s t : State} (h : s.memKept t) {x : Security} : s.memKept { t with sec := x } :=
  h.trans (State.memKept_of_eq rfl rfl rfl rfl rfl)

/-! ## The cadence hour (R562) -/

theorem State.hourRoll_cases (s : State) : s.hourRoll = s
    ∨ s.hourRoll = { s.setFld R.fixHourCnt F.fixHourCnt_COUNT 0 with rep := { s.rep with hour := s.hourNow } } := by
  rw [State.hourRoll]
  split
  · exact .inl rfl
  · exact .inr rfl

@[simp] theorem State.hourRoll_errs (s : State) : s.hourRoll.errs = s.errs := by
  unfold State.hourRoll; split <;> rfl
@[simp] theorem State.hourRoll_plat (s : State) : s.hourRoll.plat = s.plat := by
  unfold State.hourRoll; split <;> rfl
@[simp] theorem State.hourRoll_jobs (s : State) : s.hourRoll.rep.jobs = s.rep.jobs := by
  unfold State.hourRoll; split <;> rfl

theorem State.reg_hourRoll_ne (s : State) (r : Reg) (h : r ≠ R.fixHourCnt) : s.hourRoll.reg r = s.reg r := by
  rcases s.hourRoll_cases with e | e
  · rw [e]
  · rw [e]
    exact State.reg_setFld_ne _ _ _ _ _ h

theorem State.memKept.hourRoll {s t : State} (h : s.memKept t) : s.memKept t.hourRoll := by
  rcases t.hourRoll_cases with e | e
  · rwa [e]
  · rw [e]
    exact h.setReg.withRep

/-! ## Only listed registers change -/

theorem State.changesOnly.trans {s t u : State} {rs qs : List Reg} (h : s.changesOnly t rs) (k : t.changesOnly u qs) :
    s.changesOnly u (qs ++ rs) :=
  ⟨fun r hr => (k.1 r (fun m => hr (List.mem_append_left rs m))).trans (h.1 r (fun m => hr (List.mem_append_right qs m))),
    h.2.trans k.2⟩

theorem State.changesOnly.mono {s t : State} {rs qs : List Reg} (h : s.changesOnly t rs) (sub : rs ⊆ qs) : s.changesOnly t qs :=
  ⟨fun r hr => h.1 r (fun m => hr (sub m)), h.2⟩

/-- A change of one register changes it only. -/
theorem State.changesOnly_setFld (s : State) (r : Reg) (f : Fld) (n : Nat) : s.changesOnly (s.setFld r f n) [r] :=
  ⟨fun q hq => State.reg_setFld_ne _ _ _ _ _ (by simpa using hq), (State.memKept.refl s).setReg⟩

/-- A change of the state of the store and of the links changes no register. -/
theorem State.changesOnly_withRep (s : State) (x : Repair) : s.changesOnly { s with rep := x } [] :=
  ⟨fun _ _ => rfl, (State.memKept.refl s).withRep⟩

theorem State.hourRoll_changesOnly (s : State) : s.changesOnly s.hourRoll [R.fixHourCnt] :=
  ⟨fun r hr => s.reg_hourRoll_ne r (by simpa using hr), (State.memKept.refl s).hourRoll⟩

/-! ## Writes (R551, R552) -/

/-- A write that its rule lets through is accepted. -/
theorem State.storeWrite_allowed (s : State) (a : Agent) (i : Nat) (v : Word) (ha : (storeRule i).allows a = true)
    (hf : storeRule i = .floor → (s.storeRead i).toNat ≤ v.toNat) : s.storeWrite a i v = s.storeAccept i v (agentLoc a) := by
  have floor : ¬(storeRule i = .floor ∧ v.toNat < (s.storeRead i).toNat) := fun h => Nat.not_lt.mpr (hf h.1) h.2
  simp [State.storeWrite, ha, floor]

/-- A write that its rule does not let through is recorded. -/
theorem State.storeWrite_denied (s : State) (a : Agent) (i : Nat) (v : Word) (ha : (storeRule i).allows a = false) :
    s.storeWrite a i v = s.fixRecord 0 1 i (agentLoc a) := by simp [State.storeWrite, ha]

theorem execFixStoreWrite_alive (s : State) (a : Agent) (i : Fin 4096) (v : Word) (hd : s.pageDead .fix 0 = false) :
    execFixStoreWrite a i v s = .next (s.storeWrite a i v) := by simp [execFixStoreWrite, hd]

/-- A write of the value that the register holds does nothing (R552). -/
theorem State.storeAccept_unchanged (s : State) (i : Nat) (v : Word) (req : Loc)
    (hw : s.bit (R.fixWear i) F.fixWear_WORN = false) (hv : s.storeValue i v = s.storeRead i) (hu : s.storeUE i = false) :
    s.storeAccept i v req = s := by simp [State.storeAccept, hw, hv, hu]

/-- The state in which a changing write has been taken in the present hour, at its time. -/
def State.storeTaken (s : State) (i : Nat) : State :=
  { s.hourRoll with rep := { s.hourRoll.rep with lastChange := insertKey s.hourRoll.rep.lastChange i s.hourRoll.now } }

/-- A changing write that no rule refuses begins to program its free bank (R553). -/
theorem State.storeAccept_changing (s : State) (i : Nat) (v : Word) (req : Loc) (hb : s.broken (locHost 3 0) = false)
    (hw : s.bit (R.fixWear i) F.fixWear_WORN = false) (hv : s.storeValue i v ≠ s.storeRead i)
    (hr : s.hourRoll.storeRateHit i = false) (hj : lookupKey s.rep.jobs (i / 256) = none) :
    s.storeAccept i v req = (s.storeTaken i).beginProgram i (s.storeValue i v) := by
  simp [State.storeAccept, State.storeTaken, hb, hw, hv, hr, hj]

/-- A bank that begins to program changes FIX.STS and no memory. -/
theorem State.beginProgram_changesOnly (s : State) (i : Nat) (v : Word) : s.changesOnly (s.beginProgram i v) [R.fixSts] :=
  (s.changesOnly_withRep _).trans (State.changesOnly_setFld _ _ _ _)

theorem State.storeTaken_changesOnly (s : State) (i : Nat) : s.changesOnly (s.storeTaken i) [R.fixHourCnt] :=
  s.hourRoll_changesOnly.trans (State.changesOnly_withRep _ _)

/-! ## The wear counter (R560, R561) -/

/-- The value of a store register is held, and free of damage. -/
def State.storeHeld (s : State) (i : Nat) (v : Word) : State := (s.setReg (R.fixStore i) v).setErr (storeErrKey i) 0

/-- The wear of a store register after one write more, as its counter holds it. -/
def State.wearNext (s : State) (i : Nat) : Nat :=
  (s.addFld (R.fixWear i) F.fixWear_COUNT 1).fld (R.fixWear i) F.fixWear_COUNT

/-- The wear counter of a store register counts one write, and sets WORN at the last one. -/
def State.wearCounted (s : State) (i : Nat) : State :=
  let t := s.addFld (R.fixWear i) F.fixWear_COUNT 1
  if s.wearNext i = wornAt then t.setFld (R.fixWear i) F.fixWear_WORN 1 else t

/-- Wear that has reached FIX.CTL.WARN sets WEAR_HIGH. -/
def State.wearWarned (s : State) (wear : Nat) : State :=
  if wear = s.fld R.fixCtl F.fixCtl_WARN then s.raise .fix 0 1 else s

/-- A changing write is counted in WRITES and in the present hour. -/
def State.writeCounted (s : State) : State :=
  (s.addFld R.fixWrites F.fixWrites_COUNT 1).hourRoll.addFld R.fixHourCnt F.fixHourCnt_COUNT 1

theorem State.wearNext_eq (s : State) (i : Nat) : s.wearNext i = (s.fld (R.fixWear i) F.fixWear_COUNT + 1) % 2 ^ 18 :=
  State.fld_setFld_same _ _ _ _ rfl

/-- Setting WORN leaves the count alone. -/
theorem State.wearCounted_count (s : State) (i : Nat) :
    (s.wearCounted i).fld (R.fixWear i) F.fixWear_COUNT = s.wearNext i := by
  rw [State.wearCounted]
  split
  · exact State.fld_setFld_apart _ _ _ _ _ rfl rfl rfl
  · rfl

/-- The last write that a register performs leaves it WORN. -/
theorem State.wearCounted_worn (s : State) (i : Nat) (h : s.wearNext i = wornAt) :
    (s.wearCounted i).fld (R.fixWear i) F.fixWear_WORN = 1 := by
  rw [State.wearCounted, if_pos h]
  exact State.fld_setFld_same _ _ _ _ rfl

theorem State.wearCounted_changesOnly (s : State) (i : Nat) : s.changesOnly (s.wearCounted i) [R.fixWear i] := by
  have add := s.changesOnly_setFld (R.fixWear i) F.fixWear_COUNT (s.fld (R.fixWear i) F.fixWear_COUNT + 1)
  rw [State.wearCounted]
  split
  · exact (add.trans (State.changesOnly_setFld _ _ _ _)).mono (by simp)
  · exact add

theorem State.wearWarned_high (s : State) (wear : Nat) (h : wear = s.fld R.fixCtl F.fixCtl_WARN) :
    (s.wearWarned wear).fld (R.irqSts .fix 0) ⟨1, 1⟩ = 1 := by
  rw [State.wearWarned, if_pos h]
  exact s.irq_raise .fix 0 1 (by decide)

theorem State.wearWarned_changesOnly (s : State) (wear : Nat) : s.changesOnly (s.wearWarned wear) [R.irqSts .fix 0] := by
  rw [State.wearWarned]
  split
  · exact ⟨fun r hr => State.reg_raise_ne _ _ _ _ _ (by simpa using hr), (State.memKept.refl s).raise⟩
  · exact ⟨fun _ _ => rfl, State.memKept.refl s⟩

theorem State.writeCounted_changesOnly (s : State) : s.changesOnly s.writeCounted [R.fixHourCnt, R.fixWrites] :=
  (((s.changesOnly_setFld _ _ _).trans (State.hourRoll_changesOnly _)).trans (State.changesOnly_setFld _ _ _ _)).mono (by simp)

theorem State.writeCounted_writes (s : State) : s.writeCounted.reg R.fixWrites = s.reg R.fixWrites + 1 := by
  have whole : ∀ w : Word, F.fixWrites_COUNT.put w (F.fixWrites_COUNT.get w + 1) = w + 1 := fun w => by
    apply BitVec.eq_of_toNat_eq
    have lt := w.isLt
    rw [Fld.put_toNat _ rfl]
    simp [Fld.get, Fld.width, Nat.mod_one, Nat.div_eq_of_lt lt, Nat.mod_eq_of_lt lt]
  calc s.writeCounted.reg R.fixWrites
      = (s.addFld R.fixWrites F.fixWrites_COUNT 1).hourRoll.reg R.fixWrites := State.reg_setFld_ne _ _ _ _ _ (by decide)
    _ = (s.addFld R.fixWrites F.fixWrites_COUNT 1).reg R.fixWrites := State.reg_hourRoll_ne _ _ (by decide)
    _ = s.reg R.fixWrites + 1 := (State.reg_setFld_same _ _ _ _).trans (whole _)

/-! ## A changing write performed -/

/-- A changing write performed, but for the measurement that it may extend. -/
def State.storePut (s : State) (i : Nat) (v : Word) : State :=
  (((s.storeHeld i v).wearCounted i).wearWarned ((s.storeHeld i v).wearNext i)).writeCounted

/-- With no injection armed, performing a write holds its value and counts it, and may extend measurement 7. -/
theorem State.storePerform_eq (s : State) (i : Nat) (v : Word) (h : s.fld (R.inj .fix 0) F.inj_ARM = 0) :
    s.storePerform i v = if 0x260 ≤ i ∧ i ≤ 0x269 then
      (s.storePut i v).measure' 7 ((s.storePut i v).storeBytesOf 0x260 10) else s.storePut i v := by
  have still : ((s.setReg (R.fixStore i) v).setErr (storeErrKey i) 0).injFires .fix 0 0 [0, 2] none = false := by
    have unarmed : F.inj_ARM.get (((s.setReg (R.fixStore i) v).setErr (storeErrKey i) 0).reg (R.inj .fix 0)) = 0 :=
      (congrArg F.inj_ARM.get (State.reg_setReg_ne s _ _ _ (fun e => by cases congrArg Reg.name e))).trans h
    rw [State.injFires, unarmed]
    rfl
  rw [State.storePerform, still]
  rfl

/-- Beyond the write and its counts, performing a write changes the security state only. -/
theorem State.storePerform_measured (s : State) (i : Nat) (v : Word) (h : s.fld (R.inj .fix 0) F.inj_ARM = 0) :
    ∃ x, s.storePerform i v = { s.storePut i v with sec := x } := by
  rw [s.storePerform_eq i v h]
  split
  · exact ⟨_, rfl⟩
  · exact ⟨(s.storePut i v).sec, rfl⟩

theorem State.storeHeld_changesOnly (s : State) (i : Nat) (v : Word) : s.changesOnly (s.storeHeld i v) [R.fixStore i] :=
  ⟨fun _ hr => State.reg_setReg_ne s _ _ _ (by simpa using hr), (State.memKept.refl s).setReg.setErr_store⟩

theorem State.storeHeld_read (s : State) (i : Nat) (v : Word) : (s.storeHeld i v).storeRead i = v := by
  have clean : (s.storeHeld i v).storeErr i = 0 := by simp [State.storeErr, State.storeHeld, State.setErr]
  rw [State.storeRead, if_pos clean]
  exact State.reg_setReg_same s _ _

/-- The wear and the counts after the value is held. -/
theorem State.storePut_counts (s : State) (i : Nat) (v : Word) : (s.storeHeld i v).changesOnly (s.storePut i v)
    [R.fixHourCnt, R.fixWrites, R.irqSts .fix 0, R.fixWear i] :=
  ((State.wearCounted_changesOnly _ i).trans (State.wearWarned_changesOnly _ _)).trans (State.writeCounted_changesOnly _)

theorem State.storePut_changesOnly (s : State) (i : Nat) (v : Word) : s.changesOnly (s.storePut i v)
    [R.fixHourCnt, R.fixWrites, R.irqSts .fix 0, R.fixWear i, R.fixStore i] :=
  (s.storeHeld_changesOnly i v).trans (s.storePut_counts i v)

/-- The damage of stored words, the platform and the banks' jobs stay. -/
structure StoreKept (s t : State) : Prop where
  errs : t.errs = s.errs
  plat : t.plat = s.plat
  jobs : t.rep.jobs = s.rep.jobs

theorem StoreKept.trans {s t u : State} (h : StoreKept s t) (k : StoreKept t u) : StoreKept s u :=
  ⟨k.errs.trans h.errs, k.plat.trans h.plat, k.jobs.trans h.jobs⟩

theorem State.wearCounted_kept (s : State) (i : Nat) : StoreKept s (s.wearCounted i) := by
  rw [State.wearCounted]
  split
  · exact ⟨by simp, by simp, by simp⟩
  · exact ⟨by simp, by simp, by simp⟩

theorem State.wearWarned_kept (s : State) (wear : Nat) : StoreKept s (s.wearWarned wear) := by
  rw [State.wearWarned]
  split
  · exact ⟨s.raise_errs _ _ _, s.raise_plat _ _ _, congrArg Repair.jobs (s.raise_rep _ _ _)⟩
  · exact ⟨rfl, rfl, rfl⟩

theorem State.writeCounted_kept (s : State) : StoreKept s s.writeCounted :=
  ⟨State.hourRoll_errs _, State.hourRoll_plat _, State.hourRoll_jobs _⟩

theorem State.storePut_kept (s : State) (i : Nat) (v : Word) : StoreKept (s.storeHeld i v) (s.storePut i v) :=
  ((State.wearCounted_kept _ i).trans (State.wearWarned_kept _ _)).trans (State.writeCounted_kept _)

/-- The register reads the value performed. -/
theorem State.storePut_read (s : State) (i : Nat) (v : Word) : (s.storePut i v).storeRead i = v :=
  (State.storeRead_congr (s.storePut_kept i v).errs ((s.storePut_counts i v).1 _ (by simp))).trans (s.storeHeld_read i v)

theorem State.storePut_wear (s : State) (i : Nat) (v : Word) (f : Fld) :
    (s.storePut i v).fld (R.fixWear i) f = ((s.storeHeld i v).wearCounted i).fld (R.fixWear i) f := by
  have later := (State.wearWarned_changesOnly ((s.storeHeld i v).wearCounted i) ((s.storeHeld i v).wearNext i)).trans
    (State.writeCounted_changesOnly _)
  rw [State.fld, State.storePut, later.1 _ (by simp), State.fld]

theorem State.storeHeld_wearNext (s : State) (i : Nat) (v : Word) :
    (s.storeHeld i v).wearNext i = (s.fld (R.fixWear i) F.fixWear_COUNT + 1) % 2 ^ 18 := by
  rw [State.wearNext_eq, State.fld, (s.storeHeld_changesOnly i v).1 _ (by simp), State.fld]

theorem State.storePut_count (s : State) (i : Nat) (v : Word) : (s.storePut i v).fld (R.fixWear i) F.fixWear_COUNT
    = (s.fld (R.fixWear i) F.fixWear_COUNT + 1) % 2 ^ 18 := by
  rw [State.storePut_wear, State.wearCounted_count, State.storeHeld_wearNext]

theorem State.storePut_worn (s : State) (i : Nat) (v : Word) (h : s.fld (R.fixWear i) F.fixWear_COUNT + 1 = 200000) :
    (s.storePut i v).fld (R.fixWear i) F.fixWear_WORN = 1 := by
  rw [State.storePut_wear]
  exact State.wearCounted_worn _ _ ((s.storeHeld_wearNext i v).trans (by rw [h]; rfl))

/-- A wear counter that reaches FIX.CTL.WARN sets WEAR_HIGH (R561). -/
theorem State.storePut_high (s : State) (i : Nat) (v : Word)
    (h : (s.storePut i v).fld (R.fixWear i) F.fixWear_COUNT = s.fld R.fixCtl F.fixCtl_WARN) :
    (s.storePut i v).fld (R.irqSts .fix 0) ⟨1, 1⟩ = 1 := by
  have before := (s.storeHeld_changesOnly i v).trans (State.wearCounted_changesOnly _ i)
  have warn : ((s.storeHeld i v).wearCounted i).fld R.fixCtl F.fixCtl_WARN = s.fld R.fixCtl F.fixCtl_WARN :=
    congrArg F.fixCtl_WARN.get (before.1 _ (by simp))
  rw [State.storePut_wear, State.wearCounted_count] at h
  rw [State.fld, State.storePut, (State.writeCounted_changesOnly _).1 _ (by simp)]
  exact State.wearWarned_high _ _ (h.trans warn.symm)

theorem State.storePut_writes (s : State) (i : Nat) (v : Word) :
    (s.storePut i v).reg R.fixWrites = s.reg R.fixWrites + 1 := by
  have before := ((s.storeHeld_changesOnly i v).trans (State.wearCounted_changesOnly _ i)).trans
    (State.wearWarned_changesOnly _ ((s.storeHeld i v).wearNext i))
  rw [State.storePut, State.writeCounted_writes, before.1 _ (by simp)]

/-! ## The end of programming (R553) -/

/-- A bank that has ended its job: it has none, and FIX.STS shows it free. -/
def State.bankFreed (s : State) (b : Nat) : State :=
  { s with rep := { s.rep with jobs := eraseKey s.rep.jobs b } }.setBit R.fixSts b false

theorem State.bankFreed_changesOnly (s : State) (b : Nat) : s.changesOnly (s.bankFreed b) [R.fixSts] :=
  (s.changesOnly_withRep _).trans (State.changesOnly_setFld _ _ _ _)

/-- FIX_PROGRAM_DONE of a bank at work: the bank is free, its write performed, and the next one that waits is taken up. -/
theorem execFixProgramDone_eq (s : State) (b : Fin 16) (j : StoreJob) (hj : lookupKey s.rep.jobs b = some j)
    (hb : s.broken (locHost 3 0) = false) : execFixProgramDone b s
      = .next (((s.bankFreed b).storePerform j.idx j.value).nextProgram b (s.bankFreed b).rep.waits.length).tryOff := by
  rw [execFixProgramDone, hj]
  exact if_neg (Bool.eq_false_iff.mp hb)

theorem State.tryOff_of_not_offPrep (s : State) (h : s.plat.offPrep = false) : s.tryOff = s := by simp [State.tryOff, h]

/-- FIX_PROGRAM_DONE with no write waiting, no OFF_PREP and no injection armed: the bank is free and its write performed,
which beyond `storePut` changes the security state only. -/
theorem execFixProgramDone_measured (s : State) (b : Fin 16) (j : StoreJob) (hj : lookupKey s.rep.jobs b = some j)
    (hw : s.rep.waits = []) (ho : s.plat.offPrep = false) (hb : s.broken (locHost 3 0) = false)
    (hi : s.fld (R.inj .fix 0) F.inj_ARM = 0) :
    ∃ x, execFixProgramDone b s = .next { (s.bankFreed b).storePut j.idx j.value with sec := x } := by
  have unarmed : (s.bankFreed b).fld (R.inj .fix 0) F.inj_ARM = 0 :=
    (congrArg F.inj_ARM.get ((s.bankFreed_changesOnly b).1 _ (by simp))).trans hi
  obtain ⟨x, done⟩ := (s.bankFreed b).storePerform_measured j.idx j.value unarmed
  have none : (s.bankFreed b).rep.waits.length = 0 := congrArg List.length hw
  have off : ((s.bankFreed b).storePut j.idx j.value).plat.offPrep = false :=
    (congrArg Platform.offPrep (State.storePut_kept _ _ _).plat).trans ho
  refine ⟨x, ?_⟩
  rw [execFixProgramDone_eq s b j hj hb, none, done, State.nextProgram]
  exact congrArg _ (State.tryOff_of_not_offPrep _ off)

end Sys2Proof.Machine
end

section
/-! SUPPORT. The statement about the fixative store, settled. -/

namespace Sys2Proof.Machine

/-- Settles O57: a write by the branch of its rule, of which only the accepted and changing one occupies the bank; the end of
programming by the stages of the write it performs (value, wear, warning, counts). -/
theorem storeCommands : Obligations.StoreCommands := by
  unfold Obligations.StoreCommands
  refine ⟨fun s a i v hd ha hf hw hb hv hr hj => ?_, fun s a i v hd ha hf hw hv hu => ?_, fun s a i v hd ha => ?_,
    fun s b j hj hw ho hb hi => ?_⟩
  · have accept := (s.storeWrite_allowed a i v ha hf).trans (s.storeAccept_changing i v _ hb hw hv hr hj)
    have changes := (s.storeTaken_changesOnly i).trans (State.beginProgram_changesOnly _ i (s.storeValue i v))
    refine ⟨_, (execFixStoreWrite_alive s a i v hd).trans (congrArg _ accept), ?_, ?_, ?_, changes⟩
    · exact (lookupKey_insertKey _ _ _ _).trans (if_pos rfl)
    · exact State.regBit_setBit_true _ _ _ (by omega)
    · exact State.storeRead_congr s.hourRoll_errs (changes.1 _ (by simp))
  · exact (execFixStoreWrite_alive s a i v hd).trans
      (congrArg _ ((s.storeWrite_allowed a i v ha hf).trans (s.storeAccept_unchanged i v _ hw hv hu)))
  · refine ⟨_, (execFixStoreWrite_alive s a i v hd).trans (congrArg _ (s.storeWrite_denied a i v ha)), s.record_rep _, ?_,
      s.record_valid _⟩
    exact (TeardownFrame.refl s).record.reg _ rfl (by simp)
  · obtain ⟨x, done⟩ := execFixProgramDone_measured s b j hj hw ho hb hi
    have freed := s.bankFreed_changesOnly b
    have put := (s.bankFreed b).storePut_changesOnly j.idx j.value
    have changes : s.changesOnly ((s.bankFreed b).storePut j.idx j.value)
        [R.fixStore j.idx, R.fixWear j.idx, R.fixSts, R.fixWrites, R.fixHourCnt, R.irqSts .fix 0] :=
      (freed.trans put).mono (by simp)
    have wear : ∀ f, (s.bankFreed b).fld (R.fixWear j.idx) f = s.fld (R.fixWear j.idx) f :=
      fun f => congrArg f.get (freed.1 _ (by simp))
    have warn : (s.bankFreed b).fld R.fixCtl F.fixCtl_WARN = s.fld R.fixCtl F.fixCtl_WARN :=
      congrArg F.fixCtl_WARN.get (freed.1 _ (by simp))
    refine ⟨_, done, (s.bankFreed b).storePut_read j.idx j.value, ?_, fun last => ?_, fun reached => ?_, ?_, ?_, ?_,
      changes.1, changes.2.withSec⟩
    · exact wear _ ▸ (s.bankFreed b).storePut_count j.idx j.value
    · exact (s.bankFreed b).storePut_worn j.idx j.value (wear F.fixWear_COUNT ▸ last)
    · exact (s.bankFreed b).storePut_high j.idx j.value (reached.trans warn.symm)
    · exact ((s.bankFreed b).storePut_writes j.idx j.value).trans (congrArg (· + 1) (freed.1 _ (by simp)))
    · exact (congrArg (lookupKey · b.val) (State.storePut_kept _ _ _).jobs).trans
        ((lookupKey_eraseKey _ _ _).trans (if_pos rfl))
    · have free : (s.bankFreed b).regBit R.fixSts b = false := by simp [State.bankFreed, State.regBit_setBit_false]
      exact (congrArg (fun w : Word => natBit w.toNat b) (put.1 R.fixSts (by simp))).trans free

end Sys2Proof.Machine
end

section
/-! SUPPORT. What the security commands build on: the frame of a written register, of a raised interrupt bit and of the
security state, and the registers that an error record does not touch. -/

namespace Sys2Proof.Machine

/-! ## Only listed registers change -/

theorem State.changesOnly.refl (s : State) : s.changesOnly s [] := ⟨fun _ _ => rfl, State.memKept.refl s⟩

theorem State.changesOnly_setReg (s : State) (r : Reg) (v : Word) : s.changesOnly (s.setReg r v) [r] :=
  ⟨fun q hq => State.reg_setReg_ne _ _ _ _ (by simpa using hq), (State.memKept.refl s).setReg⟩

theorem State.changesOnly_raise (s : State) (p : Page) (i b : Nat) : s.changesOnly (s.raise p i b) [R.irqSts p i] :=
  ⟨fun q hq => State.reg_raise_ne _ _ _ _ _ (by simpa using hq), (State.memKept.refl s).raise⟩

/-- A change of the security state changes no register. -/
theorem State.changesOnly_withSec (s : State) (x : Security) : s.changesOnly { s with sec := x } [] :=
  ⟨fun _ _ => rfl, (State.memKept.refl s).withSec⟩

/-- Where the servers, keepers and wardens start is no register and no memory. -/
theorem State.changesOnly_withHost (s : State) (x : HostSt) : s.changesOnly { s with host := x } [] :=
  ⟨fun _ _ => rfl, State.memKept_of_eq rfl rfl rfl rfl rfl⟩

/-- A register that is not listed reads the same, field by field. -/
theorem State.changesOnly.fld {s t : State} {rs : List Reg} (h : s.changesOnly t rs) {r : Reg} (hr : r ∉ rs) (f : Fld) :
    t.fld r f = s.fld r f := congrArg f.get (h.1 r hr)

/-! ## One-bit fields -/

theorem State.bit_of_one {s : State} {r : Reg} {f : Fld} (h : s.fld r f = 1) : s.bit r f = true := by simp [State.bit, h]

theorem State.bit_of_zero {s : State} {r : Reg} {f : Fld} (h : s.fld r f = 0) : s.bit r f = false := by simp [State.bit, h]

/-! ## The registers that a record does not touch -/

/-- A record changes its window, the log's registers, armed injections and IRQ_STS only. -/
theorem State.reg_record_ne (s : State) (e : ErrRec) (r : Reg) (hl : logReg r = false) (he : r.name ≠ .errRec)
    (hi : r.name ≠ .irqSts) : (s.record e).reg r = s.reg r := by
  have raised : ∀ t p i b, State.reg t r = s.reg r → (t.raise p i b).reg r = s.reg r := fun t p i b h =>
    (State.reg_raise_ne t p i b r (fun e => hi (congrArg Reg.name e))).trans h
  have window : ∀ t k v, State.reg t r = s.reg r → (t.setReg (R.errRec e.page e.inst k) v).reg r = s.reg r := fun t k v h =>
    (State.reg_setReg_ne t _ r v (fun e => he (congrArg Reg.name e))).trans h
  refine LogStable.record (P := fun t => t.reg r = s.reg r)
    { memory := fun _ _ _ _ h => h
      setReg := fun t q v hq h => (State.reg_setReg_ne t q r v (fun e => by simp [← e, hl] at hq)).trans h
      raise := raised } ?_
  unfold State.windowPut
  extract_lets q0
  split
  · exact raised _ _ _ _ (LogStable.foldl (P := fun t => t.reg r = s.reg r) rfl (fun t a h => window t a.2 a.1 h))
  · split
    · exact window _ _ _ rfl
    · exact window _ _ _ rfl

end Sys2Proof.Machine
end

section
/-! SUPPORT. The end of a verification (R604, R606): the word of VERIFY_STS, what an accepted image changes, and why a warden
image that is accepted leaves WARDEN_OK valid. -/

namespace Sys2Proof.Machine

/-! ## Measurements (R616) -/

/-- A measurement register counts what it is extended by. -/
theorem State.meas_measure' (s : State) (i : Nat) (bs : List Byte) : ((s.measure' i bs).meas i).2 = (s.meas i).2 + 1 := by
  simp [State.measure', State.extend, State.meas]

theorem State.meas_congr {s t : State} (h : t.sec.meas = s.sec.meas) (i : Nat) : t.meas i = s.meas i := by
  rw [State.meas, h, State.meas]

theorem State.measure'_changesOnly (s : State) (i : Nat) (bs : List Byte) : s.changesOnly (s.measure' i bs) [] :=
  s.changesOnly_withSec _

/-! ## The checks on a header (R604) -/

theorem VResult.code_lt (r : VResult) : r.code < 16 := by cases r <;> decide

/-- A check on a header gives a reason to reject, or none. -/
theorem State.headerResult_ne_ok (s : State) (ty pay : Nat) (hdr : List Byte) : s.headerResult ty pay hdr ≠ some .ok := by
  unfold State.headerResult
  extract_lets q reserved len entry
  split_ifs <;> simp

/-- The payload of a warden image that passes the checks on its header lies on a 64 KiB boundary. -/
theorem State.headerResult_aligned {s : State} {pay : Nat} {hdr : List Byte} (h : s.headerResult 2 pay hdr = none) :
    pay % 65536 = 0 := by
  unfold State.headerResult at h
  extract_lets q reserved len entry at h
  by_contra unaligned
  have reject : len > imageMax 2 ∨ entry % 4 ≠ 0 ∨ entry ≥ len ∨ q 2 > q 1 ∨ ((2 : Nat) = 2 ∧ (entry ≠ 0 ∨ pay % 65536 ≠ 0)) :=
    .inr (.inr (.inr (.inr ⟨rfl, .inr unaligned⟩)))
  rw [if_pos reject] at h
  split_ifs at h

/-- An accepted image has passed the checks on its header. -/
theorem State.headerResult_of_accepted {s : State} {ty hdr pay : Nat} (h : (s.imageResult ty hdr pay).1 = .ok) :
    s.headerResult ty pay (s.memBytes hdr 256) = none := by
  unfold State.imageResult at h
  split at h
  · cases h
  · extract_lets bytes at h
    split at h
    · next r failed => exact absurd (failed.trans (congrArg some h)) (s.headerResult_ne_ok _ _ _)
    · next passed => exact passed

/-! ## The words written -/

/-- The word of VERIFY_STS at the end of a verification: not busy, with result, type and version. -/
def verifyWord (code type ver : Nat) : Word := BitVec.ofNat 64 (code * 2 + type * 32 + ver * 2 ^ 32)

/-- The word of WARDEN_OK for an accepted image: valid, with its length in granules and its address. -/
def wardenWord (pay : Nat) (image : List Byte) : Word :=
  BitVec.ofNat 64 (1 + ceilDiv' (image.length - 256) 65536 * 2 + pay)

theorem verifyWord_busy (code type ver : Nat) : F.secVerifySts_BUSY.get (verifyWord code type ver) = 0 := by
  simp only [Fld.get, Fld.width, verifyWord, BitVec.toNat_ofNat]
  omega

theorem verifyWord_result (code type ver : Nat) (hc : code < 16) :
    F.secVerifySts_RESULT.get (verifyWord code type ver) = code := by
  simp only [Fld.get, Fld.width, verifyWord, BitVec.toNat_ofNat]
  omega

/-- Bit 0 of WARDEN_OK is the 1 put there, for an address that is aligned. -/
theorem wardenWord_valid (pay : Nat) (image : List Byte) (h : pay % 65536 = 0) :
    F.secWardenOk_VALID.get (wardenWord pay image) = 1 := by
  simp only [Fld.get, Fld.width, wardenWord, BitVec.toNat_ofNat]
  omega

/-! ## VERIFY_DONE -/

/-- The version that VERIFY_STS shows: the low half of the header's, where the header can be read. -/
def State.shownVersion (s : State) (j : VerifyJob) : Nat :=
  if s.readable j.hdr 256 then hdrQ (s.memBytes j.hdr 256) 1 % 2 ^ 32 else 0

/-- No verification is in progress, and VERIFY_STS and the interrupt tell how the last one ended. -/
def State.verifyEnded (s : State) (j : VerifyJob) : State :=
  ({ s with sec := { s.sec with verify := none } }.setReg R.secVerifySts
    (verifyWord (s.imageResult j.type j.hdr j.pay).1.code j.type (s.shownVersion j))).raise .sec 0 0

/-- An accepted image is measured, and runs (type 3) or is named by WARDEN_OK. -/
def State.imageTaken (s : State) (j : VerifyJob) (image : List Byte) : State :=
  if j.type = 3 then (s.measure' 5 image).setFld R.secSts F.secSts_SE_RUN 1
  else (s.measure' 6 image).setReg R.secWardenOk (wardenWord j.pay image)

/-- The state after VERIFY_DONE: a rejected image has no further effect. -/
def State.verifyOutcome (s : State) (j : VerifyJob) : State :=
  if (s.imageResult j.type j.hdr j.pay).1 = .ok then (s.verifyEnded j).imageTaken j (s.imageResult j.type j.hdr j.pay).2
  else s.verifyEnded j

theorem State.verifyEnded_changesOnly (s : State) (j : VerifyJob) :
    s.changesOnly (s.verifyEnded j) [R.secVerifySts, R.irqSts .sec 0] :=
  (((s.changesOnly_withSec _).trans (State.changesOnly_setReg _ _ _)).trans (State.changesOnly_raise _ _ _ _)).mono (by simp)

theorem State.verifyEnded_sec (s : State) (j : VerifyJob) : (s.verifyEnded j).sec = { s.sec with verify := none } :=
  State.raise_sec _ _ _ _

/-- The end of a verification measures nothing. -/
theorem State.verifyEnded_meas (s : State) (j : VerifyJob) : (s.verifyEnded j).sec.meas = s.sec.meas := by
  rw [s.verifyEnded_sec j]

theorem State.verifyEnded_sts (s : State) (j : VerifyJob) : (s.verifyEnded j).reg R.secVerifySts
    = verifyWord (s.imageResult j.type j.hdr j.pay).1.code j.type (s.shownVersion j) :=
  (State.reg_raise_ne _ _ _ _ _ (by decide)).trans (State.reg_setReg_same _ _ _)

/-- The register that an accepted image of a type writes. -/
def imageReg (type : Nat) : Reg := if type = 3 then R.secSts else R.secWardenOk

theorem State.imageTaken_changesOnly (s : State) (j : VerifyJob) (image : List Byte) :
    s.changesOnly (s.imageTaken j image) [imageReg j.type] := by
  unfold State.imageTaken imageReg
  split
  · exact (s.measure'_changesOnly _ _).trans (State.changesOnly_setFld _ _ _ _)
  · exact (s.measure'_changesOnly _ _).trans (State.changesOnly_setReg _ _ _)

theorem State.imageTaken_verify (s : State) (j : VerifyJob) (image : List Byte) :
    (s.imageTaken j image).sec.verify = s.sec.verify := by
  unfold State.imageTaken
  split <;> rfl

section
variable {s : State} {j : VerifyJob}

theorem State.verifyOutcome_rejected (h : (s.imageResult j.type j.hdr j.pay).1 ≠ .ok) : s.verifyOutcome j = s.verifyEnded j :=
  if_neg h

theorem State.verifyOutcome_accepted (h : (s.imageResult j.type j.hdr j.pay).1 = .ok) :
    s.verifyOutcome j = (s.verifyEnded j).imageTaken j (s.imageResult j.type j.hdr j.pay).2 := if_pos h

variable (s j)

theorem execVerifyDone_eq (hj : s.sec.verify = some j) (hb : s.broken (locHost 4 0) = false) :
    execVerifyDone s = .next (s.verifyOutcome j) := by
  rw [execVerifyDone, hj]
  refine (if_neg (Bool.eq_false_iff.mp hb)).trans ?_
  by_cases accepted : (s.imageResult j.type j.hdr j.pay).1 = .ok
  · rw [State.verifyOutcome_accepted accepted]
    exact (if_neg (not_not_intro accepted)).trans (apply_ite Host.Outcome.next _ _ _).symm
  · rw [State.verifyOutcome_rejected accepted]
    exact if_pos accepted

/-- Beyond the end of the verification, its outcome writes the register of an accepted image only. -/
theorem State.verifyOutcome_afterEnd : (s.verifyEnded j).changesOnly (s.verifyOutcome j) [imageReg j.type] := by
  unfold State.verifyOutcome
  split
  · exact State.imageTaken_changesOnly _ j _
  · exact (State.changesOnly.refl _).mono (by simp)

theorem State.verifyOutcome_changesOnly :
    s.changesOnly (s.verifyOutcome j) [R.secVerifySts, R.irqSts .sec 0, imageReg j.type] :=
  ((s.verifyEnded_changesOnly j).trans (s.verifyOutcome_afterEnd j)).mono (by simp)

theorem State.verifyOutcome_verify : (s.verifyOutcome j).sec.verify = none := by
  have ended : (s.verifyEnded j).sec.verify = none := congrArg Security.verify (s.verifyEnded_sec j)
  unfold State.verifyOutcome
  split
  · exact (State.imageTaken_verify _ j _).trans ended
  · exact ended

theorem State.verifyOutcome_sts (f : Fld) : (s.verifyOutcome j).fld R.secVerifySts f
    = f.get (verifyWord (s.imageResult j.type j.hdr j.pay).1.code j.type (s.shownVersion j)) := by
  have kept : R.secVerifySts ∉ [imageReg j.type] := by unfold imageReg; split <;> decide
  exact ((s.verifyOutcome_afterEnd j).fld kept f).trans (congrArg f.get (s.verifyEnded_sts j))

/-- The end of a verification raises its interrupt. -/
theorem State.verifyOutcome_irq : (s.verifyOutcome j).fld (R.irqSts .sec 0) ⟨0, 0⟩ = 1 := by
  have kept : R.irqSts .sec 0 ∉ [imageReg j.type] := by unfold imageReg; split <;> decide
  exact ((s.verifyOutcome_afterEnd j).fld kept _).trans (State.irq_raise _ _ _ _ (by decide))

end

/-- A warden image taken leaves WARDEN_OK as the word of the image and extends measurement 6. -/
theorem State.imageTaken_warden (s : State) (j : VerifyJob) (image : List Byte) (ht : j.type = 2) :
    (s.imageTaken j image).reg R.secWardenOk = wardenWord j.pay image
      ∧ ((s.imageTaken j image).meas 6).2 = (s.meas 6).2 + 1 := by
  rw [State.imageTaken, if_neg (by omega)]
  exact ⟨State.reg_setReg_same _ _ _, s.meas_measure' 6 image⟩

/-- A security engine image taken runs and extends measurement 5. -/
theorem State.imageTaken_engine (s : State) (j : VerifyJob) (image : List Byte) (ht : j.type = 3) :
    (s.imageTaken j image).fld R.secSts F.secSts_SE_RUN = 1 ∧ ((s.imageTaken j image).meas 5).2 = (s.meas 5).2 + 1 := by
  rw [State.imageTaken, if_pos ht]
  exact ⟨State.fld_setFld_same _ _ _ _ rfl, s.meas_measure' 5 image⟩

end Sys2Proof.Machine
end

section
/-! SUPPORT. The beginning of a verification (R606), the key slots (R134, R135) and the release of a warden (R607): one
equation for each form of the command that the statement speaks of. -/

namespace Sys2Proof.Machine

/-! ## IMAGE_VERIFY -/

/-- The job that a write of VERIFY_CMD begins, from the addresses of its header and its payload. -/
def State.verifyJob (s : State) (cmd : Word) : VerifyJob :=
  ⟨F.secVerifyCmd_TYPE.get cmd, s.fld R.secVerifyHdr F.secVerifyHdr_ADDR * 256, s.fld R.secVerifyPay F.secVerifyPay_ADDR * 256⟩

/-- The state in which a verification is in progress. -/
def State.verifyBegun (s : State) (cmd : Word) : State :=
  { s.setReg R.secVerifyCmd (cmd &&& 7) with sec := { s.sec with verify := some (s.verifyJob cmd) } }.setFld R.secVerifySts
    F.secVerifySts_BUSY 1

theorem execImageVerify_begins (s : State) (a : Agent) (cmd : Word) (hd : s.pageDead .sec 0 = false)
    (hf : fwAllowed a .sec = true) (ht : 2 ≤ F.secVerifyCmd_TYPE.get cmd) (hb : s.fld R.secVerifySts F.secVerifySts_BUSY = 0)
    (hg : F.secVerifyCmd_GO.get cmd = 1) : execImageVerify a cmd s = .next (s.verifyBegun cmd) := by
  have go : ¬(F.secVerifyCmd_TYPE.get cmd < 2 ∨ s.bit R.secVerifySts F.secVerifySts_BUSY = true) := by
    simp [State.bit_of_zero hb, Nat.not_lt.mpr ht]
  have hdr : (s.setReg R.secVerifyCmd (cmd &&& 7)).fld R.secVerifyHdr F.secVerifyHdr_ADDR
      = s.fld R.secVerifyHdr F.secVerifyHdr_ADDR := (s.changesOnly_setReg _ _).fld (by decide) _
  have pay : (s.setReg R.secVerifyCmd (cmd &&& 7)).fld R.secVerifyPay F.secVerifyPay_ADDR
      = s.fld R.secVerifyPay F.secVerifyPay_ADDR := (s.changesOnly_setReg _ _).fld (by decide) _
  rw [State.verifyBegun, State.verifyJob, ← hdr, ← pay]
  simp only [execImageVerify, hd, hf, go, hg]
  rfl

theorem State.verifyBegun_changesOnly (s : State) (cmd : Word) :
    s.changesOnly (s.verifyBegun cmd) [R.secVerifyCmd, R.secVerifySts] :=
  (((s.changesOnly_setReg _ _).trans (State.changesOnly_withSec _ _)).trans (State.changesOnly_setFld _ _ _ _)).mono (by simp)

/-! ## KEY_SLOT_WRITE -/

section
variable (s : State) (a : Agent) (k : Fin 64) (hd : s.pageDead .sec 0 = false)
include hd

theorem execKeySlotWrite_key_free (i : Fin 4) (v : Word) (hv : s.fld (R.secRkeyCfg k) F.secRkeyCfg_VALID = 0) :
    execKeySlotWrite a k (.key i v) s = .next (s.setReg (R.secRkeyK (k.val * 4 + i.val)) v) := by
  simp [execKeySlotWrite, hd, State.bit_of_zero hv]

theorem execKeySlotWrite_key_held (i : Fin 4) (v : Word) (hv : s.fld (R.secRkeyCfg k) F.secRkeyCfg_VALID = 1) :
    execKeySlotWrite a k (.key i v) s = .next (s.keyLocked a (R.secRkeyK (k.val * 4 + i.val))) := by
  simp [execKeySlotWrite, hd, State.bit_of_one hv]

theorem execKeySlotWrite_cfg_free (v : Word) (hv : s.fld (R.secRkeyCfg k) F.secRkeyCfg_VALID = 0) :
    execKeySlotWrite a k (.cfg v) s = .next ((s.setFld (R.secRkeyCfg k) F.secRkeyCfg_CTX (F.secRkeyCfg_CTX.get v)).setFld
      (R.secRkeyCfg k) F.secRkeyCfg_VALID (F.secRkeyCfg_VALID.get v)) := by
  simp [execKeySlotWrite, hd, State.bit_of_zero hv]

theorem execKeySlotWrite_cfg_held (v : Word) (hv : s.fld (R.secRkeyCfg k) F.secRkeyCfg_VALID = 1) :
    execKeySlotWrite a k (.cfg v) s = .next ((s.keyLocked a (R.secRkeyCfg k)).setFld (R.secRkeyCfg k) F.secRkeyCfg_VALID
      (F.secRkeyCfg_VALID.get v)) := by
  simp [execKeySlotWrite, hd, State.bit_of_one hv]

end

/-- VALID has one bit: a key slot is free or held. -/
theorem State.keySlot_free_or_held (s : State) (k : Nat) :
    s.fld (R.secRkeyCfg k) F.secRkeyCfg_VALID = 0 ∨ s.fld (R.secRkeyCfg k) F.secRkeyCfg_VALID = 1 := by
  have lt : s.fld (R.secRkeyCfg k) F.secRkeyCfg_VALID < 2 := Nat.mod_lt _ (by decide)
  omega

theorem State.keyLocked_recorded (s : State) (a : Agent) (r : Reg) :
    (s.keyLocked a r).fld (R.errRec .sec 0 0) F.errQ0_VALID = 1 := s.record_valid _

/-- A field reads a value taken from the same field of another word. -/
theorem State.fld_setFld_get (s : State) (r : Reg) (f : Fld) (v : Word) (h : f.ok = true) :
    (s.setFld r f (f.get v)).fld r f = f.get v := (s.fld_setFld_same r f _ h).trans (Nat.mod_mod _ _)

/-! ## WARDEN_RUN -/

/-- The image that WARDEN_OK names is the one a region's warden would start from. -/
def State.wardenVerified (s : State) (r : Nat) : Prop :=
  s.fld R.secWardenOk F.secWardenOk_VALID = 1
    ∧ s.fld R.secWardenOk F.secWardenOk_ADDR = s.fld (R.rgnFwBase r) F.rgnFwBase_ADDR

theorem execWardenRun_firmware (s : State) (a : Agent) (r : Fin 32) (hr : s.regReaches a .rgn r = true)
    (hf : fwAllowed a .rgn = true) : execWardenRun a r s = .next (s.wardenRun r) := by simp [execWardenRun, hr, hf]

/-- A warden is released, at the address of its image. -/
def State.wardenReleased (s : State) (r : Nat) : State :=
  { s.setFld (R.rgnCtl r) F.rgnCtl_WARDEN_RUN 1 with
    host := { s.host with starts := insertKey s.host.starts (64 + r) (s.fld (R.rgnFwBase r) F.rgnFwBase_ADDR * 65536) } }

/-- A write of 1 to WARDEN_RUN releases the warden or is ignored. -/
theorem State.wardenRun_cases (s : State) (r : Nat) : s.wardenRun r = s ∨ s.wardenRun r = s.wardenReleased r := by
  unfold State.wardenRun
  extract_lets base ok
  split
  · exact .inl rfl
  · exact .inr rfl

/-- It is ignored away from the verified image (R607). -/
theorem State.wardenRun_ignored (s : State) (r : Nat) (h : ¬s.wardenVerified r) : s.wardenRun r = s := by
  unfold State.wardenRun
  extract_lets base ok
  have refused : ok = false := by
    by_contra accepted
    simp only [ok, base, State.bit, Bool.not_eq_false, Bool.and_eq_true, beq_iff_eq] at accepted
    obtain ⟨⟨⟨valid, place⟩, -⟩, -⟩ := accepted
    exact h ⟨valid, Nat.eq_of_mul_eq_mul_right (by decide) place⟩
  exact if_pos (by simp [refused])

/-- At the verified image, in a system granule and with no failed boot, a warden that is held is released. -/
theorem State.wardenRun_releases (s : State) (r : Nat) (hr : s.fld (R.rgnCtl r) F.rgnCtl_WARDEN_RUN = 0)
    (hv : s.wardenVerified r) (hg : s.systemGranule (s.fld (R.rgnFwBase r) F.rgnFwBase_ADDR * 65536) = true)
    (hb : s.fld R.pkgSts F.pkgSts_BOOT_FAIL = 0) : s.wardenRun r = s.wardenReleased r := by
  obtain ⟨valid, place⟩ := hv
  unfold State.wardenRun
  extract_lets base ok
  have accepted : ok = true := by simp [ok, base, State.bit_of_one valid, place, hg, State.bit_of_zero hb]
  exact if_neg (by simp [accepted, State.bit_of_zero hr])

theorem State.wardenReleased_changesOnly (s : State) (r : Nat) : s.changesOnly (s.wardenReleased r) [R.rgnCtl r] :=
  (s.changesOnly_setFld _ _ _).trans (State.changesOnly_withHost _ _)

theorem State.wardenRun_changesOnly (s : State) (r : Nat) : s.changesOnly (s.wardenRun r) [R.rgnCtl r] := by
  rcases s.wardenRun_cases r with h | h
  · rw [h]
    exact (State.changesOnly.refl s).mono (by simp)
  · rw [h]
    exact s.wardenReleased_changesOnly r

end Sys2Proof.Machine
end

section
/-! SUPPORT. The statement about the security commands, settled. -/

namespace Sys2Proof.Machine

/-- Settles O59: each clause by the form the command takes. A verification ends in `verifyEnded`, to which an accepted image
adds its own register and measurement; WARDEN_OK comes out valid because the header check aligns a warden image's address. -/
theorem securityCommands : Obligations.SecurityCommands := by
  unfold Obligations.SecurityCommands
  refine ⟨fun s a v hd hf ht hb hg => ?_, fun s j hj _ hb => ?_, fun s a k i v hd => ?_, fun s a k v hd hv => ?_,
    fun s a k v hd hv => ?_, fun s a r hr hf => ?_⟩
  · exact ⟨_, execImageVerify_begins s a v hd hf ht hb hg, State.fld_setFld_same _ _ _ _ rfl, rfl, s.verifyBegun_changesOnly v⟩
  · refine ⟨_, execVerifyDone_eq s j hj hb, s.verifyOutcome_verify j, ?_, ?_, s.verifyOutcome_irq j, fun rejected => ?_,
      fun warden accepted => ?_, fun engine accepted => ?_⟩
    · exact (s.verifyOutcome_sts j _).trans (verifyWord_busy _ _ _)
    · exact (s.verifyOutcome_sts j _).trans (verifyWord_result _ _ _ (VResult.code_lt _))
    · rw [State.verifyOutcome_rejected rejected]
      exact ⟨s.verifyEnded_meas j, s.verifyEnded_changesOnly j⟩
    · have changes := s.verifyOutcome_changesOnly j
      have aligned := State.headerResult_aligned (State.headerResult_of_accepted (warden ▸ accepted))
      have taken := (s.verifyEnded j).imageTaken_warden j (s.imageResult j.type j.hdr j.pay).2 warden
      rw [warden] at changes
      rw [← State.verifyOutcome_accepted accepted, State.meas_congr (s.verifyEnded_meas j)] at taken
      exact ⟨(congrArg F.secWardenOk_VALID.get taken.1).trans (wardenWord_valid _ _ aligned), taken.2, changes⟩
    · have changes := s.verifyOutcome_changesOnly j
      have taken := (s.verifyEnded j).imageTaken_engine j (s.imageResult j.type j.hdr j.pay).2 engine
      rw [engine] at changes
      rw [← State.verifyOutcome_accepted accepted, State.meas_congr (s.verifyEnded_meas j)] at taken
      exact ⟨taken.1, taken.2, changes⟩
  · rcases s.keySlot_free_or_held k with free | held
    · exact ⟨_, execKeySlotWrite_key_free s a k hd i v free,
        fun _ => ⟨State.reg_setReg_same _ _ _, s.changesOnly_setReg _ _⟩,
        fun held => absurd (free.symm.trans held) (by decide)⟩
    · exact ⟨_, execKeySlotWrite_key_held s a k hd i v held, fun free => absurd (free.symm.trans held) (by decide),
        fun _ => ⟨s.reg_record_ne _ _ rfl (by simp) (by simp), s.keyLocked_recorded a _⟩⟩
  · refine ⟨_, execKeySlotWrite_cfg_free s a k hd v hv,
      ((s.changesOnly_setFld _ _ _).trans (State.changesOnly_setFld _ _ _ _)).mono (by simp), ?_, State.fld_setFld_get _ _ _ _ rfl⟩
    exact (State.fld_setFld_apart _ _ _ _ _ rfl rfl rfl).trans (State.fld_setFld_get _ _ _ _ rfl)
  · refine ⟨_, execKeySlotWrite_cfg_held s a k hd v hv, ?_, State.fld_setFld_get _ _ _ _ rfl, ?_⟩
    · exact (State.fld_setFld_apart _ _ _ _ _ rfl rfl rfl).trans
        (congrArg F.secRkeyCfg_CTX.get (s.reg_record_ne _ _ rfl (by simp) (by simp)))
    · exact (State.fld_setFld_ne _ _ _ _ _ _ (by simp)).trans (s.keyLocked_recorded a _)
  · refine ⟨_, execWardenRun_firmware s a r hr hf, s.wardenRun_changesOnly r, fun held valid place granule boot => ?_,
      s.wardenRun_ignored r⟩
    rw [s.wardenRun_releases r held ⟨valid, place⟩ granule boot]
    exact ⟨State.fld_setFld_same s _ _ _ rfl, (lookupKey_insertKey _ _ _ _).trans (if_pos rfl)⟩

end Sys2Proof.Machine
end
